-- ==== Sys2Proof/Word.lean ====
section
/-!
DEFINITION. The words of the machine: registers, addresses and fields of encodings (00 R5, 01 R17).
-/
namespace Sys2Proof

/-- A 64-bit register or address (R17). -/
abbrev Word := BitVec 64
/-- A byte of memory (R5). -/
abbrev Byte := BitVec 8
/-- A SHA-256 digest, or a key that Imyuno derives (R393, R394). -/
abbrev Digest := BitVec 256
/-- The 8,192 bits of a vector row (R15). -/
abbrev RowBits := BitVec 8192
/-- Bits of a predicate, one for each lane (R17). -/
abbrev PredBits := BitVec 1024
/-- A 32-bit immediate (R45 to R47). -/
abbrev Imm32 := BitVec 32
abbrev Bits2 := BitVec 2
abbrev Bits3 := BitVec 3
abbrev Bits4 := BitVec 4
abbrev Bits6 := BitVec 6
abbrev Bits7 := BitVec 7
abbrev Bits8 := BitVec 8
abbrev Bits9 := BitVec 9
abbrev Bits10 := BitVec 10
abbrev Bits11 := BitVec 11
abbrev Bits12 := BitVec 12
abbrev Bits14 := BitVec 14
abbrev Bits16 := BitVec 16
abbrev Bits20 := BitVec 20
abbrev Bits26 := BitVec 26
abbrev Bits128 := BitVec 128
/-- Sixty-four bytes: a billet, a granule or a slot map (R166, R365, R363). -/
abbrev Billet := BitVec 512
/-- Number of an s register (R40). -/
abbrev SReg := BitVec 5
/-- Number of an a register (R40). -/
abbrev AReg := BitVec 4
/-- Number of a modifier register (R40). -/
abbrev MReg := BitVec 4
/-- Number of a v register (R40). -/
abbrev VReg := BitVec 7
/-- Number of a predicate register; 12 to 15 are not legal (R40). -/
abbrev PReg := BitVec 4
/-- Number of a pq entry (R40). -/
abbrev PqReg := BitVec 3
/-- Number of a semaphore; 0 means none where the entry allows none (R40). -/
abbrev SemR := BitVec 4
/-- Number of a granary slot (R40). -/
abbrev Slot := BitVec 8
/-- A core: die in bits 7:6, y in bits 5:3, x in bits 2:0 (R3). -/
abbrev CoreId := BitVec 8
/-- A seat of a core (R11). -/
abbrev SeatId := BitVec 2
/-- A compute die (R1). -/
abbrev DieId := BitVec 2
/-- A PCIe function (R377). -/
abbrev FuncId := BitVec 5
/-- Index of an engine queue entry (R174). -/
abbrev EntIdx := BitVec 6
/-- Bytes brought in from outside, lowest address first. -/
abbrev Bytes := List (BitVec 8)

/-- A flag as one bit of a word. -/
def bit1 (b : Bool) : BitVec 1 := if b then 1#1 else 0#1

end Sys2Proof
end

