-- ==== Sys2Proof/Config.lean ====
section
/-!
DEFINITION. The values that the specification leaves open. Each is a constant without a body, applied to what it may
depend on: a claim that uses one holds for every value. The first argument says which value is meant, the second is the
state's counter of free values, so that two reads at different times may differ (log 4).
-/
namespace Sys2Proof.Config

/-- An undefined 64-bit value: a register read before its result has landed (R31), a value no rule states. -/
opaque freeWord : Nat → Nat → Word
/-- The undefined contents of a row (R31, R115). -/
opaque freeRow : Nat → Nat → RowBits
/-- Undefined sector tags. -/
opaque freeTags : Nat → Nat → BitVec 32
/-- The undefined bits of a predicate register. -/
opaque freePred : Nat → Nat → PredBits
/-- An undefined choice between two outcomes (R31: which of two results a register holds). -/
opaque freeBool : Nat → Nat → Bool
/-- An undefined small number: a choice among several. -/
opaque freeNat : Nat → Nat → Nat
/-- The undefined contents of a byte of memory (R13: bytes that a repeated step reads after writing them). -/
opaque freeByte : Nat → Nat → Byte
/-- The result of a special function within its bound, where no exact case applies (R117): a function of the operation
and of the operand, so that equal operands give equal results. -/
opaque special : Nat → BitVec 32 → BitVec 32
/-- The digest of a measurement block from 1 to 5: of the configuration image of a version, of firmware, of the repair map (R393). -/
opaque measure : Nat → Nat → Digest
/-- The identity key that Imyuno derives at a boot from its physically unclonable function (R394). -/
opaque identity : Digest
/-- The alias key: a function of the identity key and of the digests of blocks 1 to 4 (R394). -/
opaque aliasKey : Digest → List Digest → Digest
/-- The digest of a function's TDISP interface report, measurement block 6: of its state, its BAR2's size and how many queues and vectors
it has (R393). -/
opaque report : Nat → Nat → Nat → Nat → Digest
/-- What the DOE mailbox answers to a message: a function of the alias key, of the measurement blocks, of the versions of SPDM that the
device carries and of the message (R393, R394). -/
opaque spdm : Nat → Digest → List Digest → List Nat → List Byte → List Byte
/-- The body of a host mailbox request of a type, from byte 8, that holds the fields given: where each lies is not stated (R380, R381,
log 92). -/
opaque mailBody : Nat → List Nat → List Byte
/-- An estimate or a choice of firmware that the specification does not fix (R266: steward policy). -/
opaque policy : Nat → Nat → Nat

end Sys2Proof.Config
end

