-- ==== Sys2Proof/Syntax.lean ====
section
/-!
DEFINITION. The operations of the machine: one constructor of `Instr` for each row of the opcode table.
Rows that are instructions of a bundle carry the operands of their syllable (02 R44 to R48). Rows that are steps of
another agent (95) carry what the step names and what it brings from outside.
-/
namespace Sys2Proof

/-- The element types, in the order of their codes (R41). -/
inductive Ty where
  | f32 | bf16 | f16 | e4m3 | e5m2 | e3m2 | e2m3 | e2m1 | mxi8 | e8m0
  | i8 | n8 | i16 | n16 | i32 | n32 | i64 | n64
  deriving DecidableEq, Repr

/-- The scopes, in the order of their codes (R42). -/
inductive Scope where
  | st | co | cl | di | pk | dm | sy
  deriving DecidableEq, Repr

/-- A guard: predicate number and sense (R43). -/
structure Guard where
  p : PReg
  neg : Bool
  deriving DecidableEq, Repr

/-- A source operand of the V syllable (R44). -/
inductive VSrc where
  | v (r : VReg) | pq (r : PqReg) | s (r : SReg)
  deriving DecidableEq, Repr

/-- A source operand that must be a row: class 00 or 01 (R122, R123, R132). -/
inductive RowSrc where
  | v (r : VReg) | pq (r : PqReg)
  deriving DecidableEq, Repr

/-- The memory operand of the AM format: an offset, or a post-increment by a modifier (R46, R100). -/
inductive AMem where
  | off (ab : AReg) (o : BitVec 24)
  | post (ab : AReg) (mm : MReg)
  deriving DecidableEq, Repr

/-- The memory operand of the AV format (R46, R100). -/
inductive VMem where
  | off (ab : AReg) (o : BitVec 16)
  | post (ab : AReg) (mm : MReg)
  deriving DecidableEq, Repr

/-- The operations of AMO, in the order of their codes (R46). -/
inductive Aop where
  | add | swap | min | max | minn | maxn | and | or | xor
  deriving DecidableEq, Repr

/-- The operations of VRED and VSCAN, in the order of their codes (R128). -/
inductive RedOp where
  | add | min | max | and | or | xor
  deriving DecidableEq, Repr

/-- The matrix queue a command names: H0, H1 or the whole array (R48, R193). -/
inductive MatQ where
  | h0 | h1 | hw
  deriving DecidableEq, Repr

/-- An engine queue (R174, R189). -/
inductive EngQ where
  | h0 | h1 | te
  deriving DecidableEq, Repr

/-- The operands of an engine command with a parameter block: wait and signal tokens, address register, stamp register
and slack (R48, R197, R229). -/
structure EngArgs where
  wt : SemR
  sg : SemR
  ap : AReg
  ss : SReg
  slk : Bits8
  deriving DecidableEq, Repr

/-- How a tokened access failed after it left the core (R102, R390, R419). -/
inductive BusErr where
  | bus | link
  | hatom (status : Bits3)
  | hcpl (timeout : Bool) (status : Bits3)
  deriving DecidableEq, Repr

/-- The kinds of access a walk checks (R368, R370). -/
inductive AccKind where
  | read | write | fetch | atomic
  deriving DecidableEq, Repr

/-- An access as a walk sees it (R370). -/
structure Access where
  kind : AccKind
  user : Bool
  deriving DecidableEq, Repr

/-- The resources that function 0 grants, and the size of the aperture BAR2 (R378, R379). -/
inductive ResKind where
  | cores | hbm | l2class | hbmClass | key | porterQueue | vector | session | resident | window | memQueue | priv | aperture
  deriving DecidableEq, Repr

/-- The 64 bytes of XTS material of a key load (R393). -/
abbrev Material := BitVec 512

/-- What the boot stages found (R348, R395, R396): the stage reached, the failure code (0: none), the configuration version,
the usable cores and L2 slices of each die, the device number, and Vtrim of each die's columns: byte x is the steps of 5 mV of column x
below Vgd. -/
structure BootIn where
  stage : Bits4
  code : Bits16
  cfgver : Imm32
  c0 : Word
  c1 : Word
  c2 : Word
  c3 : Word
  l0 : Word
  l1 : Word
  l2 : Word
  l3 : Word
  devnum : Bits9
  v0 : Word
  v1 : Word
  v2 : Word
  v3 : Word
  deriving DecidableEq, Repr

/-- One direction of one lane of a link (R409): its log number, die and lane, and which end this device holds. -/
structure LinkId where
  port : Bits9
  die : Bits2
  lane : Bits6
  rx : Bool
  deriving DecidableEq, Repr

/-- A flit with its sideband (R410). `ok` says that its check code holds. -/
structure Flit where
  cls : Bits2
  sop : Bool
  eop : Bool
  psn : Bool
  ok : Bool
  data : BitVec 512
  deriving DecidableEq, Repr

/-- What a fabric request asks of the target (R408, R410, R423). -/
inductive FabOp where
  | read (len : Bits16)
  | write
  | atomic (op : Aop) (w64 : Bool) (b : Word)
  | cas (w64 : Bool) (e b : Word)
  deriving DecidableEq, Repr

/-- The host's AtomicOps (R391). -/
inductive HostOp where
  | fetchAdd | swap | cas
  deriving DecidableEq, Repr

/-- Registers written without a row of their own (R6), by the agent their table names. -/
inductive RegSel where
  | mwin (core : CoreId)
  | mral (core : CoreId)
  | wgrant (core : CoreId) (seat : SeatId)
  | withdraw (core : CoreId)
  | etmo
  | fwinBase (n : BitVec 5)
  | fwinCtl (n : BitVec 5)
  | importRow (n : Bits12)
  | reqEnable (func : FuncId)
  | qBase (func : FuncId) (q : Bits8)
  | qLsz (func : FuncId) (q : Bits8)
  | vecMask (func : FuncId) (vec : Bits11)
  | vecAddr (func : FuncId) (vec : Bits11)
  | vecData (func : FuncId) (vec : Bits11)
  | hmdb (func : FuncId)
  | mailReq (func : FuncId) (word : Bits3)
  | readOnly (func : FuncId) (off : Imm32)
  deriving DecidableEq, Repr

/-- The storage whose correctable errors are corrected and counted (R191, R196, R217, R280): VRF rows, L1D data, the seat table,
queue entries, the weight store, the granary, L2 data and L2 tags. -/
inductive StorUnit where
  | vrf | l1d | table | queue | weights | granary | l2d | l2tag
  deriving DecidableEq, Repr

/-- An error that a core meets in storage in a ck (R191, R196, R217, R280). Correctable: counted for its unit. Uncorrectable: a
sector of a row or of a pq entry; a line of the L1D, by number, in its data or its tag; the instruction cache; the seat table or a
queue entry; a granule of a slice of the weight store (in the scales or the elements); a sector of a granary row; a granule of the L2's
data, by its physical number, or both tags of a line; an entry of a translation cache. -/
inductive StorErr where
  | none
  | corrected (u : StorUnit)
  | vrf (row : Bits11) (sect : BitVec 5)
  | pq (seat : SeatId) (n : PqReg) (sect : BitVec 5)
  | l1d (line : Word)
  | l1tag (line : Word)
  | icache
  | table
  | weights (scale : Bool) (slice : Bits8) (gran : Bits10)
  | granary (row : Bits12) (sect : BitVec 5)
  | l2d (gran : Word)
  | l2tag (line : Word)
  | tlb (second : Bool) (idx : Bits14)
  deriving DecidableEq, Repr

/-- What other devices and the host answer to accesses that a core has sent: the bytes that other devices give, with the numbers
of their poisoned granules of 64 bytes, or how and at which virtual address the access failed (R102, R164, R408); and whether the
writes sent to other devices have been performed (R233). -/
structure FarAns where
  data : Bytes
  pois : List Nat
  err : Option BusErr
  addr : Word
  perf : Bool
  deriving DecidableEq, Repr

/-- The instance and strand index of a suspended strand, or none for one in its seat (R170). -/
abbrev SusId := Option (Imm32 × Bits8)

/-- The answers to several reads, each with the virtual address that was read (R315). -/
abbrev FarReads := List FarAns

/-- Pairs of another device and its function that may push to a queue (R421). -/
abbrev PushDevs := List (Bits9 × FuncId)

/-- Accesses that have reached a pseudo-channel's queues since its last slot: line of 128 bytes and class (R364). -/
abbrev HbmIn := List (BitVec 32 × Bits2)

/-- Numbers of the poisoned granules of a payload (R161, R410). -/
abbrev GranNos := List Nat

/-- A packet that joins the packets waiting at a sending end: its class, channel (true: Q) and flits, each with its poison mark
(R410, R411). -/
structure TxIn where
  cls : Bits2
  chQ : Bool
  flits : List (BitVec 512 × Bool)
  deriving DecidableEq, Repr

/-- Packets that join a sending end between two slots. -/
abbrev TxIns := List TxIn

/-- Another device that asks for something, with the class of its request (R411). -/
abbrev FarDev := Bits9 × Bits2

/-- Credits in flits that the receiver grants between two slots, by class and channel (R412). -/
abbrev Credits := List (Bits2 × Bool × Bits8)

/-- What a participant on another device brings to a collective: its rank, its source buffer with the numbers of its poisoned
granules, and the fcr of its issue; once every destination is written, that its own have been performed; or the reason for which the
collective failed there (R301, R426, R427). -/
structure FarBuf where
  rank : Bits16
  data : Bytes
  pois : List Nat
  fcr : Word
  why : Option (BitVec 3)
  deriving DecidableEq, Repr

/-- What the participants on other devices bring to a collective. -/
abbrev FarBufs := List FarBuf

/-- An entry of an engine queue, with what another device or the host answers to its access (R213, R233). -/
abbrev EntAns := EntIdx × FarAns
/-- A core, with what another device or the host answers to the load that it waits for (R59). -/
abbrev CoreAns := CoreId × FarAns
/-- A die, with what another device answers to the reads of its launch (R315). -/
abbrev DieFar := DieId × FarReads
/-- An instance, with what another device answers to the access at its end (R320, R358). -/
abbrev InstAns := Imm32 × FarAns
/-- A message that waits at a barrier unit, by its place, and whether its record cannot be read (R280). -/
abbrev MsgErr := Bits8 × Bool
/-- The address of a DTAB, with what another device answers to the reads of the image (R387). -/
abbrev TabFar := Word × FarReads
/-- A porter queue, or a packet in one by its place, with what another device or the host answers to the packet's accesses (R384). -/
abbrev PqFar := Bits8 × FarReads
abbrev PktFar := Bits8 × FarReads
/-- Length of a host's read, with what another device answers (R378). -/
abbrev LenFar := Bits12 × FarReads
/-- A payload with the numbers of its poisoned granules (R161, R422). -/
abbrev MarkedBytes := Bytes × GranNos

/-- The operations of the machine, one constructor for each row of the opcode table. -/
inductive Instr where
  /-- NOP (R38). -/
  | nop
  /-- ADD (R78). -/
  | add (sd : SReg) (sa : SReg) (sb : SReg)
  /-- SUB (R78). -/
  | sub (sd : SReg) (sa : SReg) (sb : SReg)
  /-- MUL (R78). -/
  | mul (sd : SReg) (sa : SReg) (sb : SReg)
  /-- MULH (R78). -/
  | mulh (sd : SReg) (sa : SReg) (sb : SReg)
  /-- MULHN (R78). -/
  | mulhn (sd : SReg) (sa : SReg) (sb : SReg)
  /-- DIV (R79). -/
  | div (sd : SReg) (sa : SReg) (sb : SReg)
  /-- DIVN (R79). -/
  | divn (sd : SReg) (sa : SReg) (sb : SReg)
  /-- REM (R79). -/
  | rem (sd : SReg) (sa : SReg) (sb : SReg)
  /-- REMN (R79). -/
  | remn (sd : SReg) (sa : SReg) (sb : SReg)
  /-- AND (R78). -/
  | and (sd : SReg) (sa : SReg) (sb : SReg)
  /-- OR (R78). -/
  | or (sd : SReg) (sa : SReg) (sb : SReg)
  /-- XOR (R78). -/
  | xor (sd : SReg) (sa : SReg) (sb : SReg)
  /-- ANDN (R78). -/
  | andn (sd : SReg) (sa : SReg) (sb : SReg)
  /-- SHL (R78). -/
  | shl (sd : SReg) (sa : SReg) (sb : SReg)
  /-- SHR (R78). -/
  | shr (sd : SReg) (sa : SReg) (sb : SReg)
  /-- SHA (R78). -/
  | sha (sd : SReg) (sa : SReg) (sb : SReg)
  /-- ROT (R78). -/
  | rot (sd : SReg) (sa : SReg) (sb : SReg)
  /-- MIN (R78). -/
  | min (sd : SReg) (sa : SReg) (sb : SReg)
  /-- MAX (R78). -/
  | max (sd : SReg) (sa : SReg) (sb : SReg)
  /-- MINN (R78). -/
  | minn (sd : SReg) (sa : SReg) (sb : SReg)
  /-- MAXN (R78). -/
  | maxn (sd : SReg) (sa : SReg) (sb : SReg)
  /-- CLZ (R78). -/
  | clz (sd : SReg) (sa : SReg)
  /-- CTZ (R78). -/
  | ctz (sd : SReg) (sa : SReg)
  /-- POPC (R78). -/
  | popc (sd : SReg) (sa : SReg)
  /-- SEQ (R78). -/
  | seq (sd : SReg) (sa : SReg) (sb : SReg)
  /-- SNE (R78). -/
  | sne (sd : SReg) (sa : SReg) (sb : SReg)
  /-- SLT (R78). -/
  | slt (sd : SReg) (sa : SReg) (sb : SReg)
  /-- SLTN (R78). -/
  | sltn (sd : SReg) (sa : SReg) (sb : SReg)
  /-- SEL (R78). -/
  | sel (sd : SReg) (sc : SReg) (sa : SReg) (sb : SReg)
  /-- BFX (R80). -/
  | bfx (sd : SReg) (sa : SReg) (pos : Bits6) (lenm1 : Bits6)
  /-- BFI (R80). -/
  | bfi (sd : SReg) (sa : SReg) (pos : Bits6) (lenm1 : Bits6)
  /-- ADDI (R81). -/
  | addi (sd : SReg) (sa : SReg) (imm : Imm32)
  /-- ANDI (R81). -/
  | andi (sd : SReg) (sa : SReg) (imm : Imm32)
  /-- ORI (R81). -/
  | ori (sd : SReg) (sa : SReg) (imm : Imm32)
  /-- XORI (R81). -/
  | xori (sd : SReg) (sa : SReg) (imm : Imm32)
  /-- SHLI (R81). -/
  | shli (sd : SReg) (sa : SReg) (amt : Bits6)
  /-- SHRI (R81). -/
  | shri (sd : SReg) (sa : SReg) (amt : Bits6)
  /-- SHAI (R81). -/
  | shai (sd : SReg) (sa : SReg) (amt : Bits6)
  /-- SLTI (R81). -/
  | slti (sd : SReg) (sa : SReg) (imm : Imm32)
  /-- LI (R81). -/
  | li (sd : SReg) (imm : Imm32)
  /-- LIH (R81). -/
  | lih (sd : SReg) (imm : Imm32)
  /-- BR (R82). -/
  | br (off : Imm32)
  /-- BEQ (R82). -/
  | beq (sa : SReg) (sb : SReg) (off : Imm32)
  /-- BNE (R82). -/
  | bne (sa : SReg) (sb : SReg) (off : Imm32)
  /-- BLT (R82). -/
  | blt (sa : SReg) (sb : SReg) (off : Imm32)
  /-- BGE (R82). -/
  | bge (sa : SReg) (sb : SReg) (off : Imm32)
  /-- BLTN (R82). -/
  | bltn (sa : SReg) (sb : SReg) (off : Imm32)
  /-- BGEN (R82). -/
  | bgen (sa : SReg) (sb : SReg) (off : Imm32)
  /-- JAL (R82). -/
  | jal (sd : SReg) (off : Imm32)
  /-- JALR (R83). -/
  | jalr (sd : SReg) (sa : SReg) (imm : Imm32)
  /-- LOOP_IMM (R85). -/
  | loopImm (cnt : Bits20) (dist : Bits20)
  /-- LOOP_REG (R85). -/
  | loopReg (sa : SReg) (dist : Bits20)
  /-- LCLOSE (R87). -/
  | lclose (vstep : Bits6) (pstep : Bits3)
  /-- LCLOSE_X (R87). -/
  | lcloseX (vstep : Bits6) (pstep : Bits3)
  /-- BPANY (R88). -/
  | bpany (pn : PReg) (lt : Bits2) (off : Imm32)
  /-- BPALL (R88). -/
  | bpall (pn : PReg) (lt : Bits2) (off : Imm32)
  /-- BQS (R89). -/
  | bqs (sa : SReg) (sb : SReg) (off : Imm32)
  /-- TRAP (R90). -/
  | trap (code : Bits26)
  /-- ERET (R91). -/
  | eret
  /-- CRR (R92). -/
  | crr (sd : SReg) (cr : Bits12)
  /-- CRW_REG (R92). -/
  | crwReg (cr : Bits12) (sa : SReg)
  /-- CRW_IMM (R92). -/
  | crwImm (cr : Bits12) (imm : Bits26)
  /-- ENDS (R93). -/
  | ends
  /-- STEP_IMM (R94). -/
  | stepImm (n : Bits26)
  /-- STEP_REG (R94). -/
  | stepReg (sa : SReg)
  /-- TRIG (R95). -/
  | trig
  /-- FENCE (R96). -/
  | fence (scp : Scope)
  /-- FENCE_R (R96). -/
  | fenceR (scp : Scope)
  /-- FENCE_W (R96). -/
  | fenceW (scp : Scope)
  /-- CHK_S (R97). -/
  | chkS (sa : SReg)
  /-- CHK_A (R97). -/
  | chkA (aa : AReg)
  /-- CHK_V (R97). -/
  | chkV (v : VReg)
  /-- AADD (R98). -/
  | aadd (ad : AReg) (aa : AReg) (sb : SReg)
  /-- AADDI (R98). -/
  | aaddi (ad : AReg) (aa : AReg) (imm : Imm32)
  /-- AMOV (R98). -/
  | amov (ad : AReg) (sb : SReg)
  /-- AGET_A (R98). -/
  | agetA (sb : SReg) (aa : AReg)
  /-- AGET_M (R98). -/
  | agetM (sb : SReg) (md : MReg)
  /-- AMODS (R98). -/
  | amods (md : MReg) (sb : SReg)
  /-- LD (R104). -/
  | ld (rt : SReg) (mem : AMem) (sz : Bits2) (sx : Bool) (wt : SemR)
  /-- LDS (R104). -/
  | lds (rt : SReg) (mem : AMem) (sz : Bits2) (sx : Bool) (wt : SemR)
  /-- ST (R104). -/
  | st (rt : SReg) (mem : AMem) (sz : Bits2) (wt : SemR)
  /-- LDA (R104). -/
  | lda (rt : SReg) (mem : AMem) (sz : Bits2) (sx : Bool) (scp : Scope) (wt : SemR)
  /-- STL (R104). -/
  | stl (rt : SReg) (mem : AMem) (sz : Bits2) (scp : Scope) (wt : SemR)
  /-- PREF (R104). -/
  | pref (l2 : Bool) (mem : AMem)
  /-- VLD (R105). -/
  | vld (vt : VReg) (mem : VMem) (g : Guard) (ty : Ty) (wt : SemR)
  /-- VLDS (R105). -/
  | vlds (vt : VReg) (mem : VMem) (g : Guard) (ty : Ty) (wt : SemR)
  /-- VST (R105). -/
  | vst (vt : VReg) (mem : VMem) (g : Guard) (ty : Ty) (wt : SemR)
  /-- VGTH (R105). -/
  | vgth (vt : VReg) (mem : VMem) (vi : VReg) (g : Guard) (ty : Ty) (wt : SemR)
  /-- VSCT (R105). -/
  | vsct (vt : VReg) (mem : VMem) (vi : VReg) (g : Guard) (ty : Ty) (wt : SemR)
  /-- VFETCH (R106). -/
  | vfetch (pq : PqReg) (vs : VReg)
  /-- VTLD (R107). -/
  | vtld (vt : VReg) (slot : Slot) (tr : Bits4) (g : Guard) (ty : Ty)
  /-- VTST (R107). -/
  | vtst (vt : VReg) (slot : Slot) (tr : Bits4) (g : Guard) (ty : Ty)
  /-- AMO (R108). -/
  | amo (rt : SReg) (ab : AReg) (sb : SReg) (op : Aop) (w64 : Bool) (scp : Scope) (ord : Bits2) (wt : SemR)
  /-- AMOCAS (R108). -/
  | amocas (rt : SReg) (ab : AReg) (sb : SReg) (w64 : Bool) (scp : Scope) (ord : Bits2) (wt : SemR)
  /-- VADD (R116). -/
  | vadd (vd : VReg) (a : VSrc) (b : VSrc) (g : Guard) (ty : Ty)
  /-- VSUB (R116). -/
  | vsub (vd : VReg) (a : VSrc) (b : VSrc) (g : Guard) (ty : Ty)
  /-- VMUL (R116). -/
  | vmul (vd : VReg) (a : VSrc) (b : VSrc) (g : Guard) (ty : Ty)
  /-- VFMA (R116). -/
  | vfma (vd : VReg) (a : VSrc) (b : VSrc) (c : VSrc) (g : Guard) (ty : Ty)
  /-- VFMS (R116). -/
  | vfms (vd : VReg) (a : VSrc) (b : VSrc) (c : VSrc) (g : Guard) (ty : Ty)
  /-- VFNMA (R116). -/
  | vfnma (vd : VReg) (a : VSrc) (b : VSrc) (c : VSrc) (g : Guard) (ty : Ty)
  /-- VMIN (R116). -/
  | vmin (vd : VReg) (a : VSrc) (b : VSrc) (g : Guard) (ty : Ty)
  /-- VMAX (R116). -/
  | vmax (vd : VReg) (a : VSrc) (b : VSrc) (g : Guard) (ty : Ty)
  /-- VABS (R116). -/
  | vabs (vd : VReg) (a : VSrc) (g : Guard) (ty : Ty)
  /-- VNEG (R116). -/
  | vneg (vd : VReg) (a : VSrc) (g : Guard) (ty : Ty)
  /-- VCPS (R116). -/
  | vcps (vd : VReg) (a : VSrc) (b : VSrc) (g : Guard) (ty : Ty)
  /-- VDIV (R117). -/
  | vdiv (vd : VReg) (a : VSrc) (b : VSrc) (g : Guard) (ty : Ty)
  /-- VSQRT (R117). -/
  | vsqrt (vd : VReg) (a : VSrc) (g : Guard) (ty : Ty)
  /-- VRCP (R117). -/
  | vrcp (vd : VReg) (a : VSrc) (g : Guard) (ty : Ty)
  /-- VRSQ (R117). -/
  | vrsq (vd : VReg) (a : VSrc) (g : Guard) (ty : Ty)
  /-- VEX2 (R117). -/
  | vex2 (vd : VReg) (a : VSrc) (g : Guard) (ty : Ty)
  /-- VLG2 (R117). -/
  | vlg2 (vd : VReg) (a : VSrc) (g : Guard) (ty : Ty)
  /-- VTNH (R117). -/
  | vtnh (vd : VReg) (a : VSrc) (g : Guard) (ty : Ty)
  /-- VLGS (R117). -/
  | vlgs (vd : VReg) (a : VSrc) (g : Guard) (ty : Ty)
  /-- VSIN (R117). -/
  | vsin (vd : VReg) (a : VSrc) (g : Guard) (ty : Ty)
  /-- VCOS (R117). -/
  | vcos (vd : VReg) (a : VSrc) (g : Guard) (ty : Ty)
  /-- VIADD (R118). -/
  | viadd (vd : VReg) (a : VSrc) (b : VSrc) (sat : Bool) (g : Guard) (ty : Ty)
  /-- VISUB (R118). -/
  | visub (vd : VReg) (a : VSrc) (b : VSrc) (sat : Bool) (g : Guard) (ty : Ty)
  /-- VIMUL (R118). -/
  | vimul (vd : VReg) (a : VSrc) (b : VSrc) (g : Guard) (ty : Ty)
  /-- VIMULH (R118). -/
  | vimulh (vd : VReg) (a : VSrc) (b : VSrc) (g : Guard) (ty : Ty)
  /-- VIMAD (R118). -/
  | vimad (vd : VReg) (a : VSrc) (b : VSrc) (c : VSrc) (g : Guard) (ty : Ty)
  /-- VAND (R118). -/
  | vand (vd : VReg) (a : VSrc) (b : VSrc) (g : Guard) (ty : Ty)
  /-- VOR (R118). -/
  | vor (vd : VReg) (a : VSrc) (b : VSrc) (g : Guard) (ty : Ty)
  /-- VXOR (R118). -/
  | vxor (vd : VReg) (a : VSrc) (b : VSrc) (g : Guard) (ty : Ty)
  /-- VNOT (R118). -/
  | vnot (vd : VReg) (a : VSrc) (g : Guard) (ty : Ty)
  /-- VSHL (R118). -/
  | vshl (vd : VReg) (a : VSrc) (b : VSrc) (g : Guard) (ty : Ty)
  /-- VSHR (R118). -/
  | vshr (vd : VReg) (a : VSrc) (b : VSrc) (g : Guard) (ty : Ty)
  /-- VSHA (R118). -/
  | vsha (vd : VReg) (a : VSrc) (b : VSrc) (g : Guard) (ty : Ty)
  /-- VIMIN (R118). -/
  | vimin (vd : VReg) (a : VSrc) (b : VSrc) (g : Guard) (ty : Ty)
  /-- VIMAX (R118). -/
  | vimax (vd : VReg) (a : VSrc) (b : VSrc) (g : Guard) (ty : Ty)
  /-- VIABS (R118). -/
  | viabs (vd : VReg) (a : VSrc) (sat : Bool) (g : Guard) (ty : Ty)
  /-- VCMP (R119). -/
  | vcmp (pd : PReg) (a : VSrc) (b : VSrc) (cond : Bits3) (z : Bool) (g : Guard) (ty : Ty)
  /-- VICMP (R119). -/
  | vicmp (pd : PReg) (a : VSrc) (b : VSrc) (cond : Bits3) (z : Bool) (g : Guard) (ty : Ty)
  /-- PAND (R120). -/
  | pand (pd : PReg) (pa : PReg) (pb : PReg) (g : Guard) (ty : Ty)
  /-- POR (R120). -/
  | por (pd : PReg) (pa : PReg) (pb : PReg) (g : Guard) (ty : Ty)
  /-- PXOR (R120). -/
  | pxor (pd : PReg) (pa : PReg) (pb : PReg) (g : Guard) (ty : Ty)
  /-- PNOT (R120). -/
  | pnot (pd : PReg) (pa : PReg) (g : Guard) (ty : Ty)
  /-- PMOV (R120). -/
  | pmov (pd : PReg) (pa : PReg) (g : Guard) (ty : Ty)
  /-- PSET_IMM (R120). -/
  | psetImm (pd : PReg) (n : Bits11) (g : Guard) (ty : Ty)
  /-- PSET_REG (R120). -/
  | psetReg (pd : PReg) (sa : SReg) (g : Guard) (ty : Ty)
  /-- PCNT (R121). -/
  | pcnt (sd : SReg) (pa : PReg) (g : Guard) (ty : Ty)
  /-- PFST (R121). -/
  | pfst (sd : SReg) (pa : PReg) (g : Guard) (ty : Ty)
  /-- VMOV (R122). -/
  | vmov (vd : VReg) (a : VSrc) (g : Guard) (ty : Ty)
  /-- VSEL (R122). -/
  | vsel (vd : VReg) (pc : PReg) (a : VSrc) (b : VSrc) (g : Guard) (ty : Ty)
  /-- VBCST_SCALAR (R122). -/
  | vbcstScalar (vd : VReg) (sa : SReg) (g : Guard) (ty : Ty)
  /-- VBCST_LANE (R122). -/
  | vbcstLane (vd : VReg) (a : RowSrc) (sb : SReg) (g : Guard) (ty : Ty)
  /-- VBCST_IMM (R122). -/
  | vbcstImm (vd : VReg) (imm : Imm32) (g : Guard) (ty : Ty)
  /-- VEXT_IMM (R123). -/
  | vextImm (sd : SReg) (a : RowSrc) (idx : Bits10) (ty : Ty)
  /-- VEXT_REG (R123). -/
  | vextReg (sd : SReg) (a : RowSrc) (si : SReg) (ty : Ty)
  /-- VINS_IMM (R123). -/
  | vinsImm (vd : VReg) (sa : SReg) (idx : Bits10) (ty : Ty)
  /-- VINS_REG (R123). -/
  | vinsReg (vd : VReg) (sa : SReg) (si : SReg) (ty : Ty)
  /-- VSHUF (R124). -/
  | vshuf (vd : VReg) (a : VSrc) (ix : VSrc) (g : Guard) (ty : Ty)
  /-- VSHUF_TWO (R124). -/
  | vshufTwo (vd : VReg) (a : VSrc) (ix : VSrc) (c : VSrc) (g : Guard) (ty : Ty)
  /-- VSLIDE_IMM (R125). -/
  | vslideImm (vd : VReg) (a : VSrc) (b : VSrc) (n : Bits11) (g : Guard) (ty : Ty)
  /-- VSLIDE_REG (R125). -/
  | vslideReg (vd : VReg) (a : VSrc) (b : VSrc) (sc : SReg) (g : Guard) (ty : Ty)
  /-- VCMPR (R126). -/
  | vcmpr (vd : VReg) (a : VSrc) (g : Guard) (ty : Ty)
  /-- VRED (R128). -/
  | vred (vd : VReg) (a : VSrc) (op : RedOp) (g : Guard) (ty : Ty)
  /-- VSCAN (R128). -/
  | vscan (vd : VReg) (a : VSrc) (op : RedOp) (g : Guard) (ty : Ty)
  /-- VCVT (R129). -/
  | vcvt (vd : VReg) (a : VSrc) (g : Guard) (td : Ty) (ts : Ty) (part : Bits3) (sat : Bool)
  /-- VQMX (R133). -/
  | vqmx (vd : VReg) (a : VSrc) (te : Ty) (sS : SReg) (part : Bits3)
  /-- VDQMX (R134). -/
  | vdqmx (vd : VReg) (a : RowSrc) (te : Ty) (sS : SReg) (part : Bits3)
  /-- VRND (R131). -/
  | vrnd (vd : VReg) (a : VSrc) (mode : Bits3) (g : Guard) (ty : Ty)
  /-- VDELT (R135). -/
  | vdelt (vd : VReg) (a : VSrc) (b : VSrc) (sc : SReg) (slot : Slot) (g : Guard) (ty : Ty)
  /-- MMA (R197). -/
  | mma (q : MatQ) (e : EngArgs)
  /-- MMAD (R207). -/
  | mmad (q : MatQ) (e : EngArgs)
  /-- MZERO (R212). -/
  | mzero (q : MatQ) (row : Bits11) (rowsm1 : Bits11) (lh : Bool) (wt : SemR) (sg : SemR) (ss : SReg) (slk : Bits8)
  /-- MEPI (R210). -/
  | mepi (q : MatQ) (e : EngArgs)
  /-- OVPOP (R215). -/
  | ovpop (sd : SReg)
  /-- WLOAD (R213). -/
  | wload (q : MatQ) (e : EngArgs)
  /-- TXFER (R229). -/
  | txfer (e : EngArgs)
  /-- TFILL (R229). -/
  | tfill (e : EngArgs)
  /-- TDRAIN (R229). -/
  | tdrain (e : EngArgs)
  /-- TMCAST (R236). -/
  | tmcast (e : EngArgs)
  /-- TLOOK (R225). -/
  | tlook (sd : SReg) (sa : SReg)
  /-- TCLAIM_AUTO (R226). -/
  | tclaimAuto (sd : SReg) (sa : SReg)
  /-- TCLAIM_NAMED (R226). -/
  | tclaimNamed (sd : SReg) (sa : SReg) (slot : Slot)
  /-- TFREE_NAMED (R227). -/
  | tfreeNamed (slot : Slot)
  /-- TFREE_REG (R227). -/
  | tfreeReg (sa : SReg)
  /-- TSTAT_NAMED (R228). -/
  | tstatNamed (sd : SReg) (slot : Slot)
  /-- TSTAT_REG (R228). -/
  | tstatReg (sd : SReg) (sa : SReg)
  /-- SIG_IMM (R187). -/
  | sigImm (sem : SemR) (amt : Bits8)
  /-- SIG_REG (R187). -/
  | sigReg (sem : SemR) (sa : SReg)
  /-- SWAIT (R188). -/
  | swait (sem : SemR) (amt : Bits8)
  /-- SEMR_SEM (R189). -/
  | semrSem (sd : SReg) (sem : SemR)
  /-- SEMR_OVF (R189). -/
  | semrOvf (sd : SReg)
  /-- SEMR_ENT (R189). -/
  | semrEnt (sd : SReg) (sa : SReg) (q : EngQ) (word : Bits3)
  /-- SEMR_CFG (R189). -/
  | semrCfg (sd : SReg) (q : EngQ)
  /-- EQFLUSH_D (R190). -/
  | eqflushD (q : EngQ)
  /-- EQFLUSH_R (R190). -/
  | eqflushR (q : EngQ) (sb : SReg)
  /-- QPUSH (R240). -/
  | qpush (sd : SReg) (sa : SReg) (ab : AReg) (sc : SReg) (wait : Bits20) (sem : SemR)
  /-- QPUSH_A (R422). -/
  | qpushA (sd : SReg) (sa : SReg) (ab : AReg) (sc : SReg) (wait : Bits20) (sem : SemR)
  /-- QPOP (R240). -/
  | qpop (sd : SReg) (sa : SReg) (ab : AReg) (sc : SReg) (wait : Bits20) (sem : SemR)
  /-- QSTAT (R242). -/
  | qstat (sd : SReg) (sa : SReg) (field : Bits2)
  /-- BARI (R271). -/
  | bari (bid : Bits4) (lw : Bits2) (lh : Bits2) (cnt : Bits12)
  /-- BARA (R271). -/
  | bara (sd : SReg) (bid : Bits4) (lw : Bits2) (lh : Bits2) (sem : SemR) (scp : Scope)
  /-- BARW (R271). -/
  | barw (sd : SReg) (bid : Bits4) (lw : Bits2) (lh : Bits2) (sa : SReg) (sem : SemR) (scp : Scope)
  /-- LAUNCH (R315). -/
  | launch (sd : SReg) (ab : AReg) (sem : SemR)
  /-- NSEND (R343). -/
  | nsend (sa : SReg) (slot : Slot) (sem : SemR)
  /-- NPOST (R341). -/
  | npost (sa : SReg) (slot : Slot) (nm1 : Bits4) (sem : SemR)
  /-- NSTAT_E (R344). -/
  | nstatE (sd : SReg)
  /-- NSTAT_T (R344). -/
  | nstatT (sd : SReg)
  /-- NSTAT_I (R344). -/
  | nstatI (sd : SReg) (sa : SReg)
  /-- NSTAT_A (R344). -/
  | nstatA (sd : SReg) (sa : SReg)
  /-- COLL (R424). -/
  | coll (sd : SReg) (ab : AReg) (sem : SemR) (lw : Bits2) (lh : Bits2)
  /-- MRGN (R257). -/
  | mrgn (level : Bits3) (sem : SemR)
  /-- MINJ (R258). -/
  | minj (unit : Bits2) (sa : SReg) (cnt : Bits8) (gap : Bits12)
  /-- MINJ_OFF (R258). -/
  | minjOff
  /-- ISSUE_ATTEMPT (R431). -/
  | issueAttempt (core : CoreId) (err : StorErr)
  /-- STEPGAP (R94). -/
  | stepgap (core : CoreId)
  /-- ASYNC_CAUSE_TAKE (R153). -/
  | asyncCauseTake (core : CoreId)
  /-- SEAT_SWITCH (R169). -/
  | seatSwitch (core : CoreId)
  /-- RESULT_LANDING (R55). -/
  | resultLanding (core : CoreId) (seat : SeatId) (idx : Bits8) (sus : SusId) (ans : FarAns)
  /-- ERROR_RESPONSE (R102). -/
  | errorResponse (core : CoreId) (seat : SeatId) (idx : Bits8) (ans : FarAns)
  /-- LOAD_MISS_FILL (R59). -/
  | loadMissFill (fill : CoreAns)
  /-- BILLET_WRITE (R168). -/
  | billetWrite (core : CoreId) (seat : SeatId) (billet : Billet)
  /-- BILLET_RELEASE (R168). -/
  | billetRelease (core : CoreId) (seat : SeatId)
  /-- SEAT_WAKE_DONE (R168). -/
  | seatWakeDone (core : CoreId) (seat : SeatId)
  /-- CHECKPOINT_SAVE_DONE (R168). -/
  | checkpointSaveDone (core : CoreId) (seat : SeatId)
  /-- DESIGNATE (R323). -/
  | designate (core : CoreId) (nxt : SeatId) (nv : Bool)
  /-- PRQ_KILL (R328). -/
  | prqKill (core : CoreId) (seat : SeatId)
  /-- PRQ_CHECKPOINT (R328). -/
  | prqCheckpoint (core : CoreId) (seat : SeatId)
  /-- PRQ_DRAIN (R328). -/
  | prqDrain (core : CoreId) (seat : SeatId)
  /-- FORCED_KILL (R329). -/
  | forcedKill (core : CoreId) (seat : SeatId)
  /-- CKPT_REQUEST_TIMEOUT (R329). -/
  | ckptRequestTimeout (core : CoreId) (seat : SeatId)
  /-- ROW_POWER_WRITE (R172). -/
  | rowPowerWrite (core : CoreId) (val : Word)
  /-- DEBUG_ROW_READ (R173). -/
  | debugRowRead (core : CoreId) (row : Bits11)
  /-- DEBUG_ROW_WRITE (R173). -/
  | debugRowWrite (core : CoreId) (row : Bits11) (data : RowBits) (tags : Imm32)
  /-- PACING_OPEN (R183). -/
  | pacingOpen (core : CoreId) (q : EngQ) (idx : EntIdx)
  /-- WAIT_TOKEN_CONSUME (R182). -/
  | waitTokenConsume (core : CoreId) (q : EngQ) (idx : EntIdx)
  /-- STAMP_GATE_OPEN (R180). -/
  | stampGateOpen (core : CoreId) (q : EngQ) (idx : EntIdx)
  /-- UNIT_CHOICE (R181). -/
  | unitChoice (core : CoreId) (q : EngQ)
  /-- LEAVE_GRANT (R186). -/
  | leaveGrant (die : DieId) (col : Bits3)
  /-- PARAM_BLOCK_READ_DONE (R200). -/
  | paramBlockReadDone (core : CoreId) (q : EngQ) (ent : EntAns)
  /-- MMA_STEP (R204). -/
  | mmaStep (core : CoreId) (q : EngQ) (idx : EntIdx)
  /-- MMAD_STEP (R208). -/
  | mmadStep (core : CoreId) (q : EngQ) (idx : EntIdx)
  /-- MEPI_STEP (R210). -/
  | mepiStep (core : CoreId) (q : EngQ) (idx : EntIdx)
  /-- MZERO_STEP (R212). -/
  | mzeroStep (core : CoreId) (q : EngQ) (idx : EntIdx)
  /-- WLOAD_STEP (R213). -/
  | wloadStep (core : CoreId) (q : EngQ) (idx : EntIdx)
  /-- TXFER_STEP (R233). -/
  | txferStep (core : CoreId) (idx : EntIdx)
  /-- TFILL_STEP (R233). -/
  | tfillStep (core : CoreId) (idx : EntIdx)
  /-- TDRAIN_STEP (R233). -/
  | tdrainStep (core : CoreId) (idx : EntIdx)
  /-- TMCAST_STEP (R236). -/
  | tmcastStep (core : CoreId) (idx : EntIdx)
  /-- STEP_END (R203). -/
  | stepEnd (core : CoreId) (q : EngQ) (ent : EntAns)
  /-- STAMP_MISS (R184). -/
  | stampMiss (core : CoreId) (q : EngQ) (idx : EntIdx)
  /-- LATE_WRITE_FAILURE (R234). -/
  | lateWriteFailure (core : CoreId) (q : EngQ) (idx : EntIdx) (step : Imm32) (addr : Word) (link : Bool)
  /-- QUEUE_GRANT (R239). -/
  | queueGrant (core : CoreId)
  /-- PACKET_PUBLISH (R241). -/
  | packetPublish (die : DieId) (qnum : Bits12)
  /-- QWAIT_EXPIRY (R240). -/
  | qwaitExpiry (core : CoreId)
  /-- BARRIER_ARRIVAL (R270). -/
  | barrierArrival (die : DieId) (clu : Bits3) (idx : Bits8) (err : Bool)
  /-- BARRIER_WAIT_REQUEST (R270). -/
  | barrierWaitRequest (die : DieId) (clu : Bits3) (msg : MsgErr)
  /-- CNT (R267). -/
  | cnt (die : DieId) (clu : Bits3) (head : Bool) (core : Bits16) (seq : Imm32) (func : FuncId) (asn : Bits12) (dest : Word) (unit : Bits8) (cls : Bits8)
  /-- FLOOR (R267). -/
  | floor (die : DieId) (clu : Bits3) (head : Bool) (core : Bits16) (seq : Imm32) (val : Bits8)
  /-- REQUAL (R267). -/
  | requal (die : DieId) (clu : Bits3) (head : Bool) (core : Bits16) (seq : Imm32)
  /-- BUDGET (R267). -/
  | budget (die : DieId) (clu : Bits3) (head : Bool) (core : Bits16) (seq : Imm32) (col : Bits8) (lb : Bits8)
  /-- INVAL (R279). -/
  | inval (die : DieId) (clu : Bits3) (head : Bool) (core : Bits16) (seq : Imm32) (va : Word) (size : Bits8) (flags : Bits8) (func : Bits16) (asn : Bits16)
  /-- INVAL_COMPLETE (R279). -/
  | invalComplete (die : DieId) (clu : Bits3)
  /-- STEWARD_UNKNOWN_TYPE (R267). -/
  | stewardUnknownType (die : DieId) (clu : Bits3) (head : Bool) (core : Bits16) (seq : Imm32) (type : Bits8)
  /-- STEWARD_WATCHDOG (R280). -/
  | stewardWatchdog (die : DieId) (clu : Bits3)
  /-- WINDOW_END (R254). -/
  | windowEnd (core : CoreId)
  /-- LATE_VERDICT (R245). -/
  | lateVerdict (core : CoreId)
  /-- ENGINE_LATE_VERDICT (R247). -/
  | engineLateVerdict (core : CoreId) (q : EngQ)
  /-- PERSISTENCE_LIMIT (R252). -/
  | persistenceLimit (core : CoreId) (unit : Bits2)
  /-- GUARD_SETTLED (R253). -/
  | guardSettled (die : DieId) (col : Bits3)
  /-- INJECTION (R258). -/
  | injection (core : CoreId)
  /-- DROOP_DETECT (R349). -/
  | droopDetect (die : DieId) (col : Bits3)
  /-- DROOP_HOLD_END (R349). -/
  | droopHoldEnd (die : DieId) (col : Bits3)
  /-- RTE_UPDATE (R313). -/
  | rteUpdate (core : CoreId) (seat : SeatId)
  /-- LAUNCH_READ_DONE (R316). -/
  | launchReadDone (read : DieFar)
  /-- INSTANCE_RELEASE (R318). -/
  | instanceRelease (die : DieId) (inst : Imm32)
  /-- BIND (R322). -/
  | bind (die : DieId) (inst : Imm32)
  /-- CUT_START (R308). -/
  | cutStart (die : DieId) (inst : Imm32)
  /-- CUT_REPORT (R331). -/
  | cutReport (core : CoreId) (seat : SeatId)
  /-- CUT_TIMEOUT (R331). -/
  | cutTimeout (die : DieId) (inst : Imm32)
  /-- INSTANCE_COMPLETE (R320). -/
  | instanceComplete (die : DieId) (inst : InstAns)
  /-- INSTANCE_RETIRE (R308). -/
  | instanceRetire (die : DieId) (inst : Imm32)
  /-- SHARE_WINDOW_END (R323). -/
  | shareWindowEnd (core : CoreId)
  /-- DISPATCH_CONFIG_WRITE (R309). -/
  | dispatchConfigWrite (die : DieId) (val : Word)
  /-- MESSAGE_INGRESS (R339). -/
  | messageIngress (die : DieId) (mode : Bits2) (key : Imm32) (payload : Bytes) (arr : Word)
  /-- MESSAGE_LANDED (R339). -/
  | messageLanded (die : DieId) (entry : Bits14)
  /-- EGRESS_DONE (R343). -/
  | egressDone (core : CoreId) (seat : SeatId) (idx : Bits8) (stamp : Word)
  /-- TIMEBASE_UPDATE (R346). -/
  | timebaseUpdate (base : Word) (cyc : Word) (rate : Word) (lock : Bool) (offs : Imm32)
  /-- POWER_CHECK (R351). -/
  | powerCheck (watts : Bits16)
  /-- FABRIC_CLOCK_HOP (R350). -/
  | fabricClockHop (safe : Bool)
  /-- MIRROR_COMMIT (R358). -/
  | mirrorCommit (die : DieId) (inst : InstAns)
  /-- MIRROR_HEADER_WRITE (R358). -/
  | mirrorHeaderWrite (die : DieId) (inst : Imm32)
  /-- HEARTBEAT_SEND (R359). -/
  | heartbeatSend (die : DieId)
  /-- HEARTBEAT_TICK (R359). -/
  | heartbeatTick (die : DieId)
  /-- RELAY_FAILURE (R359). -/
  | relayFailure (die : DieId)
  /-- HBM_SLOT (R364). -/
  | hbmSlot (die : DieId) (pch : Bits7) (arr : HbmIn) (cor : Bits6) (unc : Bits6)
  /-- SLOT_MAP_APPLY (R363). -/
  | slotMapApply (die : DieId)
  /-- PAGE_WALK_DONE (R370). -/
  | pageWalkDone (core : CoreId) (seat : SeatId) (func : FuncId) (asn : Bits12) (va : Word) (acc : Access)
  /-- KEY_LOAD (R374). -/
  | keyLoad (func : FuncId) (key : Bits10) (bypass : Bool) (material : Material) (secured : Bool)
  /-- KEY_RETIRE (R374). -/
  | keyRetire (key : Bits10)
  /-- KEY_RETIRE_DONE (R374). -/
  | keyRetireDone (key : Bits10)
  /-- ALLOC (R381). -/
  | alloc (func : FuncId) (target : FuncId) (kind : ResKind) (lo : Word) (hi : Word)
  /-- RELEASE (R381). -/
  | release (func : FuncId) (target : FuncId) (kind : ResKind) (lo : Word) (hi : Word)
  /-- QCFG (R381). -/
  | qcfg (func : FuncId) (die : DieId) (qnum : Bits12) (base : Word) (lrsz : Bits8) (push : Imm32) (pdev : PushDevs) (pop : Imm32) (mirror : Word)
  /-- STEER (R381). -/
  | steer (func : FuncId) (die : DieId) (entry : Bits14) (w0 : Word)
  /-- EGRESS (R381). -/
  | egress (func : FuncId) (die : DieId) (eix : Bits14) (port : Bits8) (mode : Bits8) (session : Bits16) (ip : Bits128) (job : Imm32) (pid : Imm32)
  /-- SESS (R381). -/
  | sess (func : FuncId) (session : Bits16) (prim : Bits2) (stateva : Word) (statelen : Imm32) (shadowva : Word) (shadow : Bits16)
  /-- INSTALL (R387). -/
  | install (func : FuncId) (rslot : Bits8) (dmask : Bits8) (cmask : Word) (image : Word) (tab : TabFar)
  /-- REMOVE (R381). -/
  | remove (func : FuncId) (rslot : Bits8)
  /-- ASROOT (R381). -/
  | asroot (func : FuncId) (asn : Bits12) (root : Word)
  /-- CWM (R381). -/
  | cwm (func : FuncId) (die : DieId) (cls : Bits4) (ways : Bits16)
  /-- SMAP (R381). -/
  | smap (func : FuncId) (die : DieId) (map : Billet)
  /-- MAILBOX_UNKNOWN_TYPE (R380). -/
  | mailboxUnknownType (func : FuncId) (type : Bits8)
  /-- CWM_APPLY (R278). -/
  | cwmApply (die : DieId)
  /-- PORTER_DOORBELL (R382). -/
  | porterDoorbell (func : FuncId) (q : Bits8) (tail : Imm32)
  /-- QUEUE_ENABLE (R382). -/
  | queueEnable (func : FuncId) (q : Bits8)
  /-- PORTER_NOP (R385). -/
  | porterNop (func : FuncId) (pq : PqFar)
  /-- PORTER_LAUNCH (R385). -/
  | porterLaunch (func : FuncId) (pq : PqFar)
  /-- LAUNCH_RES (R387). -/
  | launchRes (func : FuncId) (pq : PqFar)
  /-- WAITMEM (R385). -/
  | waitmem (func : FuncId) (pq : PqFar)
  /-- WAITMEM_SATISFIED (R385). -/
  | waitmemSatisfied (func : FuncId) (q : Bits8) (pkt : PktFar)
  /-- WAITMEM_TIMEOUT (R385). -/
  | waitmemTimeout (func : FuncId) (q : Bits8) (pkt : PktFar)
  /-- SIGNAL (R385). -/
  | signal (func : FuncId) (pq : PqFar)
  /-- PRED (R386). -/
  | pred (func : FuncId) (pq : PqFar)
  /-- REARM (R386). -/
  | rearm (func : FuncId) (pq : PqFar)
  /-- REARM_ITERATION (R386). -/
  | rearmIteration (func : FuncId) (pq : PqFar)
  /-- TSTAMP (R385). -/
  | tstamp (func : FuncId) (pq : PqFar)
  /-- INTR (R389). -/
  | intr (func : FuncId) (pq : PqFar)
  /-- PORTER_FENCE (R385). -/
  | porterFence (func : FuncId) (pq : PqFar)
  /-- RESUME (R385). -/
  | resume (func : FuncId) (pq : PqFar)
  /-- MALFORMED_PACKET (R383). -/
  | malformedPacket (func : FuncId) (pq : PqFar)
  /-- PACKET_COMPLETE (R384). -/
  | packetComplete (func : FuncId) (q : Bits8) (pkt : PktFar)
  /-- INTR_TIMEOUT (R389). -/
  | intrTimeout (func : FuncId) (vec : Bits11)
  /-- MSIX_UNMASK (R389). -/
  | msixUnmask (func : FuncId) (vec : Bits11)
  /-- COALESCE_WRITE (R388). -/
  | coalesceWrite (func : FuncId) (vec : Bits11) (val : Word)
  /-- HOST_BAR2_READ (R378). -/
  | hostBar2Read (func : FuncId) (off : Word) (len : LenFar)
  /-- HOST_BAR2_WRITE (R378). -/
  | hostBar2Write (func : FuncId) (off : Word) (data : Bytes)
  /-- HOST_ATOMIC (R391). -/
  | hostAtomic (func : FuncId) (off : Word) (op : HostOp) (sz : Bits2) (x : Bits128) (y : Bits128)
  /-- PCIE_COMPLETION_TIMEOUT (R390). -/
  | pcieCompletionTimeout (core : CoreId) (seat : SeatId) (idx : Bits8)
  /-- STOP_INTERFACE (R392). -/
  | stopInterface (func : FuncId)
  /-- LOCK_INTERFACE (R392). -/
  | lockInterface (func : FuncId)
  /-- START_INTERFACE (R392). -/
  | startInterface (func : FuncId)
  /-- SPDM_REQUEST (R393). -/
  | spdmRequest (func : FuncId) (req : Bytes)
  /-- POWER_ON_RESET (R395). -/
  | powerOnReset (boot : BootIn)
  /-- SUPPLY_LOSS_WARNING (R397). -/
  | supplyLossWarning
  /-- LINK_TRAIN (R407). -/
  | linkTrain (link : LinkId) (partner : Bits9)
  /-- FLIT_RECEIVE (R416). -/
  | flitReceive (link : LinkId) (flit : Flit)
  /-- REASSEMBLY_TIMEOUT (R416). -/
  | reassemblyTimeout (link : LinkId) (cls : Bits2)
  /-- LINK_DOWN (R418). -/
  | linkDown (link : LinkId)
  /-- ROUTE_RECOMPUTE (R420). -/
  | routeRecompute (link : LinkId)
  /-- STARVATION (R417). -/
  | starvation (link : LinkId) (cls : Bits2)
  /-- SUSPENSION_WRITE (R413). -/
  | suspensionWrite (link : LinkId) (val : Word)
  /-- FABRIC_ACCESS (R408). -/
  | fabricAccess (src : FarDev) (addr : Word) (op : FabOp) (data : Bytes) (pois : GranNos)
  /-- TRANSACTION_TIMEOUT (R419). -/
  | transactionTimeout (core : CoreId) (seat : SeatId) (idx : Bits8)
  /-- REMOTE_PUSH_ARRIVAL (R422). -/
  | remotePushArrival (die : DieId) (src : FarDev) (func : FuncId) (qnum : Bits12) (ack : Bool) (origin : Bits16) (pay : MarkedBytes)
  /-- COLL_COMPLETE (R426). -/
  | collComplete (func : FuncId) (key : Word) (m : Imm32) (rank : Bits16) (far : FarBufs)
  /-- COLL_TIMEOUT (R426). -/
  | collTimeout (func : FuncId) (key : Word) (m : Imm32)
  /-- REGISTER_WRITE (R6). -/
  | registerWrite (reg : RegSel) (val : Word)
  /-- BARRIER_INIT (R269). -/
  | barrierInit (die : DieId) (clu : Bits3) (msg : MsgErr)
  /-- FLIT_SLOT (R414). -/
  | flitSlot (link : LinkId) (arr : TxIns) (cred : Credits)
  /-- PORT_DOWN (R343). -/
  | portDown (die : DieId) (port : Bool) (back : Bool)
  deriving DecidableEq, Repr

end Sys2Proof
end

