-- ==== Sys2Proof/WellFormed.lean ====
section
/-!
DEFINITION. The limits that the fields of an instruction obey: the values that R39 makes an encoding of no instruction
are ill-formed here. What depends on the state (rows at or above W, the shape of a group, a queue selector) is checked
when the instruction is attempted.
-/
namespace Sys2Proof

/-- Width of an element in bits (R15, R139). -/
def Ty.width : Ty → Nat
  | .i64 | .n64 => 64
  | .f32 | .i32 | .n32 => 32
  | .bf16 | .f16 | .i16 | .n16 => 16
  | .e4m3 | .e5m2 | .mxi8 | .e8m0 | .i8 | .n8 => 8
  | .e3m2 | .e2m3 => 6
  | .e2m1 => 4

/-- Width of the lane that holds an element: VCVT keeps a narrow element in an 8-bit lane (R129). -/
def Ty.laneWidth (t : Ty) : Nat := if t.width < 8 then 8 else t.width

/-- Lanes of a row (R15). -/
def Ty.lanes (t : Ty) : Nat := 8192 / t.laneWidth

/-- A type of width 8 to 64 (R105, R120, R122). -/
def Ty.isLane (t : Ty) : Bool := 8 ≤ t.width

/-- .f32, .bf16 and .f16 (R116). -/
def Ty.isWide : Ty → Bool
  | .f32 | .bf16 | .f16 => true
  | _ => false

/-- The integer types (R118, R136). -/
def Ty.isInt : Ty → Bool
  | .i8 | .n8 | .i16 | .n16 | .i32 | .n32 | .i64 | .n64 => true
  | _ => false

/-- The signed integer types. -/
def Ty.isSigned : Ty → Bool
  | .i8 | .i16 | .i32 | .i64 => true
  | _ => false

/-- The types of a microscaling block (R132, R141). -/
def Ty.isMx : Ty → Bool
  | .e4m3 | .e5m2 | .e3m2 | .e2m3 | .e2m1 | .mxi8 => true
  | _ => false

/-- The types of VCVT (R129). -/
def Ty.isCvt (t : Ty) : Bool := t != .mxi8 && t != .e8m0

/-- The types of VDELT (R135). -/
def Ty.isDelta : Ty → Bool
  | .f32 | .bf16 | .f16 | .e4m3 | .e5m2 | .i8 | .mxi8 => true
  | _ => false

/-- The control-register numbers that R26 and R249 assign. -/
def crAssigned (n : Nat) : Bool :=
  n ≤ 0x009 || (0x010 ≤ n && n ≤ 0x014) || (0x020 ≤ n && n ≤ 0x024) || (0x030 ≤ n && n ≤ 0x037)
    || (0x040 ≤ n && n ≤ 0x042) || (0x080 ≤ n && n ≤ 0x08F)

/-- A predicate number that exists (R40). -/
def pOk (p : PReg) : Bool := p.toNat ≤ 11

/-- A guard that selects some lane (R43). -/
def Guard.ok (g : Guard) : Bool := pOk g.p && !(g.p == 0 && g.neg)

/-- SLK is zero for an unstamped command (R48). -/
def EngArgs.ok (e : EngArgs) : Bool := e.ss != 0 || e.slk == 0

/-- The bits of IMM32 that the immediate form of VBCST leaves unused at type t are zero (R122). -/
def immFits (t : Ty) (imm : Imm32) : Bool :=
  match t with
  | .e2m1 | .e2m3 | .e3m2 => false
  | .i64 | .n64 | .i32 | .n32 | .f32 => true
  | _ => imm.toNat < 2 ^ t.width

/-- Lane-width ratio of a conversion (R129). -/
def cvtRatio (td ts : Ty) : Nat := max td.laneWidth ts.laneWidth / min td.laneWidth ts.laneWidth

/-- Greatest PART of VQMX and VDQMX (R132). -/
def mxParts (te : Ty) : Nat := if te.width = 8 then 4 else if te.width = 6 then 5 else 8

/-- The limits of R39 to R48 and of each entry that the fields alone decide. Steps of other agents carry no encoding. -/
def Instr.wf : Instr → Bool
  | .bfx _ _ pos len | .bfi _ _ pos len => pos.toNat + len.toNat ≤ 63
  | .loopImm _ d | .loopReg _ d => d != 0
  | .bpany p _ _ | .bpall p _ _ => pOk p
  | .crr _ cr | .crwImm cr _ => crAssigned cr.toNat
  | .crwReg cr sa => crAssigned cr.toNat && sa != 0
  | .stepReg sa => sa != 0
  | .vld _ _ g ty _ | .vlds _ _ g ty _ | .vst _ _ g ty _ | .vgth _ _ _ g ty _ | .vsct _ _ _ g ty _ => g.ok && ty.isLane
  | .vtld _ _ _ g ty | .vtst _ _ _ g ty => g.ok && ty.isLane
  | .amo rt _ _ _ _ _ _ wt | .amocas rt _ _ _ _ _ wt => rt == 0 || wt != 0
  | .vadd _ _ _ g ty | .vsub _ _ _ g ty | .vmul _ _ _ g ty | .vmin _ _ _ g ty | .vmax _ _ _ g ty | .vcps _ _ _ g ty
  | .vdiv _ _ _ g ty | .vfma _ _ _ _ g ty | .vfms _ _ _ _ g ty | .vfnma _ _ _ _ g ty | .vabs _ _ g ty | .vneg _ _ g ty
  | .vsqrt _ _ g ty | .vrcp _ _ g ty | .vrsq _ _ g ty | .vex2 _ _ g ty | .vlg2 _ _ g ty | .vtnh _ _ g ty
  | .vlgs _ _ g ty | .vsin _ _ g ty | .vcos _ _ g ty => g.ok && ty.isWide
  | .viadd _ _ _ _ g ty | .visub _ _ _ _ g ty | .vimul _ _ _ g ty | .vimulh _ _ _ g ty | .vimad _ _ _ _ g ty
  | .vand _ _ _ g ty | .vor _ _ _ g ty | .vxor _ _ _ g ty | .vnot _ _ g ty | .vshl _ _ _ g ty | .vshr _ _ _ g ty
  | .vsha _ _ _ g ty | .vimin _ _ _ g ty | .vimax _ _ _ g ty => g.ok && ty.isInt
  | .viabs _ _ _ g ty => g.ok && ty.isSigned
  | .vcmp pd _ _ _ _ g ty => pOk pd && g.ok && ty.isWide
  | .vicmp pd _ _ c _ g ty => pOk pd && g.ok && ty.isInt && c.toNat ≤ 5
  | .pand pd pa pb g ty | .por pd pa pb g ty | .pxor pd pa pb g ty => pOk pd && pOk pa && pOk pb && g.ok && ty.isLane
  | .pnot pd pa g ty | .pmov pd pa g ty => pOk pd && pOk pa && g.ok && ty.isLane
  | .psetImm pd n g ty => pOk pd && n.toNat ≤ 1024 && g.ok && ty.isLane
  | .psetReg pd _ g ty => pOk pd && g.ok && ty.isLane
  | .pcnt _ pa g ty | .pfst _ pa g ty => pOk pa && g.ok && ty.isLane
  | .vmov _ _ g ty | .vbcstScalar _ _ g ty | .vbcstLane _ _ _ g ty | .vshuf _ _ _ g ty | .vshufTwo _ _ _ _ g ty
  | .vslideReg _ _ _ _ g ty | .vcmpr _ _ g ty => g.ok && ty.isLane
  | .vsel _ pc _ _ g ty => pOk pc && g.ok && ty.isLane
  | .vbcstImm _ imm g ty => g.ok && ty.isLane && immFits ty imm
  | .vextImm _ _ idx ty | .vinsImm _ _ idx ty => ty.isLane && idx.toNat < ty.lanes
  | .vextReg _ _ _ ty | .vinsReg _ _ _ ty => ty.isLane
  | .vslideImm _ _ _ n g ty => g.ok && ty.isLane && n.toNat ≤ ty.lanes
  | .vred _ _ op g ty | .vscan _ _ op g ty =>
      g.ok && (ty.isInt || (ty.isWide && (op == .add || op == .min || op == .max)))
  | .vcvt _ _ g td ts part sat =>
      g.ok && td.isCvt && ts.isCvt && td != ts && (!sat || (td.isInt && ts.isInt)) && part.toNat < cvtRatio td ts
  | .vqmx _ _ te _ part | .vdqmx _ _ te _ part => te.isMx && part.toNat < mxParts te
  | .vrnd _ _ m g ty => g.ok && ty.isWide && m.toNat ≤ 5
  | .vdelt _ _ _ _ _ g ty => g.ok && ty.isDelta
  | .mma _ e | .mmad _ e | .mepi _ e | .wload _ e | .txfer e | .tfill e | .tdrain e | .tmcast e => e.ok
  | .mzero q _ _ lh _ _ ss slk => (q != .hw || !lh) && (ss != 0 || slk == 0)
  | .sigImm sem amt | .swait sem amt => sem != 0 && amt != 0
  | .sigReg sem sa => sem != 0 && sa != 0
  | .semrSem _ sem => sem != 0
  | .qpush sd _ _ _ _ sem | .qpushA sd _ _ _ _ sem | .qpop sd _ _ _ _ sem => sd == 0 || sem != 0
  | .bara sd _ _ _ sem scp => (sem != 0 || sd == 0) && scp != .st && scp != .co
  | .barw _ _ _ _ _ sem scp => sem != 0 && scp != .st && scp != .co
  | .launch sd _ sem => sd == 0 || sem != 0
  | .npost _ slot nm1 _ => slot.toNat + nm1.toNat ≤ 255
  | .coll _ _ sem _ _ => sem != 0
  | .minj _ _ n gp => n != 0 && (n.toNat < 2 || gp != 0)
  | .nop | .add .. | .sub .. | .mul .. | .mulh .. | .mulhn .. | .div .. | .divn .. | .rem .. | .remn .. | .and ..
  | .or .. | .xor .. | .andn .. | .shl .. | .shr .. | .sha .. | .rot .. | .min .. | .max .. | .minn .. | .maxn ..
  | .clz .. | .ctz .. | .popc .. | .seq .. | .sne .. | .slt .. | .sltn .. | .sel .. | .addi .. | .andi .. | .ori ..
  | .xori .. | .shli .. | .shri .. | .shai .. | .slti .. | .li .. | .lih .. | .br .. | .beq .. | .bne .. | .blt ..
  | .bge .. | .bltn .. | .bgen .. | .jal .. | .jalr .. | .lclose .. | .lcloseX .. | .bqs .. | .trap .. | .eret
  | .ends | .stepImm .. | .trig | .fence .. | .fenceR .. | .fenceW .. | .chkS .. | .chkA .. | .chkV .. | .aadd ..
  | .aaddi .. | .amov .. | .agetA .. | .agetM .. | .amods .. | .ld .. | .lds .. | .st .. | .lda .. | .stl ..
  | .pref .. | .vfetch .. | .ovpop .. | .tlook .. | .tclaimAuto .. | .tclaimNamed .. | .tfreeNamed ..
  | .tfreeReg .. | .tstatNamed .. | .tstatReg .. | .semrOvf .. | .semrEnt .. | .semrCfg .. | .eqflushD ..
  | .eqflushR .. | .qstat .. | .bari .. | .nsend .. | .nstatE .. | .nstatT .. | .nstatI .. | .nstatA .. | .mrgn ..
  | .minjOff | .issueAttempt .. | .stepgap .. | .asyncCauseTake .. | .seatSwitch .. | .resultLanding ..
  | .errorResponse .. | .loadMissFill .. | .billetWrite .. | .billetRelease .. | .seatWakeDone ..
  | .checkpointSaveDone .. | .designate .. | .prqKill .. | .prqCheckpoint .. | .prqDrain .. | .forcedKill ..
  | .ckptRequestTimeout .. | .rowPowerWrite .. | .debugRowRead .. | .debugRowWrite .. | .pacingOpen ..
  | .waitTokenConsume .. | .stampGateOpen .. | .unitChoice .. | .leaveGrant .. | .paramBlockReadDone ..
  | .mmaStep .. | .mmadStep .. | .mepiStep .. | .mzeroStep .. | .wloadStep .. | .txferStep .. | .tfillStep ..
  | .tdrainStep .. | .tmcastStep .. | .stepEnd .. | .stampMiss .. | .lateWriteFailure .. | .queueGrant ..
  | .packetPublish .. | .qwaitExpiry .. | .barrierArrival .. | .barrierWaitRequest .. | .cnt .. | .floor ..
  | .requal .. | .budget .. | .inval .. | .invalComplete .. | .stewardUnknownType .. | .stewardWatchdog ..
  | .windowEnd .. | .lateVerdict .. | .engineLateVerdict .. | .persistenceLimit .. | .guardSettled ..
  | .injection .. | .droopDetect .. | .droopHoldEnd .. | .rteUpdate .. | .launchReadDone .. | .instanceRelease ..
  | .bind .. | .cutStart .. | .cutReport .. | .cutTimeout .. | .instanceComplete .. | .instanceRetire ..
  | .shareWindowEnd .. | .dispatchConfigWrite .. | .messageIngress .. | .messageLanded .. | .egressDone ..
  | .timebaseUpdate .. | .powerCheck .. | .fabricClockHop .. | .mirrorCommit .. | .mirrorHeaderWrite ..
  | .heartbeatSend .. | .heartbeatTick .. | .relayFailure .. | .hbmSlot .. | .slotMapApply .. | .pageWalkDone ..
  | .keyLoad .. | .keyRetire .. | .keyRetireDone .. | .alloc .. | .release .. | .qcfg .. | .steer .. | .egress ..
  | .sess .. | .install .. | .remove .. | .asroot .. | .cwm .. | .smap .. | .mailboxUnknownType .. | .cwmApply ..
  | .porterDoorbell .. | .queueEnable .. | .porterNop .. | .porterLaunch .. | .launchRes .. | .waitmem ..
  | .waitmemSatisfied .. | .waitmemTimeout .. | .signal .. | .pred .. | .rearm .. | .rearmIteration .. | .tstamp ..
  | .intr .. | .porterFence .. | .resume .. | .malformedPacket .. | .packetComplete .. | .intrTimeout ..
  | .msixUnmask .. | .coalesceWrite .. | .hostBar2Read .. | .hostBar2Write .. | .hostAtomic ..
  | .pcieCompletionTimeout .. | .stopInterface .. | .lockInterface .. | .startInterface .. | .spdmRequest ..
  | .powerOnReset .. | .supplyLossWarning | .linkTrain .. | .flitReceive .. | .reassemblyTimeout .. | .linkDown ..
  | .routeRecompute .. | .starvation .. | .suspensionWrite .. | .fabricAccess .. | .transactionTimeout ..
  | .remotePushArrival .. | .collComplete .. | .collTimeout .. | .registerWrite .. | .barrierInit .. | .flitSlot ..
  | .portDown .. => true

end Sys2Proof
end

