-- ==== Sys2Proof/Decode.lean ====
section
/-!
DEFINITION. The decoder of bundles and of their syllables (02), total on any bits: it answers an operation or names what
failed. The encoder follows in the same file, from the same tables. A syllable is accepted only when the operation read
from it is well-formed and encodes to the very same bits, so every reserved or unused field must be zero (R39).
-/
namespace Sys2Proof

/-- Code of an element type (R41). -/
def Ty.code : Ty → BitVec 5
  | .f32 => 0
  | .bf16 => 1
  | .f16 => 2
  | .e4m3 => 3
  | .e5m2 => 4
  | .e3m2 => 5
  | .e2m3 => 6
  | .e2m1 => 7
  | .mxi8 => 8
  | .e8m0 => 9
  | .i8 => 10
  | .n8 => 11
  | .i16 => 12
  | .n16 => 13
  | .i32 => 14
  | .n32 => 15
  | .i64 => 16
  | .n64 => 17

/-- The element type of a code; every other code is of none (R41). -/
def Ty.ofCode (c : BitVec 5) : Option Ty :=
  match c.toNat with
  | 0 => some .f32
  | 1 => some .bf16
  | 2 => some .f16
  | 3 => some .e4m3
  | 4 => some .e5m2
  | 5 => some .e3m2
  | 6 => some .e2m3
  | 7 => some .e2m1
  | 8 => some .mxi8
  | 9 => some .e8m0
  | 10 => some .i8
  | 11 => some .n8
  | 12 => some .i16
  | 13 => some .n16
  | 14 => some .i32
  | 15 => some .n32
  | 16 => some .i64
  | 17 => some .n64
  | _ => none

/-- Code of a scope (R42). -/
def Scope.code : Scope → BitVec 3
  | .st => 0
  | .co => 1
  | .cl => 2
  | .di => 3
  | .pk => 4
  | .dm => 5
  | .sy => 6

/-- The scope of a code; every other code is of none (R42). -/
def Scope.ofCode (c : BitVec 3) : Option Scope :=
  match c.toNat with
  | 0 => some .st
  | 1 => some .co
  | 2 => some .cl
  | 3 => some .di
  | 4 => some .pk
  | 5 => some .dm
  | 6 => some .sy
  | _ => none

/-- Code of an atomic operation (R46). -/
def Aop.code : Aop → BitVec 4
  | .add => 0
  | .swap => 1
  | .min => 2
  | .max => 3
  | .minn => 4
  | .maxn => 5
  | .and => 6
  | .or => 7
  | .xor => 8

/-- The atomic operation of a code; every other code is of none (R46). -/
def Aop.ofCode (c : BitVec 4) : Option Aop :=
  match c.toNat with
  | 0 => some .add
  | 1 => some .swap
  | 2 => some .min
  | 3 => some .max
  | 4 => some .minn
  | 5 => some .maxn
  | 6 => some .and
  | 7 => some .or
  | 8 => some .xor
  | _ => none

/-- Code of a reduction operation (R128). -/
def RedOp.code : RedOp → BitVec 3
  | .add => 0
  | .min => 1
  | .max => 2
  | .and => 3
  | .or => 4
  | .xor => 5

/-- The reduction operation of a code; every other code is of none (R128). -/
def RedOp.ofCode (c : BitVec 3) : Option RedOp :=
  match c.toNat with
  | 0 => some .add
  | 1 => some .min
  | 2 => some .max
  | 3 => some .and
  | 4 => some .or
  | 5 => some .xor
  | _ => none

/-- Code of a matrix queue (R48). -/
def MatQ.code : MatQ → BitVec 2
  | .h0 => 0
  | .h1 => 1
  | .hw => 2

/-- The matrix queue of a code; every other code is of none (R48). -/
def MatQ.ofCode (c : BitVec 2) : Option MatQ :=
  match c.toNat with
  | 0 => some .h0
  | 1 => some .h1
  | 2 => some .hw
  | _ => none

/-- Code of an engine queue (R189). -/
def EngQ.code : EngQ → BitVec 2
  | .h0 => 0
  | .h1 => 1
  | .te => 2

/-- The engine queue of a code; every other code is of none (R189). -/
def EngQ.ofCode (c : BitVec 2) : Option EngQ :=
  match c.toNat with
  | 0 => some .h0
  | 1 => some .h1
  | 2 => some .te
  | _ => none

/-- The operand specifier of a source (R44). -/
def VSrc.code : VSrc → Bits9
  | .v r => 0#2 ++ r
  | .pq r => 1#2 ++ 0#4 ++ r
  | .s r => 2#2 ++ 0#2 ++ r

/-- The source an operand specifier names; class 11 names none (R44). -/
def VSrc.ofCode (c : Bits9) : Option VSrc :=
  match (c.extractLsb' 7 2).toNat with
  | 0 => some (.v (c.extractLsb' 0 7))
  | 1 => some (.pq (c.extractLsb' 0 3))
  | 2 => some (.s (c.extractLsb' 0 5))
  | _ => none

/-- The operand specifier of a row source (R44). -/
def RowSrc.code : RowSrc → Bits9
  | .v r => 0#2 ++ r
  | .pq r => 1#2 ++ 0#4 ++ r

/-- A source of class 00 or 01 as a row (R44). -/
def VSrc.row : VSrc → Option RowSrc
  | .v r => some (.v r)
  | .pq r => some (.pq r)
  | .s _ => none

/-- The specifier of class 00 that holds a predicate number (R44). -/
def predSpec (p : PReg) : Bits9 := 0#5 ++ p

/-- Address register of a memory operand (R46). -/
def AMem.ab : AMem → AReg
  | .off ab _ => ab
  | .post ab _ => ab
/-- Modifier field of a memory operand (R46). -/
def AMem.mm : AMem → MReg
  | .off _ _ => 0
  | .post _ mm => mm
/-- The PI bit (R46). -/
def AMem.pi : AMem → Bool
  | .off _ _ => false
  | .post _ _ => true
/-- Offset field (R46). -/
def AMem.ofs : AMem → BitVec 24
  | .off _ o => o
  | .post _ _ => 0
/-- Address register of a memory operand (R46). -/
def VMem.ab : VMem → AReg
  | .off ab _ => ab
  | .post ab _ => ab
/-- Modifier field of a memory operand (R46). -/
def VMem.mm : VMem → MReg
  | .off _ _ => 0
  | .post _ mm => mm
/-- The PI bit (R46). -/
def VMem.pi : VMem → Bool
  | .off _ _ => false
  | .post _ _ => true
/-- Offset field (R46). -/
def VMem.ofs : VMem → Bits16
  | .off _ o => o
  | .post _ _ => 0

/-- Fields of the S syllable, SR (R45). -/
structure SR where
  sd : SReg
  sa : SReg
  sb : SReg
  sc : SReg
  pos : Bits6
  len : Bits6
  deriving DecidableEq, Repr

/-- The syllable with these fields (S syllable, SR (R45)). -/
def SR.word (op : Bits8) (f : SR) : BitVec 56 :=
  op ++ f.sd ++ f.sa ++ f.sb ++ f.sc ++ f.pos ++ f.len ++ 0#16

/-- The fields of a syllable (S syllable, SR (R45)). -/
def SR.of (w : BitVec 56) : SR :=
  { sd := w.extractLsb' 43 5, sa := w.extractLsb' 38 5, sb := w.extractLsb' 33 5, sc := w.extractLsb' 28 5, pos := w.extractLsb' 22 6, len := w.extractLsb' 16 6 }

/-- Fields of the S syllable, SI (R45). -/
structure SI where
  sd : SReg
  sa : SReg
  imm : Imm32
  deriving DecidableEq, Repr

/-- The syllable with these fields (S syllable, SI (R45)). -/
def SI.word (op : Bits8) (f : SI) : BitVec 56 :=
  op ++ f.sd ++ f.sa ++ f.imm ++ 0#6

/-- The fields of a syllable (S syllable, SI (R45)). -/
def SI.of (w : BitVec 56) : SI :=
  { sd := w.extractLsb' 43 5, sa := w.extractLsb' 38 5, imm := w.extractLsb' 6 32 }

/-- Fields of the S syllable, SB (R45); JAL holds its link in sa. -/
structure SB where
  sa : SReg
  sb : SReg
  off : Imm32
  deriving DecidableEq, Repr

/-- The syllable with these fields (S syllable, SB (R45); JAL holds its link in sa). -/
def SB.word (op : Bits8) (f : SB) : BitVec 56 :=
  op ++ f.sa ++ f.sb ++ f.off ++ 0#6

/-- The fields of a syllable (S syllable, SB (R45); JAL holds its link in sa). -/
def SB.of (w : BitVec 56) : SB :=
  { sa := w.extractLsb' 43 5, sb := w.extractLsb' 38 5, off := w.extractLsb' 6 32 }

/-- Fields of the S syllable, SP (R45). -/
structure SP where
  pn : PReg
  lt : Bits2
  off : Imm32
  deriving DecidableEq, Repr

/-- The syllable with these fields (S syllable, SP (R45)). -/
def SP.word (op : Bits8) (f : SP) : BitVec 56 :=
  op ++ f.pn ++ f.lt ++ 0#4 ++ f.off ++ 0#6

/-- The fields of a syllable (S syllable, SP (R45)). -/
def SP.of (w : BitVec 56) : SP :=
  { pn := w.extractLsb' 44 4, lt := w.extractLsb' 42 2, off := w.extractLsb' 6 32 }

/-- Fields of the S syllable, SL (R45). -/
structure SL where
  imm : Bool
  sa : SReg
  cnt : Bits20
  dist : Bits20
  deriving DecidableEq, Repr

/-- The syllable with these fields (S syllable, SL (R45)). -/
def SL.word (op : Bits8) (f : SL) : BitVec 56 :=
  op ++ bit1 f.imm ++ f.sa ++ f.cnt ++ f.dist ++ 0#2

/-- The fields of a syllable (S syllable, SL (R45)). -/
def SL.of (w : BitVec 56) : SL :=
  { imm := w.getLsbD 47, sa := w.extractLsb' 42 5, cnt := w.extractLsb' 22 20, dist := w.extractLsb' 2 20 }

/-- Fields of the S syllable, SC (R45). -/
structure SC where
  sd : SReg
  sa : SReg
  cr : Bits12
  imm : Bits26
  deriving DecidableEq, Repr

/-- The syllable with these fields (S syllable, SC (R45)). -/
def SC.word (op : Bits8) (f : SC) : BitVec 56 :=
  op ++ f.sd ++ f.sa ++ f.cr ++ f.imm

/-- The fields of a syllable (S syllable, SC (R45)). -/
def SC.of (w : BitVec 56) : SC :=
  { sd := w.extractLsb' 43 5, sa := w.extractLsb' 38 5, cr := w.extractLsb' 26 12, imm := w.extractLsb' 0 26 }

/-- Fields of the A syllable, AR (R46). -/
structure AR where
  ad : AReg
  aa : AReg
  sb : SReg
  md : MReg
  imm : Imm32
  deriving DecidableEq, Repr

/-- The syllable with these fields (A syllable, AR (R46)). -/
def AR.word (op : Bits8) (f : AR) : BitVec 64 :=
  op ++ f.ad ++ f.aa ++ f.sb ++ f.md ++ 0#7 ++ f.imm

/-- The fields of a syllable (A syllable, AR (R46)). -/
def AR.of (w : BitVec 64) : AR :=
  { ad := w.extractLsb' 52 4, aa := w.extractLsb' 48 4, sb := w.extractLsb' 43 5, md := w.extractLsb' 39 4, imm := w.extractLsb' 0 32 }

/-- Fields of the A syllable, AM (R46). -/
structure AM where
  rt : SReg
  ab : AReg
  mm : MReg
  pi : Bool
  sz : Bits2
  sx : Bool
  scp : Bits3
  wt : SemR
  ofs : BitVec 24
  deriving DecidableEq, Repr

/-- The syllable with these fields (A syllable, AM (R46)). -/
def AM.word (op : Bits8) (f : AM) : BitVec 64 :=
  op ++ f.rt ++ f.ab ++ f.mm ++ bit1 f.pi ++ f.sz ++ bit1 f.sx ++ f.scp ++ f.wt ++ 0#8 ++ f.ofs

/-- The fields of a syllable (A syllable, AM (R46)). -/
def AM.of (w : BitVec 64) : AM :=
  { rt := w.extractLsb' 51 5, ab := w.extractLsb' 47 4, mm := w.extractLsb' 43 4, pi := w.getLsbD 42, sz := w.extractLsb' 40 2, sx := w.getLsbD 39, scp := w.extractLsb' 36 3, wt := w.extractLsb' 32 4, ofs := w.extractLsb' 0 24 }

/-- Fields of the A syllable, AV (R46). -/
structure AV where
  vt : VReg
  ab : AReg
  mm : MReg
  pi : Bool
  g : PReg
  gn : Bool
  ty : BitVec 5
  vi : VReg
  wt : SemR
  ofs : Bits16
  deriving DecidableEq, Repr

/-- The syllable with these fields (A syllable, AV (R46)). -/
def AV.word (op : Bits8) (f : AV) : BitVec 64 :=
  op ++ f.vt ++ f.ab ++ f.mm ++ bit1 f.pi ++ f.g ++ bit1 f.gn ++ f.ty ++ f.vi ++ f.wt ++ 0#3 ++ f.ofs

/-- The fields of a syllable (A syllable, AV (R46)). -/
def AV.of (w : BitVec 64) : AV :=
  { vt := w.extractLsb' 49 7, ab := w.extractLsb' 45 4, mm := w.extractLsb' 41 4, pi := w.getLsbD 40, g := w.extractLsb' 36 4, gn := w.getLsbD 35, ty := w.extractLsb' 30 5, vi := w.extractLsb' 23 7, wt := w.extractLsb' 19 4, ofs := w.extractLsb' 0 16 }

/-- Fields of the A syllable, AT (R46). -/
structure AT where
  vt : VReg
  ts : Slot
  tr : Bits4
  g : PReg
  gn : Bool
  ty : BitVec 5
  deriving DecidableEq, Repr

/-- The syllable with these fields (A syllable, AT (R46)). -/
def AT.word (op : Bits8) (f : AT) : BitVec 64 :=
  op ++ f.vt ++ f.ts ++ f.tr ++ f.g ++ bit1 f.gn ++ f.ty ++ 0#27

/-- The fields of a syllable (A syllable, AT (R46)). -/
def AT.of (w : BitVec 64) : AT :=
  { vt := w.extractLsb' 49 7, ts := w.extractLsb' 41 8, tr := w.extractLsb' 37 4, g := w.extractLsb' 33 4, gn := w.getLsbD 32, ty := w.extractLsb' 27 5 }

/-- Fields of the A syllable, AQ (R46). -/
structure AQ where
  vs : VReg
  pq : PqReg
  deriving DecidableEq, Repr

/-- The syllable with these fields (A syllable, AQ (R46)). -/
def AQ.word (op : Bits8) (f : AQ) : BitVec 64 :=
  op ++ f.vs ++ f.pq ++ 0#46

/-- The fields of a syllable (A syllable, AQ (R46)). -/
def AQ.of (w : BitVec 64) : AQ :=
  { vs := w.extractLsb' 49 7, pq := w.extractLsb' 46 3 }

/-- Fields of the A syllable, AA (R46). -/
structure AA where
  rt : SReg
  ab : AReg
  sb : SReg
  aop : Bits4
  sz : Bits2
  scp : Bits3
  ord : Bits2
  wt : SemR
  deriving DecidableEq, Repr

/-- The syllable with these fields (A syllable, AA (R46)). -/
def AA.word (op : Bits8) (f : AA) : BitVec 64 :=
  op ++ f.rt ++ f.ab ++ f.sb ++ f.aop ++ f.sz ++ f.scp ++ f.ord ++ f.wt ++ 0#27

/-- The fields of a syllable (A syllable, AA (R46)). -/
def AA.of (w : BitVec 64) : AA :=
  { rt := w.extractLsb' 51 5, ab := w.extractLsb' 47 4, sb := w.extractLsb' 42 5, aop := w.extractLsb' 38 4, sz := w.extractLsb' 36 2, scp := w.extractLsb' 33 3, ord := w.extractLsb' 31 2, wt := w.extractLsb' 27 4 }

/-- Fields of the V syllable, VR (R47). -/
structure VR where
  vd : VReg
  oa : Bits9
  ob : Bits9
  oc : Bits9
  g : PReg
  gn : Bool
  ty : BitVec 5
  aux : Bits12
  deriving DecidableEq, Repr

/-- The syllable with these fields (V syllable, VR (R47)). -/
def VR.word (op : Bits8) (f : VR) : BitVec 64 :=
  op ++ f.vd ++ f.oa ++ f.ob ++ f.oc ++ f.g ++ bit1 f.gn ++ f.ty ++ f.aux

/-- The fields of a syllable (V syllable, VR (R47)). -/
def VR.of (w : BitVec 64) : VR :=
  { vd := w.extractLsb' 49 7, oa := w.extractLsb' 40 9, ob := w.extractLsb' 31 9, oc := w.extractLsb' 22 9, g := w.extractLsb' 18 4, gn := w.getLsbD 17, ty := w.extractLsb' 12 5, aux := w.extractLsb' 0 12 }

/-- Fields of the V syllable, VI (R47). -/
structure VI where
  vd : VReg
  g : PReg
  gn : Bool
  ty : BitVec 5
  imm : Imm32
  deriving DecidableEq, Repr

/-- The syllable with these fields (V syllable, VI (R47)). -/
def VI.word (op : Bits8) (f : VI) : BitVec 64 :=
  op ++ f.vd ++ f.g ++ bit1 f.gn ++ f.ty ++ 0#7 ++ f.imm

/-- The fields of a syllable (V syllable, VI (R47)). -/
def VI.of (w : BitVec 64) : VI :=
  { vd := w.extractLsb' 49 7, g := w.extractLsb' 45 4, gn := w.getLsbD 44, ty := w.extractLsb' 39 5, imm := w.extractLsb' 0 32 }

/-- Fields of the X syllable, XE (R48). -/
structure XE where
  q : Bits2
  wt : SemR
  st : SemR
  ap : AReg
  ss : SReg
  slk : Bits8
  aux : BitVec 29
  deriving DecidableEq, Repr

/-- The syllable with these fields (X syllable, XE (R48)). -/
def XE.word (op : Bits8) (f : XE) : BitVec 64 :=
  op ++ f.q ++ f.wt ++ f.st ++ f.ap ++ f.ss ++ f.slk ++ f.aux

/-- The fields of a syllable (X syllable, XE (R48)). -/
def XE.of (w : BitVec 64) : XE :=
  { q := w.extractLsb' 54 2, wt := w.extractLsb' 50 4, st := w.extractLsb' 46 4, ap := w.extractLsb' 42 4, ss := w.extractLsb' 37 5, slk := w.extractLsb' 29 8, aux := w.extractLsb' 0 29 }

/-- Fields of the X syllable, XR (R48). -/
structure XR where
  xd : SReg
  xa : SReg
  xb : SReg
  xc : SReg
  imm : BitVec 36
  deriving DecidableEq, Repr

/-- The syllable with these fields (X syllable, XR (R48)). -/
def XR.word (op : Bits8) (f : XR) : BitVec 64 :=
  op ++ f.xd ++ f.xa ++ f.xb ++ f.xc ++ f.imm

/-- The fields of a syllable (X syllable, XR (R48)). -/
def XR.of (w : BitVec 64) : XR :=
  { xd := w.extractLsb' 51 5, xa := w.extractLsb' 46 5, xb := w.extractLsb' 41 5, xc := w.extractLsb' 36 5, imm := w.extractLsb' 0 36 }

/-- The memory operand of an AM syllable (R46). -/
def AM.mem (f : AM) : AMem := if f.pi then .post f.ab f.mm else .off f.ab f.ofs
/-- The memory operand of an AV syllable (R46). -/
def AV.mem (f : AV) : VMem := if f.pi then .post f.ab f.mm else .off f.ab f.ofs
/-- The operands of an engine command (R48). -/
def XE.args (f : XE) : EngArgs := ⟨f.wt, f.st, f.ap, f.ss, f.slk⟩

/-- The operation of an opcode whose fields the S syllable holds, before its limits are checked (R50). -/
def rawSAt (op : Nat) (w : BitVec 56) : Option Instr :=
  let r := SR.of w
  let i := SI.of w
  let b := SB.of w
  let p := SP.of w
  let l := SL.of w
  let c := SC.of w
  match op with
  | 0x01 => some (.add r.sd r.sa r.sb)
  | 0x02 => some (.sub r.sd r.sa r.sb)
  | 0x03 => some (.mul r.sd r.sa r.sb)
  | 0x04 => some (.mulh r.sd r.sa r.sb)
  | 0x05 => some (.mulhn r.sd r.sa r.sb)
  | 0x06 => some (.div r.sd r.sa r.sb)
  | 0x07 => some (.divn r.sd r.sa r.sb)
  | 0x08 => some (.rem r.sd r.sa r.sb)
  | 0x09 => some (.remn r.sd r.sa r.sb)
  | 0x0A => some (.and r.sd r.sa r.sb)
  | 0x0B => some (.or r.sd r.sa r.sb)
  | 0x0C => some (.xor r.sd r.sa r.sb)
  | 0x0D => some (.andn r.sd r.sa r.sb)
  | 0x0E => some (.shl r.sd r.sa r.sb)
  | 0x0F => some (.shr r.sd r.sa r.sb)
  | 0x10 => some (.sha r.sd r.sa r.sb)
  | 0x11 => some (.rot r.sd r.sa r.sb)
  | 0x12 => some (.min r.sd r.sa r.sb)
  | 0x13 => some (.max r.sd r.sa r.sb)
  | 0x14 => some (.minn r.sd r.sa r.sb)
  | 0x15 => some (.maxn r.sd r.sa r.sb)
  | 0x16 => some (.clz r.sd r.sa)
  | 0x17 => some (.ctz r.sd r.sa)
  | 0x18 => some (.popc r.sd r.sa)
  | 0x19 => some (.seq r.sd r.sa r.sb)
  | 0x1A => some (.sne r.sd r.sa r.sb)
  | 0x1B => some (.slt r.sd r.sa r.sb)
  | 0x1C => some (.sltn r.sd r.sa r.sb)
  | 0x1D => some (.sel r.sd r.sc r.sa r.sb)
  | 0x1E => some (.bfx r.sd r.sa r.pos r.len)
  | 0x1F => some (.bfi r.sd r.sa r.pos r.len)
  | 0x20 => some (.addi i.sd i.sa i.imm)
  | 0x21 => some (.andi i.sd i.sa i.imm)
  | 0x22 => some (.ori i.sd i.sa i.imm)
  | 0x23 => some (.xori i.sd i.sa i.imm)
  | 0x24 => some (.shli i.sd i.sa (i.imm.setWidth 6))
  | 0x25 => some (.shri i.sd i.sa (i.imm.setWidth 6))
  | 0x26 => some (.shai i.sd i.sa (i.imm.setWidth 6))
  | 0x27 => some (.slti i.sd i.sa i.imm)
  | 0x28 => some (.li i.sd i.imm)
  | 0x29 => some (.lih i.sd i.imm)
  | 0x30 => some (.br b.off)
  | 0x31 => some (.beq b.sa b.sb b.off)
  | 0x32 => some (.bne b.sa b.sb b.off)
  | 0x33 => some (.blt b.sa b.sb b.off)
  | 0x34 => some (.bge b.sa b.sb b.off)
  | 0x35 => some (.bltn b.sa b.sb b.off)
  | 0x36 => some (.bgen b.sa b.sb b.off)
  | 0x37 => some (.jal b.sa b.off)
  | 0x38 => some (.jalr i.sd i.sa i.imm)
  | 0x39 => some (if l.imm then .loopImm l.cnt l.dist else .loopReg l.sa l.dist)
  | 0x3A => some (if c.imm.getLsbD 9 then .lcloseX (c.imm.extractLsb' 0 6) (c.imm.extractLsb' 6 3)
    else .lclose (c.imm.extractLsb' 0 6) (c.imm.extractLsb' 6 3))
  | 0x3B => some (.bpany p.pn p.lt p.off)
  | 0x3C => some (.bpall p.pn p.lt p.off)
  | 0x3D => some (.bqs b.sa b.sb b.off)
  | 0x3E => some .ends
  | 0x40 => some (.trap c.imm)
  | 0x41 => some .eret
  | 0x42 => some (.crr c.sd c.cr)
  | 0x43 => some (if c.sa = 0 then .crwImm c.cr c.imm else .crwReg c.cr c.sa)
  | 0x44 => (Scope.ofCode (c.imm.extractLsb' 0 3)).bind fun scp =>
    match (c.imm.extractLsb' 3 2).toNat with
    | 1 => some (.fenceR scp)
    | 2 => some (.fenceW scp)
    | 3 => some (.fence scp)
    | _ => none
  | 0x45 => some (if c.sa = 0 then .stepImm c.imm else .stepReg c.sa)
  | 0x46 => some .trig
  | 0x47 => match (c.imm.extractLsb' 24 2).toNat with
    | 0 => some (.chkS c.sa)
    | 1 => some (.chkA (c.sa.setWidth 4))
    | 2 => some (.chkV (c.imm.setWidth 7))
    | _ => none
  | _ => none

/-- The operation whose opcode and fields the S syllable holds, before its limits are checked. -/
def rawS (w : BitVec 56) : Option Instr :=
  rawSAt (w.extractLsb' 48 8).toNat w

/-- The operation of an opcode whose fields the A syllable holds, before its limits are checked (R51). -/
def rawAAt (op : Nat) (w : BitVec 64) : Option Instr :=
  let r := AR.of w
  let m := AM.of w
  let v := AV.of w
  let q := AQ.of w
  let t := AT.of w
  let o := AA.of w
  match op with
  | 0x01 => some (.aadd r.ad r.aa r.sb)
  | 0x02 => some (.aaddi r.ad r.aa r.imm)
  | 0x03 => some (.amov r.ad r.sb)
  | 0x04 => some (if r.imm = 0 then .agetA r.sb r.aa else .agetM r.sb r.md)
  | 0x05 => some (.amods r.md r.sb)
  | 0x10 => some (.ld m.rt m.mem m.sz m.sx m.wt)
  | 0x11 => some (.lds m.rt m.mem m.sz m.sx m.wt)
  | 0x12 => some (.st m.rt m.mem m.sz m.wt)
  | 0x13 => (Scope.ofCode m.scp).map fun scp => .lda m.rt m.mem m.sz m.sx scp m.wt
  | 0x14 => (Scope.ofCode m.scp).map fun scp => .stl m.rt m.mem m.sz scp m.wt
  | 0x15 => some (.pref (m.rt.getLsbD 0) m.mem)
  | 0x20 => (Ty.ofCode v.ty).map fun ty => .vld v.vt v.mem ⟨v.g, v.gn⟩ ty v.wt
  | 0x21 => (Ty.ofCode v.ty).map fun ty => .vlds v.vt v.mem ⟨v.g, v.gn⟩ ty v.wt
  | 0x22 => (Ty.ofCode v.ty).map fun ty => .vst v.vt v.mem ⟨v.g, v.gn⟩ ty v.wt
  | 0x23 => (Ty.ofCode v.ty).map fun ty => .vgth v.vt v.mem v.vi ⟨v.g, v.gn⟩ ty v.wt
  | 0x24 => (Ty.ofCode v.ty).map fun ty => .vsct v.vt v.mem v.vi ⟨v.g, v.gn⟩ ty v.wt
  | 0x25 => some (.vfetch q.pq q.vs)
  | 0x26 => (Ty.ofCode t.ty).map fun ty => .vtld t.vt t.ts t.tr ⟨t.g, t.gn⟩ ty
  | 0x27 => (Ty.ofCode t.ty).map fun ty => .vtst t.vt t.ts t.tr ⟨t.g, t.gn⟩ ty
  | 0x30 => (Aop.ofCode o.aop).bind fun aop => (Scope.ofCode o.scp).map fun scp =>
    .amo o.rt o.ab o.sb aop (o.sz == 3) scp o.ord o.wt
  | 0x31 => (Scope.ofCode o.scp).map fun scp => .amocas o.rt o.ab o.sb (o.sz == 3) scp o.ord o.wt
  | _ => none

/-- The operation whose opcode and fields the A syllable holds, before its limits are checked. -/
def rawA (w : BitVec 64) : Option Instr :=
  rawAAt (w.extractLsb' 56 8).toNat w

/-- The operation of a VR syllable with its type and sources read (R47, R52). -/
def rawVR (op : Nat) (r : VR) (ty : Ty) (a b c : VSrc) : Option Instr :=
  let g : Guard := ⟨r.g, r.gn⟩
  match op with
  | 0x01 => some (.vadd r.vd a b g ty)
  | 0x02 => some (.vsub r.vd a b g ty)
  | 0x03 => some (.vmul r.vd a b g ty)
  | 0x04 => some (.vfma r.vd a b c g ty)
  | 0x05 => some (.vfms r.vd a b c g ty)
  | 0x06 => some (.vfnma r.vd a b c g ty)
  | 0x07 => some (.vmin r.vd a b g ty)
  | 0x08 => some (.vmax r.vd a b g ty)
  | 0x09 => some (.vabs r.vd a g ty)
  | 0x0A => some (.vneg r.vd a g ty)
  | 0x0B => some (.vcps r.vd a b g ty)
  | 0x10 => some (.vdiv r.vd a b g ty)
  | 0x11 => some (.vsqrt r.vd a g ty)
  | 0x12 => some (.vrcp r.vd a g ty)
  | 0x13 => some (.vrsq r.vd a g ty)
  | 0x14 => some (.vex2 r.vd a g ty)
  | 0x15 => some (.vlg2 r.vd a g ty)
  | 0x16 => some (.vtnh r.vd a g ty)
  | 0x17 => some (.vlgs r.vd a g ty)
  | 0x18 => some (.vsin r.vd a g ty)
  | 0x19 => some (.vcos r.vd a g ty)
  | 0x20 => some (.viadd r.vd a b (r.aux.getLsbD 0) g ty)
  | 0x21 => some (.visub r.vd a b (r.aux.getLsbD 0) g ty)
  | 0x22 => some (.vimul r.vd a b g ty)
  | 0x23 => some (.vimulh r.vd a b g ty)
  | 0x24 => some (.vimad r.vd a b c g ty)
  | 0x25 => some (.vand r.vd a b g ty)
  | 0x26 => some (.vor r.vd a b g ty)
  | 0x27 => some (.vxor r.vd a b g ty)
  | 0x28 => some (.vnot r.vd a g ty)
  | 0x29 => some (.vshl r.vd a b g ty)
  | 0x2A => some (.vshr r.vd a b g ty)
  | 0x2B => some (.vsha r.vd a b g ty)
  | 0x2C => some (.vimin r.vd a b g ty)
  | 0x2D => some (.vimax r.vd a b g ty)
  | 0x2E => some (.viabs r.vd a (r.aux.getLsbD 0) g ty)
  | 0x30 => some (.vcmp (r.vd.setWidth 4) a b (r.aux.extractLsb' 0 3) (r.aux.getLsbD 3) g ty)
  | 0x31 => some (.vicmp (r.vd.setWidth 4) a b (r.aux.extractLsb' 0 3) (r.aux.getLsbD 3) g ty)
  | 0x38 => some (.pand (r.vd.setWidth 4) (r.oa.setWidth 4) (r.ob.setWidth 4) g ty)
  | 0x39 => some (.por (r.vd.setWidth 4) (r.oa.setWidth 4) (r.ob.setWidth 4) g ty)
  | 0x3A => some (.pxor (r.vd.setWidth 4) (r.oa.setWidth 4) (r.ob.setWidth 4) g ty)
  | 0x3B => some (.pnot (r.vd.setWidth 4) (r.oa.setWidth 4) g ty)
  | 0x3C => some (.pmov (r.vd.setWidth 4) (r.oa.setWidth 4) g ty)
  | 0x3D => if r.aux.getLsbD 11 then some (.psetImm (r.vd.setWidth 4) (r.aux.setWidth 11) g ty)
    else some (.psetReg (r.vd.setWidth 4) (r.oa.setWidth 5) g ty)
  | 0x3E => some (.pcnt (r.vd.setWidth 5) (r.oa.setWidth 4) g ty)
  | 0x3F => some (.pfst (r.vd.setWidth 5) (r.oa.setWidth 4) g ty)
  | 0x40 => some (.vmov r.vd a g ty)
  | 0x41 => some (.vsel r.vd (r.oc.setWidth 4) a b g ty)
  | 0x42 => match a.row with
    | some ra => some (.vbcstLane r.vd ra (r.ob.setWidth 5) g ty)
    | none => some (.vbcstScalar r.vd (r.oa.setWidth 5) g ty)
  | 0x44 => a.row.map fun ra => if r.aux.getLsbD 11 then .vextImm (r.vd.setWidth 5) ra (r.aux.setWidth 10) ty
    else .vextReg (r.vd.setWidth 5) ra (r.ob.setWidth 5) ty
  | 0x45 => some (if r.aux.getLsbD 11 then .vinsImm r.vd (r.oa.setWidth 5) (r.aux.setWidth 10) ty
    else .vinsReg r.vd (r.oa.setWidth 5) (r.ob.setWidth 5) ty)
  | 0x46 => some (if r.aux.getLsbD 0 then .vshufTwo r.vd a b c g ty else .vshuf r.vd a b g ty)
  | 0x47 => some (if r.aux.getLsbD 11 then .vslideImm r.vd a b (r.aux.setWidth 11) g ty
    else .vslideReg r.vd a b (r.oc.setWidth 5) g ty)
  | 0x48 => (RedOp.ofCode (r.aux.setWidth 3)).map fun op => .vred r.vd a op g ty
  | 0x49 => (RedOp.ofCode (r.aux.setWidth 3)).map fun op => .vscan r.vd a op g ty
  | 0x4A => some (.vcmpr r.vd a g ty)
  | 0x50 => (Ty.ofCode (r.aux.setWidth 5)).map fun ts =>
    .vcvt r.vd a g ty ts (r.aux.extractLsb' 5 3) (r.aux.getLsbD 8)
  | 0x51 => some (.vqmx r.vd a ty (r.aux.setWidth 5) (r.aux.extractLsb' 5 3))
  | 0x52 => a.row.bind fun ra => (Ty.ofCode (r.aux.setWidth 5)).map fun te =>
    .vdqmx r.vd ra te (r.ob.setWidth 5) (r.aux.extractLsb' 5 3)
  | 0x53 => some (.vrnd r.vd a (r.aux.setWidth 3) g ty)
  | 0x58 => some (.vdelt r.vd a b (r.oc.setWidth 5) (r.aux.setWidth 8) g ty)
  | _ => none

/-- The operation of an opcode whose fields the V syllable holds, before its limits are checked (R52). -/
def rawVAt (op : Nat) (w : BitVec 64) : Option Instr :=
  if op = 0x43 then
    let i := VI.of w
    (Ty.ofCode i.ty).map fun ty => .vbcstImm i.vd i.imm ⟨i.g, i.gn⟩ ty
  else
    let r := VR.of w
    match Ty.ofCode r.ty, VSrc.ofCode r.oa, VSrc.ofCode r.ob, VSrc.ofCode r.oc with
    | some ty, some a, some b, some c => rawVR op r ty a b c
    | _, _, _, _ => none

/-- The operation whose opcode and fields the V syllable holds, before its limits are checked. -/
def rawV (w : BitVec 64) : Option Instr :=
  rawVAt (w.extractLsb' 56 8).toNat w

/-- The operation of an opcode whose fields the X syllable holds, before its limits are checked (R53). -/
def rawXAt (op : Nat) (w : BitVec 64) : Option Instr :=
  let c := XE.of w
  let r := XR.of w
  match op with
  | 0x01 => (MatQ.ofCode c.q).map fun q => .mma q c.args
  | 0x02 => (MatQ.ofCode c.q).map fun q => .mmad q c.args
  | 0x03 => (MatQ.ofCode c.q).map fun q =>
    .mzero q (c.aux.extractLsb' 0 11) (c.aux.extractLsb' 11 11) (c.aux.getLsbD 22) c.wt c.st c.ss c.slk
  | 0x04 => (MatQ.ofCode c.q).map fun q => .mepi q c.args
  | 0x05 => some (.ovpop r.xd)
  | 0x06 => (MatQ.ofCode c.q).map fun q => .wload q c.args
  | 0x10 => some (.txfer c.args)
  | 0x11 => some (.tfill c.args)
  | 0x12 => some (.tdrain c.args)
  | 0x13 => some (.tmcast c.args)
  | 0x14 => some (.tlook r.xd r.xa)
  | 0x15 => some (if r.imm.getLsbD 8 then .tclaimNamed r.xd r.xa (r.imm.setWidth 8) else .tclaimAuto r.xd r.xa)
  | 0x16 => some (if r.imm.getLsbD 8 then .tfreeNamed (r.imm.setWidth 8) else .tfreeReg r.xa)
  | 0x17 => some (if r.imm.getLsbD 8 then .tstatNamed r.xd (r.imm.setWidth 8) else .tstatReg r.xd r.xa)
  | 0x20 => some (if r.xa = 0 then .sigImm (r.imm.setWidth 4) (r.imm.extractLsb' 4 8) else .sigReg (r.imm.setWidth 4) r.xa)
  | 0x21 => some (.swait (r.imm.setWidth 4) (r.imm.extractLsb' 4 8))
  | 0x22 => match (r.imm.extractLsb' 0 4).toNat with
    | 0 => some (.semrSem r.xd (r.imm.extractLsb' 4 4))
    | 1 => some (.semrOvf r.xd)
    | 2 => (EngQ.ofCode (r.imm.extractLsb' 8 2)).map fun q => .semrEnt r.xd r.xa q (r.imm.extractLsb' 12 3)
    | 3 => (EngQ.ofCode (r.imm.extractLsb' 8 2)).map fun q => .semrCfg r.xd q
    | _ => none
  | 0x23 => (EngQ.ofCode (r.imm.extractLsb' 0 2)).map fun q => if r.imm.getLsbD 4 then .eqflushR q r.xb else .eqflushD q
  | 0x28 => some (if r.imm.getLsbD 24 then .qpushA r.xd r.xa (r.xb.setWidth 4) r.xc (r.imm.setWidth 20) (r.imm.extractLsb' 20 4)
    else .qpush r.xd r.xa (r.xb.setWidth 4) r.xc (r.imm.setWidth 20) (r.imm.extractLsb' 20 4))
  | 0x29 => some (.qpop r.xd r.xa (r.xb.setWidth 4) r.xc (r.imm.setWidth 20) (r.imm.extractLsb' 20 4))
  | 0x2A => some (.qstat r.xd r.xa (r.imm.setWidth 2))
  | 0x30 => some (.bari (r.imm.setWidth 4) (r.imm.extractLsb' 4 2) (r.imm.extractLsb' 6 2) (r.imm.extractLsb' 15 12))
  | 0x31 => (Scope.ofCode (r.imm.extractLsb' 12 3)).map fun scp =>
    .bara r.xd (r.imm.setWidth 4) (r.imm.extractLsb' 4 2) (r.imm.extractLsb' 6 2) (r.imm.extractLsb' 8 4) scp
  | 0x32 => (Scope.ofCode (r.imm.extractLsb' 12 3)).map fun scp =>
    .barw r.xd (r.imm.setWidth 4) (r.imm.extractLsb' 4 2) (r.imm.extractLsb' 6 2) r.xa (r.imm.extractLsb' 8 4) scp
  | 0x38 => some (.launch r.xd (r.xb.setWidth 4) (r.imm.setWidth 4))
  | 0x40 => some (.nsend r.xa (r.imm.setWidth 8) (r.imm.extractLsb' 8 4))
  | 0x41 => some (.npost r.xa (r.imm.setWidth 8) (r.imm.extractLsb' 8 4) (r.imm.extractLsb' 12 4))
  | 0x42 => match (r.imm.extractLsb' 0 2).toNat with
    | 0 => some (.nstatE r.xd)
    | 1 => some (.nstatT r.xd)
    | 2 => some (.nstatI r.xd r.xa)
    | _ => some (.nstatA r.xd r.xa)
  | 0x48 => some (.coll r.xd (r.xb.setWidth 4) (r.imm.setWidth 4) (r.imm.extractLsb' 4 2) (r.imm.extractLsb' 6 2))
  | 0x50 => some (.mrgn (r.imm.setWidth 3) (r.imm.extractLsb' 4 4))
  | 0x51 => some (if r.imm.extractLsb' 2 8 = 0 then .minjOff
    else .minj (r.imm.setWidth 2) r.xa (r.imm.extractLsb' 2 8) (r.imm.extractLsb' 10 12))
  | _ => none

/-- The operation whose opcode and fields the X syllable holds, before its limits are checked. -/
def rawX (w : BitVec 64) : Option Instr :=
  rawXAt (w.extractLsb' 56 8).toNat w

/-- A syllable of a bundle, by its slot (R34). -/
inductive Syl where
  | s (w : BitVec 56) | a (w : BitVec 64) | v (w : BitVec 64) | x (w : BitVec 64)
  deriving DecidableEq, Repr

/-- The syllable that encodes an operation; the steps of other agents have none. NOP is the zero syllable of any slot
(R38) and is answered for the S slot. -/
def encode : Instr → Option Syl
  | .nop => some (.s 0)
  | .add sd sa sb => some (.s (SR.word 0x01#8 ⟨sd, sa, sb, 0, 0, 0⟩))
  | .sub sd sa sb => some (.s (SR.word 0x02#8 ⟨sd, sa, sb, 0, 0, 0⟩))
  | .mul sd sa sb => some (.s (SR.word 0x03#8 ⟨sd, sa, sb, 0, 0, 0⟩))
  | .mulh sd sa sb => some (.s (SR.word 0x04#8 ⟨sd, sa, sb, 0, 0, 0⟩))
  | .mulhn sd sa sb => some (.s (SR.word 0x05#8 ⟨sd, sa, sb, 0, 0, 0⟩))
  | .div sd sa sb => some (.s (SR.word 0x06#8 ⟨sd, sa, sb, 0, 0, 0⟩))
  | .divn sd sa sb => some (.s (SR.word 0x07#8 ⟨sd, sa, sb, 0, 0, 0⟩))
  | .rem sd sa sb => some (.s (SR.word 0x08#8 ⟨sd, sa, sb, 0, 0, 0⟩))
  | .remn sd sa sb => some (.s (SR.word 0x09#8 ⟨sd, sa, sb, 0, 0, 0⟩))
  | .and sd sa sb => some (.s (SR.word 0x0A#8 ⟨sd, sa, sb, 0, 0, 0⟩))
  | .or sd sa sb => some (.s (SR.word 0x0B#8 ⟨sd, sa, sb, 0, 0, 0⟩))
  | .xor sd sa sb => some (.s (SR.word 0x0C#8 ⟨sd, sa, sb, 0, 0, 0⟩))
  | .andn sd sa sb => some (.s (SR.word 0x0D#8 ⟨sd, sa, sb, 0, 0, 0⟩))
  | .shl sd sa sb => some (.s (SR.word 0x0E#8 ⟨sd, sa, sb, 0, 0, 0⟩))
  | .shr sd sa sb => some (.s (SR.word 0x0F#8 ⟨sd, sa, sb, 0, 0, 0⟩))
  | .sha sd sa sb => some (.s (SR.word 0x10#8 ⟨sd, sa, sb, 0, 0, 0⟩))
  | .rot sd sa sb => some (.s (SR.word 0x11#8 ⟨sd, sa, sb, 0, 0, 0⟩))
  | .min sd sa sb => some (.s (SR.word 0x12#8 ⟨sd, sa, sb, 0, 0, 0⟩))
  | .max sd sa sb => some (.s (SR.word 0x13#8 ⟨sd, sa, sb, 0, 0, 0⟩))
  | .minn sd sa sb => some (.s (SR.word 0x14#8 ⟨sd, sa, sb, 0, 0, 0⟩))
  | .maxn sd sa sb => some (.s (SR.word 0x15#8 ⟨sd, sa, sb, 0, 0, 0⟩))
  | .clz sd sa => some (.s (SR.word 0x16#8 ⟨sd, sa, 0, 0, 0, 0⟩))
  | .ctz sd sa => some (.s (SR.word 0x17#8 ⟨sd, sa, 0, 0, 0, 0⟩))
  | .popc sd sa => some (.s (SR.word 0x18#8 ⟨sd, sa, 0, 0, 0, 0⟩))
  | .seq sd sa sb => some (.s (SR.word 0x19#8 ⟨sd, sa, sb, 0, 0, 0⟩))
  | .sne sd sa sb => some (.s (SR.word 0x1A#8 ⟨sd, sa, sb, 0, 0, 0⟩))
  | .slt sd sa sb => some (.s (SR.word 0x1B#8 ⟨sd, sa, sb, 0, 0, 0⟩))
  | .sltn sd sa sb => some (.s (SR.word 0x1C#8 ⟨sd, sa, sb, 0, 0, 0⟩))
  | .sel sd sc sa sb => some (.s (SR.word 0x1D#8 ⟨sd, sa, sb, sc, 0, 0⟩))
  | .bfx sd sa pos len => some (.s (SR.word 0x1E#8 ⟨sd, sa, 0, 0, pos, len⟩))
  | .bfi sd sa pos len => some (.s (SR.word 0x1F#8 ⟨sd, sa, 0, 0, pos, len⟩))
  | .addi sd sa imm => some (.s (SI.word 0x20#8 ⟨sd, sa, imm⟩))
  | .andi sd sa imm => some (.s (SI.word 0x21#8 ⟨sd, sa, imm⟩))
  | .ori sd sa imm => some (.s (SI.word 0x22#8 ⟨sd, sa, imm⟩))
  | .xori sd sa imm => some (.s (SI.word 0x23#8 ⟨sd, sa, imm⟩))
  | .shli sd sa amt => some (.s (SI.word 0x24#8 ⟨sd, sa, amt.setWidth 32⟩))
  | .shri sd sa amt => some (.s (SI.word 0x25#8 ⟨sd, sa, amt.setWidth 32⟩))
  | .shai sd sa amt => some (.s (SI.word 0x26#8 ⟨sd, sa, amt.setWidth 32⟩))
  | .slti sd sa imm => some (.s (SI.word 0x27#8 ⟨sd, sa, imm⟩))
  | .li sd imm => some (.s (SI.word 0x28#8 ⟨sd, 0, imm⟩))
  | .lih sd imm => some (.s (SI.word 0x29#8 ⟨sd, 0, imm⟩))
  | .br off => some (.s (SB.word 0x30#8 ⟨0, 0, off⟩))
  | .beq sa sb off => some (.s (SB.word 0x31#8 ⟨sa, sb, off⟩))
  | .bne sa sb off => some (.s (SB.word 0x32#8 ⟨sa, sb, off⟩))
  | .blt sa sb off => some (.s (SB.word 0x33#8 ⟨sa, sb, off⟩))
  | .bge sa sb off => some (.s (SB.word 0x34#8 ⟨sa, sb, off⟩))
  | .bltn sa sb off => some (.s (SB.word 0x35#8 ⟨sa, sb, off⟩))
  | .bgen sa sb off => some (.s (SB.word 0x36#8 ⟨sa, sb, off⟩))
  | .jal sd off => some (.s (SB.word 0x37#8 ⟨sd, 0, off⟩))
  | .jalr sd sa imm => some (.s (SI.word 0x38#8 ⟨sd, sa, imm⟩))
  | .loopImm n d => some (.s (SL.word 0x39#8 ⟨true, 0, n, d⟩))
  | .loopReg sa d => some (.s (SL.word 0x39#8 ⟨false, sa, 0, d⟩))
  | .lclose vs ps => some (.s (SC.word 0x3A#8 ⟨0, 0, 0, 0#16 ++ 0#1 ++ ps ++ vs⟩))
  | .lcloseX vs ps => some (.s (SC.word 0x3A#8 ⟨0, 0, 0, 0#16 ++ 1#1 ++ ps ++ vs⟩))
  | .bpany pn lt off => some (.s (SP.word 0x3B#8 ⟨pn, lt, off⟩))
  | .bpall pn lt off => some (.s (SP.word 0x3C#8 ⟨pn, lt, off⟩))
  | .bqs sa sb off => some (.s (SB.word 0x3D#8 ⟨sa, sb, off⟩))
  | .ends => some (.s (SC.word 0x3E#8 ⟨0, 0, 0, 0⟩))
  | .trap code => some (.s (SC.word 0x40#8 ⟨0, 0, 0, code⟩))
  | .eret => some (.s (SC.word 0x41#8 ⟨0, 0, 0, 0⟩))
  | .crr sd cr => some (.s (SC.word 0x42#8 ⟨sd, 0, cr, 0⟩))
  | .crwReg cr sa => some (.s (SC.word 0x43#8 ⟨0, sa, cr, 0⟩))
  | .crwImm cr imm => some (.s (SC.word 0x43#8 ⟨0, 0, cr, imm⟩))
  | .fence scp => some (.s (SC.word 0x44#8 ⟨0, 0, 0, 0#21 ++ 3#2 ++ scp.code⟩))
  | .fenceR scp => some (.s (SC.word 0x44#8 ⟨0, 0, 0, 0#21 ++ 1#2 ++ scp.code⟩))
  | .fenceW scp => some (.s (SC.word 0x44#8 ⟨0, 0, 0, 0#21 ++ 2#2 ++ scp.code⟩))
  | .stepImm n => some (.s (SC.word 0x45#8 ⟨0, 0, 0, n⟩))
  | .stepReg sa => some (.s (SC.word 0x45#8 ⟨0, sa, 0, 0⟩))
  | .trig => some (.s (SC.word 0x46#8 ⟨0, 0, 0, 0⟩))
  | .chkS sa => some (.s (SC.word 0x47#8 ⟨0, sa, 0, 0⟩))
  | .chkA aa => some (.s (SC.word 0x47#8 ⟨0, 0#1 ++ aa, 0, 1#2 ++ 0#24⟩))
  | .chkV v => some (.s (SC.word 0x47#8 ⟨0, 0, 0, 2#2 ++ 0#17 ++ v⟩))
  | .aadd ad aa sb => some (.a (AR.word 0x01#8 ⟨ad, aa, sb, 0, 0⟩))
  | .aaddi ad aa imm => some (.a (AR.word 0x02#8 ⟨ad, aa, 0, 0, imm⟩))
  | .amov ad sb => some (.a (AR.word 0x03#8 ⟨ad, 0, sb, 0, 0⟩))
  | .agetA sb aa => some (.a (AR.word 0x04#8 ⟨0, aa, sb, 0, 0⟩))
  | .agetM sb md => some (.a (AR.word 0x04#8 ⟨0, 0, sb, md, 1⟩))
  | .amods md sb => some (.a (AR.word 0x05#8 ⟨0, 0, sb, md, 0⟩))
  | .ld rt mem sz sx wt => some (.a (AM.word 0x10#8 ⟨rt, mem.ab, mem.mm, mem.pi, sz, sx, 0, wt, mem.ofs⟩))
  | .lds rt mem sz sx wt => some (.a (AM.word 0x11#8 ⟨rt, mem.ab, mem.mm, mem.pi, sz, sx, 0, wt, mem.ofs⟩))
  | .st rt mem sz wt => some (.a (AM.word 0x12#8 ⟨rt, mem.ab, mem.mm, mem.pi, sz, false, 0, wt, mem.ofs⟩))
  | .lda rt mem sz sx scp wt => some (.a (AM.word 0x13#8 ⟨rt, mem.ab, mem.mm, mem.pi, sz, sx, scp.code, wt, mem.ofs⟩))
  | .stl rt mem sz scp wt => some (.a (AM.word 0x14#8 ⟨rt, mem.ab, mem.mm, mem.pi, sz, false, scp.code, wt, mem.ofs⟩))
  | .pref l2 mem => some (.a (AM.word 0x15#8 ⟨(0#4 ++ bit1 l2), mem.ab, mem.mm, mem.pi, 0, false, 0, 0, mem.ofs⟩))
  | .vld vt mem g ty wt => some (.a (AV.word 0x20#8 ⟨vt, mem.ab, mem.mm, mem.pi, g.p, g.neg, ty.code, 0, wt, mem.ofs⟩))
  | .vlds vt mem g ty wt => some (.a (AV.word 0x21#8 ⟨vt, mem.ab, mem.mm, mem.pi, g.p, g.neg, ty.code, 0, wt, mem.ofs⟩))
  | .vst vt mem g ty wt => some (.a (AV.word 0x22#8 ⟨vt, mem.ab, mem.mm, mem.pi, g.p, g.neg, ty.code, 0, wt, mem.ofs⟩))
  | .vgth vt mem vi g ty wt => some (.a (AV.word 0x23#8 ⟨vt, mem.ab, mem.mm, mem.pi, g.p, g.neg, ty.code, vi, wt, mem.ofs⟩))
  | .vsct vt mem vi g ty wt => some (.a (AV.word 0x24#8 ⟨vt, mem.ab, mem.mm, mem.pi, g.p, g.neg, ty.code, vi, wt, mem.ofs⟩))
  | .vfetch pq vs => some (.a (AQ.word 0x25#8 ⟨vs, pq⟩))
  | .vtld vt slot tr g ty => some (.a (AT.word 0x26#8 ⟨vt, slot, tr, g.p, g.neg, ty.code⟩))
  | .vtst vt slot tr g ty => some (.a (AT.word 0x27#8 ⟨vt, slot, tr, g.p, g.neg, ty.code⟩))
  | .amo rt ab sb op w64 scp ord wt => some (.a (AA.word 0x30#8 ⟨rt, ab, sb, op.code, (if w64 then 3 else 2), scp.code, ord, wt⟩))
  | .amocas rt ab sb w64 scp ord wt => some (.a (AA.word 0x31#8 ⟨rt, ab, sb, 0, (if w64 then 3 else 2), scp.code, ord, wt⟩))
  | .vadd vd a b g ty => some (.v (VR.word 0x01#8 ⟨vd, a.code, b.code, 0, g.p, g.neg, ty.code, 0⟩))
  | .vsub vd a b g ty => some (.v (VR.word 0x02#8 ⟨vd, a.code, b.code, 0, g.p, g.neg, ty.code, 0⟩))
  | .vmul vd a b g ty => some (.v (VR.word 0x03#8 ⟨vd, a.code, b.code, 0, g.p, g.neg, ty.code, 0⟩))
  | .vfma vd a b c g ty => some (.v (VR.word 0x04#8 ⟨vd, a.code, b.code, c.code, g.p, g.neg, ty.code, 0⟩))
  | .vfms vd a b c g ty => some (.v (VR.word 0x05#8 ⟨vd, a.code, b.code, c.code, g.p, g.neg, ty.code, 0⟩))
  | .vfnma vd a b c g ty => some (.v (VR.word 0x06#8 ⟨vd, a.code, b.code, c.code, g.p, g.neg, ty.code, 0⟩))
  | .vmin vd a b g ty => some (.v (VR.word 0x07#8 ⟨vd, a.code, b.code, 0, g.p, g.neg, ty.code, 0⟩))
  | .vmax vd a b g ty => some (.v (VR.word 0x08#8 ⟨vd, a.code, b.code, 0, g.p, g.neg, ty.code, 0⟩))
  | .vabs vd a g ty => some (.v (VR.word 0x09#8 ⟨vd, a.code, 0, 0, g.p, g.neg, ty.code, 0⟩))
  | .vneg vd a g ty => some (.v (VR.word 0x0A#8 ⟨vd, a.code, 0, 0, g.p, g.neg, ty.code, 0⟩))
  | .vcps vd a b g ty => some (.v (VR.word 0x0B#8 ⟨vd, a.code, b.code, 0, g.p, g.neg, ty.code, 0⟩))
  | .vdiv vd a b g ty => some (.v (VR.word 0x10#8 ⟨vd, a.code, b.code, 0, g.p, g.neg, ty.code, 0⟩))
  | .vsqrt vd a g ty => some (.v (VR.word 0x11#8 ⟨vd, a.code, 0, 0, g.p, g.neg, ty.code, 0⟩))
  | .vrcp vd a g ty => some (.v (VR.word 0x12#8 ⟨vd, a.code, 0, 0, g.p, g.neg, ty.code, 0⟩))
  | .vrsq vd a g ty => some (.v (VR.word 0x13#8 ⟨vd, a.code, 0, 0, g.p, g.neg, ty.code, 0⟩))
  | .vex2 vd a g ty => some (.v (VR.word 0x14#8 ⟨vd, a.code, 0, 0, g.p, g.neg, ty.code, 0⟩))
  | .vlg2 vd a g ty => some (.v (VR.word 0x15#8 ⟨vd, a.code, 0, 0, g.p, g.neg, ty.code, 0⟩))
  | .vtnh vd a g ty => some (.v (VR.word 0x16#8 ⟨vd, a.code, 0, 0, g.p, g.neg, ty.code, 0⟩))
  | .vlgs vd a g ty => some (.v (VR.word 0x17#8 ⟨vd, a.code, 0, 0, g.p, g.neg, ty.code, 0⟩))
  | .vsin vd a g ty => some (.v (VR.word 0x18#8 ⟨vd, a.code, 0, 0, g.p, g.neg, ty.code, 0⟩))
  | .vcos vd a g ty => some (.v (VR.word 0x19#8 ⟨vd, a.code, 0, 0, g.p, g.neg, ty.code, 0⟩))
  | .viadd vd a b sat g ty => some (.v (VR.word 0x20#8 ⟨vd, a.code, b.code, 0, g.p, g.neg, ty.code, (0#11 ++ bit1 sat)⟩))
  | .visub vd a b sat g ty => some (.v (VR.word 0x21#8 ⟨vd, a.code, b.code, 0, g.p, g.neg, ty.code, (0#11 ++ bit1 sat)⟩))
  | .vimul vd a b g ty => some (.v (VR.word 0x22#8 ⟨vd, a.code, b.code, 0, g.p, g.neg, ty.code, 0⟩))
  | .vimulh vd a b g ty => some (.v (VR.word 0x23#8 ⟨vd, a.code, b.code, 0, g.p, g.neg, ty.code, 0⟩))
  | .vimad vd a b c g ty => some (.v (VR.word 0x24#8 ⟨vd, a.code, b.code, c.code, g.p, g.neg, ty.code, 0⟩))
  | .vand vd a b g ty => some (.v (VR.word 0x25#8 ⟨vd, a.code, b.code, 0, g.p, g.neg, ty.code, 0⟩))
  | .vor vd a b g ty => some (.v (VR.word 0x26#8 ⟨vd, a.code, b.code, 0, g.p, g.neg, ty.code, 0⟩))
  | .vxor vd a b g ty => some (.v (VR.word 0x27#8 ⟨vd, a.code, b.code, 0, g.p, g.neg, ty.code, 0⟩))
  | .vnot vd a g ty => some (.v (VR.word 0x28#8 ⟨vd, a.code, 0, 0, g.p, g.neg, ty.code, 0⟩))
  | .vshl vd a b g ty => some (.v (VR.word 0x29#8 ⟨vd, a.code, b.code, 0, g.p, g.neg, ty.code, 0⟩))
  | .vshr vd a b g ty => some (.v (VR.word 0x2A#8 ⟨vd, a.code, b.code, 0, g.p, g.neg, ty.code, 0⟩))
  | .vsha vd a b g ty => some (.v (VR.word 0x2B#8 ⟨vd, a.code, b.code, 0, g.p, g.neg, ty.code, 0⟩))
  | .vimin vd a b g ty => some (.v (VR.word 0x2C#8 ⟨vd, a.code, b.code, 0, g.p, g.neg, ty.code, 0⟩))
  | .vimax vd a b g ty => some (.v (VR.word 0x2D#8 ⟨vd, a.code, b.code, 0, g.p, g.neg, ty.code, 0⟩))
  | .viabs vd a sat g ty => some (.v (VR.word 0x2E#8 ⟨vd, a.code, 0, 0, g.p, g.neg, ty.code, (0#11 ++ bit1 sat)⟩))
  | .vcmp pd a b cond z g ty => some (.v (VR.word 0x30#8 ⟨(0#3 ++ pd), a.code, b.code, 0, g.p, g.neg, ty.code, (0#8 ++ bit1 z ++ cond)⟩))
  | .vicmp pd a b cond z g ty => some (.v (VR.word 0x31#8 ⟨(0#3 ++ pd), a.code, b.code, 0, g.p, g.neg, ty.code, (0#8 ++ bit1 z ++ cond)⟩))
  | .pand pd pa pb g ty => some (.v (VR.word 0x38#8 ⟨(0#3 ++ pd), (predSpec pa), (predSpec pb), 0, g.p, g.neg, ty.code, 0⟩))
  | .por pd pa pb g ty => some (.v (VR.word 0x39#8 ⟨(0#3 ++ pd), (predSpec pa), (predSpec pb), 0, g.p, g.neg, ty.code, 0⟩))
  | .pxor pd pa pb g ty => some (.v (VR.word 0x3A#8 ⟨(0#3 ++ pd), (predSpec pa), (predSpec pb), 0, g.p, g.neg, ty.code, 0⟩))
  | .pnot pd pa g ty => some (.v (VR.word 0x3B#8 ⟨(0#3 ++ pd), (predSpec pa), 0, 0, g.p, g.neg, ty.code, 0⟩))
  | .pmov pd pa g ty => some (.v (VR.word 0x3C#8 ⟨(0#3 ++ pd), (predSpec pa), 0, 0, g.p, g.neg, ty.code, 0⟩))
  | .psetImm pd n g ty => some (.v (VR.word 0x3D#8 ⟨(0#3 ++ pd), 0, 0, 0, g.p, g.neg, ty.code, (1#1 ++ n)⟩))
  | .psetReg pd sa g ty => some (.v (VR.word 0x3D#8 ⟨(0#3 ++ pd), (VSrc.s sa).code, 0, 0, g.p, g.neg, ty.code, 0⟩))
  | .pcnt sd pa g ty => some (.v (VR.word 0x3E#8 ⟨(0#2 ++ sd), (predSpec pa), 0, 0, g.p, g.neg, ty.code, 0⟩))
  | .pfst sd pa g ty => some (.v (VR.word 0x3F#8 ⟨(0#2 ++ sd), (predSpec pa), 0, 0, g.p, g.neg, ty.code, 0⟩))
  | .vmov vd a g ty => some (.v (VR.word 0x40#8 ⟨vd, a.code, 0, 0, g.p, g.neg, ty.code, 0⟩))
  | .vsel vd pc a b g ty => some (.v (VR.word 0x41#8 ⟨vd, a.code, b.code, (predSpec pc), g.p, g.neg, ty.code, 0⟩))
  | .vbcstScalar vd sa g ty => some (.v (VR.word 0x42#8 ⟨vd, (VSrc.s sa).code, 0, 0, g.p, g.neg, ty.code, 0⟩))
  | .vbcstLane vd a sb g ty => some (.v (VR.word 0x42#8 ⟨vd, a.code, (VSrc.s sb).code, 0, g.p, g.neg, ty.code, 0⟩))
  | .vbcstImm vd imm g ty => some (.v (VI.word 0x43#8 ⟨vd, g.p, g.neg, ty.code, imm⟩))
  | .vextImm sd a idx ty => some (.v (VR.word 0x44#8 ⟨(0#2 ++ sd), a.code, 0, 0, 0, false, ty.code, (2#2 ++ idx)⟩))
  | .vextReg sd a si ty => some (.v (VR.word 0x44#8 ⟨(0#2 ++ sd), a.code, (VSrc.s si).code, 0, 0, false, ty.code, 0⟩))
  | .vinsImm vd sa idx ty => some (.v (VR.word 0x45#8 ⟨vd, (VSrc.s sa).code, 0, 0, 0, false, ty.code, (2#2 ++ idx)⟩))
  | .vinsReg vd sa si ty => some (.v (VR.word 0x45#8 ⟨vd, (VSrc.s sa).code, (VSrc.s si).code, 0, 0, false, ty.code, 0⟩))
  | .vshuf vd a i g ty => some (.v (VR.word 0x46#8 ⟨vd, a.code, i.code, 0, g.p, g.neg, ty.code, 0⟩))
  | .vshufTwo vd a i c g ty => some (.v (VR.word 0x46#8 ⟨vd, a.code, i.code, c.code, g.p, g.neg, ty.code, 1⟩))
  | .vslideImm vd a b n g ty => some (.v (VR.word 0x47#8 ⟨vd, a.code, b.code, 0, g.p, g.neg, ty.code, (1#1 ++ n)⟩))
  | .vslideReg vd a b sc g ty => some (.v (VR.word 0x47#8 ⟨vd, a.code, b.code, (VSrc.s sc).code, g.p, g.neg, ty.code, 0⟩))
  | .vred vd a op g ty => some (.v (VR.word 0x48#8 ⟨vd, a.code, 0, 0, g.p, g.neg, ty.code, (0#9 ++ op.code)⟩))
  | .vscan vd a op g ty => some (.v (VR.word 0x49#8 ⟨vd, a.code, 0, 0, g.p, g.neg, ty.code, (0#9 ++ op.code)⟩))
  | .vcmpr vd a g ty => some (.v (VR.word 0x4A#8 ⟨vd, a.code, 0, 0, g.p, g.neg, ty.code, 0⟩))
  | .vcvt vd a g td ts part sat => some (.v (VR.word 0x50#8 ⟨vd, a.code, 0, 0, g.p, g.neg, td.code, 0#3 ++ bit1 sat ++ part ++ ts.code⟩))
  | .vqmx vd a te ss part => some (.v (VR.word 0x51#8 ⟨vd, a.code, 0, 0, 0, false, te.code, 0#4 ++ part ++ ss⟩))
  | .vdqmx vd a te ss part => some (.v (VR.word 0x52#8 ⟨vd, a.code, (VSrc.s ss).code, 0, 0, false, Ty.f32.code, 0#4 ++ part ++ te.code⟩))
  | .vrnd vd a mode g ty => some (.v (VR.word 0x53#8 ⟨vd, a.code, 0, 0, g.p, g.neg, ty.code, (0#9 ++ mode)⟩))
  | .vdelt vd a b sc slot g ty => some (.v (VR.word 0x58#8 ⟨vd, a.code, b.code, (VSrc.s sc).code, g.p, g.neg, ty.code, (0#4 ++ slot)⟩))
  | .mma q e => some (.x (XE.word 0x01#8 ⟨q.code, e.wt, e.sg, e.ap, e.ss, e.slk, 0⟩))
  | .mmad q e => some (.x (XE.word 0x02#8 ⟨q.code, e.wt, e.sg, e.ap, e.ss, e.slk, 0⟩))
  | .mepi q e => some (.x (XE.word 0x04#8 ⟨q.code, e.wt, e.sg, e.ap, e.ss, e.slk, 0⟩))
  | .wload q e => some (.x (XE.word 0x06#8 ⟨q.code, e.wt, e.sg, e.ap, e.ss, e.slk, 0⟩))
  | .mzero q row rows lh wt sg ss slk => some (.x (XE.word 0x03#8 ⟨q.code, wt, sg, 0, ss, slk, 0#6 ++ bit1 lh ++ rows ++ row⟩))
  | .txfer e => some (.x (XE.word 0x10#8 ⟨0, e.wt, e.sg, e.ap, e.ss, e.slk, 0⟩))
  | .tfill e => some (.x (XE.word 0x11#8 ⟨0, e.wt, e.sg, e.ap, e.ss, e.slk, 0⟩))
  | .tdrain e => some (.x (XE.word 0x12#8 ⟨0, e.wt, e.sg, e.ap, e.ss, e.slk, 0⟩))
  | .tmcast e => some (.x (XE.word 0x13#8 ⟨0, e.wt, e.sg, e.ap, e.ss, e.slk, 0⟩))
  | .ovpop sd => some (.x (XR.word 0x05#8 ⟨sd, 0, 0, 0, 0⟩))
  | .tlook sd sa => some (.x (XR.word 0x14#8 ⟨sd, sa, 0, 0, 0⟩))
  | .tclaimAuto sd sa => some (.x (XR.word 0x15#8 ⟨sd, sa, 0, 0, 0⟩))
  | .tclaimNamed sd sa slot => some (.x (XR.word 0x15#8 ⟨sd, sa, 0, 0, 0#27 ++ 1#1 ++ slot⟩))
  | .tfreeNamed slot => some (.x (XR.word 0x16#8 ⟨0, 0, 0, 0, 0#27 ++ 1#1 ++ slot⟩))
  | .tfreeReg sa => some (.x (XR.word 0x16#8 ⟨0, sa, 0, 0, 0⟩))
  | .tstatNamed sd slot => some (.x (XR.word 0x17#8 ⟨sd, 0, 0, 0, 0#27 ++ 1#1 ++ slot⟩))
  | .tstatReg sd sa => some (.x (XR.word 0x17#8 ⟨sd, sa, 0, 0, 0⟩))
  | .sigImm sem amt => some (.x (XR.word 0x20#8 ⟨0, 0, 0, 0, 0#24 ++ amt ++ sem⟩))
  | .sigReg sem sa => some (.x (XR.word 0x20#8 ⟨0, sa, 0, 0, 0#32 ++ sem⟩))
  | .swait sem amt => some (.x (XR.word 0x21#8 ⟨0, 0, 0, 0, 0#24 ++ amt ++ sem⟩))
  | .semrSem sd sem => some (.x (XR.word 0x22#8 ⟨sd, 0, 0, 0, 0#28 ++ sem ++ 0#4⟩))
  | .semrOvf sd => some (.x (XR.word 0x22#8 ⟨sd, 0, 0, 0, 1⟩))
  | .semrEnt sd sa q word => some (.x (XR.word 0x22#8 ⟨sd, sa, 0, 0, 0#21 ++ word ++ 0#2 ++ q.code ++ 0#4 ++ 2#4⟩))
  | .semrCfg sd q => some (.x (XR.word 0x22#8 ⟨sd, 0, 0, 0, 0#26 ++ q.code ++ 0#4 ++ 3#4⟩))
  | .eqflushD q => some (.x (XR.word 0x23#8 ⟨0, 0, 0, 0, 0#34 ++ q.code⟩))
  | .eqflushR q sb => some (.x (XR.word 0x23#8 ⟨0, 0, sb, 0, 0#31 ++ 1#1 ++ 0#2 ++ q.code⟩))
  | .qpush sd sa ab sc wait sem => some (.x (XR.word 0x28#8 ⟨sd, sa, 0#1 ++ ab, sc, 0#11 ++ 0#1 ++ sem ++ wait⟩))
  | .qpushA sd sa ab sc wait sem => some (.x (XR.word 0x28#8 ⟨sd, sa, 0#1 ++ ab, sc, 0#11 ++ 1#1 ++ sem ++ wait⟩))
  | .qpop sd sa ab sc wait sem => some (.x (XR.word 0x29#8 ⟨sd, sa, 0#1 ++ ab, sc, 0#11 ++ 0#1 ++ sem ++ wait⟩))
  | .qstat sd sa field => some (.x (XR.word 0x2A#8 ⟨sd, sa, 0, 0, 0#34 ++ field⟩))
  | .bari bid lw lh n => some (.x (XR.word 0x30#8 ⟨0, 0, 0, 0, 0#9 ++ n ++ 0#3 ++ 0#4 ++ lh ++ lw ++ bid⟩))
  | .bara sd bid lw lh sem scp => some (.x (XR.word 0x31#8 ⟨sd, 0, 0, 0, 0#21 ++ scp.code ++ sem ++ lh ++ lw ++ bid⟩))
  | .barw sd bid lw lh sa sem scp => some (.x (XR.word 0x32#8 ⟨sd, sa, 0, 0, 0#21 ++ scp.code ++ sem ++ lh ++ lw ++ bid⟩))
  | .launch sd ab sem => some (.x (XR.word 0x38#8 ⟨sd, 0, 0#1 ++ ab, 0, 0#32 ++ sem⟩))
  | .nsend sa slot sem => some (.x (XR.word 0x40#8 ⟨0, sa, 0, 0, 0#24 ++ sem ++ slot⟩))
  | .npost sa slot n sem => some (.x (XR.word 0x41#8 ⟨0, sa, 0, 0, 0#20 ++ sem ++ n ++ slot⟩))
  | .nstatE sd => some (.x (XR.word 0x42#8 ⟨sd, 0, 0, 0, 0⟩))
  | .nstatT sd => some (.x (XR.word 0x42#8 ⟨sd, 0, 0, 0, 1⟩))
  | .nstatI sd sa => some (.x (XR.word 0x42#8 ⟨sd, sa, 0, 0, 2⟩))
  | .nstatA sd sa => some (.x (XR.word 0x42#8 ⟨sd, sa, 0, 0, 3⟩))
  | .coll sd ab sem lw lh => some (.x (XR.word 0x48#8 ⟨sd, 0, 0#1 ++ ab, 0, 0#28 ++ lh ++ lw ++ sem⟩))
  | .mrgn level sem => some (.x (XR.word 0x50#8 ⟨0, 0, 0, 0, 0#28 ++ sem ++ 0#1 ++ level⟩))
  | .minj unit sa n gp => some (.x (XR.word 0x51#8 ⟨0, sa, 0, 0, 0#14 ++ gp ++ n ++ unit⟩))
  | .minjOff => some (.x (XR.word 0x51#8 ⟨0, 0, 0, 0, 0⟩))
  | .issueAttempt .. | .stepgap .. | .asyncCauseTake .. | .seatSwitch .. | .resultLanding .. | .errorResponse ..
  | .loadMissFill .. | .billetWrite .. | .billetRelease .. | .seatWakeDone .. | .checkpointSaveDone ..
  | .designate .. | .prqKill .. | .prqCheckpoint .. | .prqDrain .. | .forcedKill .. | .ckptRequestTimeout ..
  | .rowPowerWrite .. | .debugRowRead .. | .debugRowWrite .. | .pacingOpen .. | .waitTokenConsume ..
  | .stampGateOpen .. | .unitChoice .. | .leaveGrant .. | .paramBlockReadDone .. | .mmaStep .. | .mmadStep ..
  | .mepiStep .. | .mzeroStep .. | .wloadStep .. | .txferStep .. | .tfillStep .. | .tdrainStep .. | .tmcastStep ..
  | .stepEnd .. | .stampMiss .. | .lateWriteFailure .. | .queueGrant .. | .packetPublish .. | .qwaitExpiry ..
  | .barrierArrival .. | .barrierWaitRequest .. | .cnt .. | .floor .. | .requal .. | .budget .. | .inval ..
  | .invalComplete .. | .stewardUnknownType .. | .stewardWatchdog .. | .windowEnd .. | .lateVerdict ..
  | .engineLateVerdict .. | .persistenceLimit .. | .guardSettled .. | .injection .. | .droopDetect ..
  | .droopHoldEnd .. | .rteUpdate .. | .launchReadDone .. | .instanceRelease .. | .bind .. | .cutStart ..
  | .cutReport .. | .cutTimeout .. | .instanceComplete .. | .instanceRetire .. | .shareWindowEnd ..
  | .dispatchConfigWrite .. | .messageIngress .. | .messageLanded .. | .egressDone .. | .timebaseUpdate ..
  | .powerCheck .. | .fabricClockHop .. | .mirrorCommit .. | .mirrorHeaderWrite .. | .heartbeatSend ..
  | .heartbeatTick .. | .relayFailure .. | .hbmSlot .. | .slotMapApply .. | .pageWalkDone .. | .keyLoad ..
  | .keyRetire .. | .keyRetireDone .. | .alloc .. | .release .. | .qcfg .. | .steer .. | .egress .. | .sess ..
  | .install .. | .remove .. | .asroot .. | .cwm .. | .smap .. | .mailboxUnknownType .. | .cwmApply ..
  | .porterDoorbell .. | .queueEnable .. | .porterNop .. | .porterLaunch .. | .launchRes .. | .waitmem ..
  | .waitmemSatisfied .. | .waitmemTimeout .. | .signal .. | .pred .. | .rearm .. | .rearmIteration ..
  | .tstamp .. | .intr .. | .porterFence .. | .resume .. | .malformedPacket .. | .packetComplete ..
  | .intrTimeout .. | .msixUnmask .. | .coalesceWrite .. | .hostBar2Read .. | .hostBar2Write .. | .hostAtomic ..
  | .pcieCompletionTimeout .. | .stopInterface .. | .lockInterface .. | .startInterface .. | .spdmRequest ..
  | .powerOnReset .. | .supplyLossWarning | .linkTrain .. | .flitReceive .. | .reassemblyTimeout .. | .linkDown ..
  | .routeRecompute .. | .starvation .. | .suspensionWrite .. | .fabricAccess .. | .transactionTimeout ..
  | .remotePushArrival .. | .collComplete .. | .collTimeout .. | .registerWrite .. | .barrierInit ..
  | .flitSlot .. | .portDown .. => none

/-- The well-formed operation that a syllable encodes exactly, if any (R38, R39). -/
def decodeSyl (y : Syl) : Option Instr :=
  let (z, i) := match y with
    | .s w => (w == 0, rawS w)
    | .a w => (w == 0, rawA w)
    | .v w => (w == 0, rawV w)
    | .x w => (w == 0, rawX w)
  if z then some .nop
  else i.filter fun i => i.wf && encode i == some y

/-- The header of a bundle (R35). -/
structure Header where
  ws : SemR
  wk : Bool
  deriving DecidableEq, Repr

/-- What a bundle decodes to: its header and its four operations, or the syllable that failed, by its index and major
opcode (R39). -/
inductive Decoded where
  | ok (h : Header) (s a v x : Instr)
  | bad (index : Bits3) (opc : Bits8)
  deriving DecidableEq, Repr

/-- The syllables of a bundle (R34). -/
def sylS (b : BitVec 256) : BitVec 56 := b.extractLsb' 192 56
def sylA (b : BitVec 256) : BitVec 64 := b.extractLsb' 128 64
def sylV (b : BitVec 256) : BitVec 64 := b.extractLsb' 64 64
def sylX (b : BitVec 256) : BitVec 64 := b.extractLsb' 0 64

/-- Decode checks the header, then S, A, V and X, and reports the first failure (R39). -/
def decodeBundle (b : BitVec 256) : Decoded :=
  if b.extractLsb' 248 3 != 0 then .bad 7 0 else
  match decodeSyl (.s (sylS b)) with
  | none => .bad 0 ((sylS b).extractLsb' 48 8)
  | some s =>
  match decodeSyl (.a (sylA b)) with
  | none => .bad 1 ((sylA b).extractLsb' 56 8)
  | some a =>
  match decodeSyl (.v (sylV b)) with
  | none => .bad 2 ((sylV b).extractLsb' 56 8)
  | some v =>
  match decodeSyl (.x (sylX b)) with
  | none => .bad 3 ((sylX b).extractLsb' 56 8)
  | some x => .ok ⟨b.extractLsb' 252 4, b.getLsbD 251⟩ s a v x

/-- A bundle that holds one operation, the other slots NOP and the header zero (R34). -/
def bundleOf (y : Syl) : BitVec 256 :=
  match y with
  | .s w => 0#8 ++ w ++ 0#64 ++ 0#64 ++ 0#64
  | .a w => 0#8 ++ 0#56 ++ w ++ 0#64 ++ 0#64
  | .v w => 0#8 ++ 0#56 ++ 0#64 ++ w ++ 0#64
  | .x w => 0#8 ++ 0#56 ++ 0#64 ++ 0#64 ++ w

/-- Major opcode of a syllable (R34). -/
def Syl.opc : Syl → Bits8
  | .s w => w.extractLsb' 48 8
  | .a w => w.extractLsb' 56 8
  | .v w => w.extractLsb' 56 8
  | .x w => w.extractLsb' 56 8

/-- Index of a syllable's slot: 0 S, 1 A, 2 V, 3 X (R39). -/
def Syl.index : Syl → Bits3
  | .s _ => 0
  | .a _ => 1
  | .v _ => 2
  | .x _ => 3

/-- The one operation of a bundle whose low `nbits` bits are those of `w` and whose other bits are zero: the first in the
order S, A, V, X that is not a NOP. A bundle the decoder refuses answers none. -/
def decodeTableWord (nbits w : Nat) : Option Instr :=
  match decodeBundle (BitVec.ofNat 256 (w % 2 ^ nbits)) with
  | .bad _ _ => none
  | .ok _ s a v x =>
    some (if s != .nop then s else if a != .nop then a else if v != .nop then v else x)

end Sys2Proof
end

