-- ==== Sys2Proof/Machine/State.lean ====
section
/-!
DEFINITION. The state of the machine as plain data: every register, table, queue and memory that the specification gives
the part, the reasons a step may stop, and the state after reset. Tables are lists of (number, value) with rising
numbers; a number that is not listed holds the value named beside the table's use.
-/
namespace Sys2Proof.Machine

/-- A table: pairs of a number and what it holds, numbers strictly rising. -/
abbrev Tab (α : Type) := List (Nat × α)

/-- Why a step may stop. Ordinary data never stops the machine. -/
inductive Fault where
  /-- Raised by no meaning: the specification gives every instruction an effect. Kept so that the type is not empty. Safe. -/
  | none
  deriving DecidableEq, Repr

/-- Why the model gives no meaning. -/
inductive Refusal where
  /-- Raised by an arm of exec whose instruction has no meaning yet. Safe: the machine goes on where the model stops. -/
  | notModelled (mnemonic : String)
  deriving DecidableEq, Repr

/-- A vector or granary row with the poison tags of its 32 sectors (R15, R18, R217). -/
structure Row where
  d : RowBits
  t : BitVec 32
  deriving DecidableEq, Repr

/-- The states of a seat (R168). -/
inductive SeatState where
  | empty | wake | resident | issuing | out | ended | halted
  deriving DecidableEq, Repr

/-- A register write on its way: the destination with what it will hold (R30, R31). Rows are physical (R30); `mask` says
which bits of the row are written, `full` which sectors have every lane written, `g` the tags of the lanes written
(R111). -/
inductive Write where
  | s (n : SReg) (v : Word) (tag : Bool)
  | a (n : AReg) (v : Word) (tag : Bool)
  | m (n : MReg) (v : Word)
  | p (phys : BitVec 4) (v : PredBits)
  | row (phys : Nat) (mask data : RowBits) (full g : BitVec 32)
  | pq (n : PqReg) (r : Row)
  deriving DecidableEq, Repr

/-- A fixed-latency result in flight: issued in issue cycle `born`, it may be read from issue cycle `due` on (R54, R56).
Overflow events of a VQMX enter their queue when its row lands (R133). -/
structure Fly where
  born : Nat
  due : Nat
  w : Write
  ev : List Word
  deriving DecidableEq, Repr

/-- Where a variable-latency result goes (R55): an s register, lanes of a row, or nowhere. -/
inductive Dest where
  | none
  | s (n : SReg)
  | row (phys : Nat) (mask : RowBits) (full : BitVec 32)
  deriving DecidableEq, Repr

/-- The classes under which an originator's traffic goes: link class, L2 class and HBM slot class (R275, R304, R364, R411). -/
structure Cls where
  link : Nat
  l2 : Nat
  hsc : Nat
  deriving DecidableEq, Repr

/-- What a walk found: the physical address, the page kind, whether it is cacheable, whether its loads are poisoned, the
key under which its bytes are kept, its HBM slot class and its key number (R368, R373); and the classes of the originator. -/
structure Xl where
  pa : Nat
  kind : Nat
  cache : Bool
  por : Bool
  kid : Nat
  cls : Nat
  key : Nat
  who : Cls
  deriving DecidableEq, Repr

/-- A part of an access that lies in one page. -/
structure Seg where
  xl : Xl
  len : Nat
  deriving DecidableEq, Repr

/-- What a barrier message asks (R269 to R271). -/
inductive BarKind where
  | init | arrive | wait
  deriving DecidableEq, Repr

/-- A barrier message on its way to its unit, or a wait that the unit holds: the record it names, the E with which it would
create the record, its phase, and the seat and result it answers (R268 to R272). -/
structure BarMsg where
  kind : BarKind
  core : CoreId
  seat : SeatId
  inst : Nat
  bid : Bits4
  cx : Nat
  cy : Nat
  e : Nat
  phase : Bits16
  /-- Key of the result that it answers. -/
  key : Nat
  sidx : Nat
  deriving DecidableEq, Repr

/-- Who asked for a launch and is told of its end (R315, R384). -/
inductive Asker where
  | strand (core : CoreId) (seat : SeatId) (key : Nat)
  | porter (func : FuncId) (q : Bits8) (pkt : Nat)
  | none
  deriving DecidableEq, Repr

/-- A launch whose record and descriptor are being read (R315 to R317). -/
structure LaunchReq where
  asker : Asker
  func : FuncId
  asn : Bits12
  priv : Bool
  record : Option (List Byte)
  va : Word
  deriving DecidableEq, Repr

/-- What the device has sent outward, newest last: the model's own record of its outputs (log 7). -/
inductive Out where
  | frame (die : DieId) (bind cls : Nat) (bytes : List Byte)
  | msix (func : FuncId) (vec : Nat)
  | hostRead (func : FuncId) (off : Word) (bytes : List Byte) (ok poisoned : Bool)
  | hostAtomic (func : FuncId) (off : Word) (old : Bits128) (ok : Bool)
  | doe (func : FuncId) (bytes : List Byte)
  | fabricData (dev : Bits9) (bytes : List Byte) (ok : Bool) (pois : List Nat) (cls : Nat)
  | fabricPush (dev : Bits9) (qid : Bits16) (ack : Bool) (origin : Bits16) (bytes : List Byte) (pois : List Nat) (cls : Nat)
  | queueAck (dev : Bits9) (origin : Bits16) (value : Word) (cls : Nat)
  | creditReturn (dev : Bits9)
  | flit (link : LinkId) (cls : Bits2) (sop eop psn : Bool) (data : BitVec 512)
  | request (dev : Bits9) (addr : Word) (op : FabOp) (bytes : List Byte) (pois : List Nat) (cls : Nat)
  | packet (link : LinkId) (cls : Bits2) (flits : List (BitVec 512 × Bool))
  | debugRow (core : CoreId) (row : Bits11) (data : RowBits) (tags : Imm32) (status : Word)
  | marker (cyc ptime : Word) (lines : Nat) (complete : Bool)
  deriving DecidableEq, Repr

/-- What stands at the boundary of a core's domain until the verdict on its cycle, and takes effect when it crosses or commits (R248,
R257, R258): an output; a barrier message for a die's unit; a launch for a dispatcher; a strand's trigger in its instance; the arming of
a steering entry; a margin request with its level, and its token; the arming of an injection, with the CYC of the first one, or its
disarming. -/
inductive Held where
  | out (o : Out)
  | bar (d : DieId) (m : BarMsg)
  | launch (d : DieId) (r : LaunchReq)
  | trig (d : DieId) (inst sidx : Nat)
  | post (c : CoreId) (k : SeatId) (inst i slot n : Nat) (sem : SemR)
  | req (c : CoreId) (k : SeatId) (inst : Nat) (lvl : Bits3)
  | settle (c : CoreId) (k : SeatId) (inst id : Nat) (sem : SemR)
  | inject (c : CoreId) (unit : Bits2) (x cnt gap : Nat)
  | disarm (c : CoreId)
  deriving DecidableEq, Repr

/-- A participant that has joined a collective (R424 to R428). -/
structure Joiner where
  core : CoreId
  seat : SeatId
  /-- Key of the result that the end answers. -/
  res : Nat
  rank : Nat
  lw : Nat
  lh : Nat
  desc : List Byte
  fcr : Word
  func : FuncId
  asn : Bits12
  user : Bool
  at0 : Nat
  /-- Its source buffer as it stood when it joined (R428). -/
  src : List Byte
  deriving DecidableEq, Repr

/-- A push whose payload another device or the host has still to give: the identity of the queue, the index of the record where it is
reserved here, the parts of the payload, its buffer, and whether it goes to another device, with an acknowledgement (R240, R422). -/
structure PushReq where
  raw : Nat
  dev : Bits9
  idx : Nat
  segs : List Seg
  buf : Word
  away : Bool
  ack : Bool
  deriving DecidableEq, Repr

/-- A pop whose packet is still to be read from another device or the host, or to be written there: the identity of the queue, its buffer,
the parts that are read, and the bytes where they are known (R240, R241). -/
structure PopReq where
  raw : Nat
  buf : Word
  len : Nat
  read : Option (List Seg)
  deriving DecidableEq, Repr

/-- What a bundle that has issued still has to do, because an access before it has not been performed yet, or because another
device or the host has not answered (R284 to R290): a load of bytes into a buffer, from the offset given; a store; an atomic;
an arrival at a barrier; a launch; the early trigger; the joining of a collective whose descriptor lies at an address; an
increment of a semaphore; the rest of a push or of a pop. -/
inductive Todo where
  | load (l : List (Nat × Seg))
  | store (l : List (Seg × List Byte))
  | atomic (x : Xl) (o : FabOp)
  | arrive (m : BarMsg)
  | launch (r : LaunchReq)
  | trig
  | coll (b : Word) (j : Joiner)
  | inc (sem : SemR) (n : Nat)
  | push (r : PushReq)
  | pop (r : PopReq)
  deriving DecidableEq, Repr

/-- What a variable-latency result waits for (R170). -/
inductive VKind where
  | load | lds | store | atomic | qpush | qpop | bara | barw | launch | nsend | npost | coll | mrgn | other
  deriving DecidableEq, Repr

/-- A variable-latency result outstanding (R55, R170): destination, the data and tags bound for it, the semaphore to
increment, the address of the access (R102), and whether the answer comes from another device or the host. `ready` is
false while the value is not known yet; `key` tells how it is widened (load: size code, + 4 if sign-extended; 8 for a row) or
which request it answers; `ck` is the CYC of the issue; `bad` is the code and value of the cause that the answer brings. -/
structure Vres where
  kind : VKind
  dest : Dest
  data : RowBits
  tags : BitVec 32
  sem : SemR
  addr : Word
  remote : Bool
  ready : Bool
  ck : Nat
  key : Nat
  bad : Option (Bits16 × Word)
  /-- Its number among the seat's outstanding results, the locations that it touches, and what it is in the program order: an
  acquire, a release, an access to an SO page (R285, R288, R290). -/
  id : Nat
  loc : List (Nat × Nat)
  acq : Bool
  rel : Bool
  so : Bool
  /-- The scope of the release or acquire reaches beyond the core, so that it acts on UO lines (R287). -/
  wide : Bool
  /-- Numbers of the results that have to be performed before it, and what it has to do then (R284 to R290). -/
  after : List Nat
  todo : Option Todo
  deriving DecidableEq, Repr

/-- A result that is known, without effect. -/
def Vres.none : Vres :=
  { kind := .other, dest := .none, data := 0, tags := 0, sem := 0, addr := 0, remote := false, ready := true, ck := 0, key := 0,
    bad := Option.none, id := 0, loc := [], acq := false, rel := false, so := false, wide := false, after := [], todo := Option.none }

/-- A cause that waits to be taken between bundles (R153, R155): an asynchronous cause, or the F_REPLAY mark of an engine
cycle, whose SRC is 0 (R251). -/
structure Cause where
  code : Bits16
  src : Bits3
  qent : Bits8
  tval : Word
  /-- CYC of its arrival. -/
  at0 : Nat
  deriving DecidableEq, Repr

/-- An egress completion of a seat (R344). -/
structure Egr where
  word : Word
  stamp : Word
  deriving DecidableEq, Repr

/-- Window rows lo to hi - 1 that an engine command of the seat reads or writes, or granary rows that its MEPI steps write, and
that no header wait has ordered yet: its queue and SEQ, whether it writes them, and whether a bundle has written them meanwhile
(R115, R223). -/
structure Und where
  q : Nat
  seq : Nat
  /-- Rows of the granary, which an MEPI step writes, in place of window rows (R223). -/
  gran : Bool
  /-- SEQ in H1 of a whole-array command, which either queue's tokens order. -/
  alt : Option Nat
  lo : Nat
  hi : Nat
  wr : Bool
  bad : Bool
  /-- Its block could not be read when the command was enqueued, so that any row may be one of its rows (R115). -/
  unk : Bool
  deriving DecidableEq, Repr

/-- A byte of memory that a bundle of the seat has stored to: its physical address, what it held before, and whether a SIG that
releases it is to land in the next phase 1. An engine command that nothing orders after the store may still read what it held
(R296, R297). -/
structure Recent where
  pa : Nat
  old : Byte
  sig : Bool
  /-- CYC of the store. -/
  ck : Nat
  deriving DecidableEq, Repr

/-- A seat: the whole architectural state of one strand (R11, R17, R26). -/
structure SeatSt where
  st : SeatState
  billet : Billet
  pc : Word
  /-- s1 to s31 by number; an unlisted register holds 0 (R17). -/
  sr : Tab Word
  sTag : BitVec 32
  ar : Tab Word
  aTag : BitVec 16
  mr : Tab Word
  /-- Physical predicates 1 to 11; an unlisted one is clear (R17). -/
  pr : Tab PredBits
  pq : Tab Row
  w : Tab Bits8
  ovf : Bits16
  fcr : Word
  tvec : Word
  tcause : Word
  tval : Word
  epc : Word
  tlc : BitVec 32
  tls : Word
  tle : Word
  trot : Word
  tpsn : Word
  lc : BitVec 32
  ls : Word
  le : Word
  vrb : Bits6
  prb : Bits3
  stepNo : BitVec 32
  rte : BitVec 32
  plv : Bool
  /-- Relocation bases xb0 to xb7 (R26). -/
  xb : Tab Word
  mlim : Word
  req : Bits3
  gap : Nat
  /-- Replays of the bundle since it was last issued anew (R250). -/
  rcount : Nat
  /-- Persistence count of the bundle at an address, and how much of it was counted at level 7 (R252). -/
  pcount : Nat
  pseven : Nat
  pbun : Word
  pend : List Cause
  fly : List Fly
  vres : List Vres
  /-- Increments that land in phase 1 of the next ck (R182). -/
  inc : List (SemR × Nat)
  /-- The pc that a control instruction of the present bundle has chosen (R86). -/
  npc : Option Word
  /-- Window rows of engine commands that no header wait has ordered yet (R115). -/
  und : List Und
  /-- Window rows and granary rows (true) that the present bundle writes among them (R30, R115, R223). -/
  spoils : List (Bool × Nat)
  /-- Signal tokens that have landed and no header wait has met yet: semaphore, queue, SEQ (R115). -/
  sigs : List (SemR × Nat × Nat)
  /-- Bytes that its bundles have stored to (R297). -/
  recent : List Recent
  /-- Semaphores with an increment whose release reaches beyond the core; bit 0: a transfer command of the seat has ended with such a
  release, which the later tokens of its queue carry too (R287, R296). -/
  wide : Bits16
  trig : Bool
  func : FuncId
  asn : Bits12
  seqH0 : Bits16
  seqH1 : Bits16
  seqT : Bits16
  /-- CYC of the start of step 0 of the seat's previous command in each queue, while pacing counts (R183). -/
  paceH0 : Option Nat
  paceH1 : Option Nat
  paceT : Option Nat
  ecq : List Egr
  elost : Bool
  ecnt : Nat
  estamp : Word
  /-- Lost-event bit of the overflow event queue (R214). -/
  olost : Bool
  /-- CYC of the first cycle in which a queue instruction is held (R240). -/
  hold : Option Nat
  /-- Grant of the queue unit for the queue instruction held (R239). -/
  grant : Bool
  started : Bool
  /-- Number of the strand's earlier COLLs with a key (R424). -/
  collN : Tab Nat
  /-- Rectangle of the instance, strand index and instance number (R12, R264). -/
  x0 : Nat
  y0 : Nat
  rw : Nat
  rh : Nat
  sidx : Nat
  deriving DecidableEq, Repr

/-- The seat after reset and at strand start (R17, R26, R32): registers zero, semaphores zero, tags clear. -/
def SeatSt.reset : SeatSt :=
  { st := .empty, billet := 0, pc := 0, sr := [], sTag := 0, ar := [], aTag := 0, mr := [], pr := [], pq := [], w := [],
    ovf := 0, fcr := 0, tvec := 0, tcause := 0, tval := 0, epc := 0, tlc := 0, tls := 0, tle := 0, trot := 0, tpsn := 0,
    lc := 0, ls := 0, le := 0, vrb := 0, prb := 0, stepNo := 0, rte := 0, plv := false, xb := [], mlim := 0x33, req := 0,
    gap := 0, rcount := 0, pcount := 0, pseven := 0, pbun := 0, pend := [], fly := [], vres := [], inc := [], npc := none, und := [], spoils := [], sigs := [], recent := [], wide := 0,
    trig := false, func := 0, asn := 0, seqH0 := 0, seqH1 := 0, seqT := 0, paceH0 := none, paceH1 := none, paceT := none,
    ecq := [], elost := false, ecnt := 0, estamp := 0, olost := false, hold := none, grant := false, started := false,
    collN := [], x0 := 0, y0 := 0, rw := 1, rh := 1, sidx := 0 }

/-- The states of a queue entry (R179, R180). -/
inductive EntState where
  | free | queued | head | selected | running | faulted
  deriving DecidableEq, Repr

/-- A tile step that has started: its first ck, the ck it takes to its end, the ck after which the next step's feed may start
(R202, R203, R209, R210), and what its end adds to the entry and to the counters of its halves: whether blocks of A, of B or of the
reference were read as zero, how many, and the blocks not changed (R205, R208, R216). -/
structure Run where
  at0 : Nat
  ivl : Nat
  feed : Nat
  pa : Bool
  pb : Bool
  pr : Bool
  cnt : Nat
  skip : Nat
  deriving DecidableEq, Repr

/-- No step. -/
def Run.zero : Run := ⟨0, 0, 0, false, false, false, 0, 0⟩

/-- A row that a running step of the matrix engine writes when its ck comes (R203, R209, R210, R212): the unit, seat and step, the
physical row of the register file or the row of the granary, the bits written with the sectors written whole and their tags, and
the overflow events that enter with it. -/
structure EWr where
  at0 : Nat
  n : Nat
  seat : SeatId
  step : Nat
  gran : Bool
  row : Nat
  mask : RowBits
  data : RowBits
  full : BitVec 32
  tags : BitVec 32
  ev : List Word
  deriving DecidableEq, Repr

/-- An entry of an engine queue (R179 to R186): what the eight words of its view show, the gates it has opened, its
enqueue CYC and, once read, its parameter block. -/
structure Entry where
  st : EntState
  seat : SeatId
  opc : Bits8
  q : Bits2
  wt : SemR
  sg : SemR
  slk : Bits8
  seq : Bits16
  stepc : BitVec 32
  nstep : BitVec 32
  pba : BitVec 57
  fcr : Word
  stamped : Bool
  stamp : Word
  bpois : Word
  fcode : Bits16
  fval : Word
  /-- CYC of the enqueue, kept across resumes (R181), and of the enqueue or last resume (R184). -/
  enq : Nat
  since : Nat
  pace : Bool
  token : Bool
  stampOk : Bool
  /-- CYC at which the last of the gates that stand open opened (R260). -/
  gateAt : Nat
  /-- The units that have chosen the entry (R194). -/
  ch0 : Bool
  ch1 : Bool
  /-- Leave: CYC of the request, and whether it is held (R186). -/
  lreq : Option Nat
  leave : Bool
  /-- The parameter block once read, and CYC at which the read began (R200). -/
  blk : Option (List Byte)
  rdAt : Nat
  /-- Operands of an MZERO, which has no block (R212). -/
  zrow : Nat
  zrows : Nat
  zlh : Bool
  /-- The command has been resumed by EQFLUSH.r or RESUME: its start does not restart pacing (R183). -/
  again : Bool
  /-- CYC at the start of step 0 (R206). -/
  start : Option Nat
  /-- The running step, whose number is STEPC, has started and has not ended; else `run` is that of the step before it (R180). -/
  busy : Bool
  run : Run
  /-- The steps after the running one that have started while it drains, the next one first (R203, R209). -/
  ahead : List Run
  /-- Number of the step whose checks have passed (R201, R232). -/
  chk : Option Nat
  /-- A check of the step after the running one failed: the entry faults when the running one has ended
  (R203). -/
  fail : Option (Bits16 × Word)
  /-- A late write failure waits for the running step: the lowest step with a failed write, its code and value (R13). -/
  lwf : Option (Nat × Bits16 × Word)
  /-- Source bytes of the running step, each with its poison, and where part of them is still to come from another device or the
  host, the offsets and lengths of what another device gives (R213, R235). -/
  buf : List (Byte × Bool)
  far : Option (List (Nat × Nat))
  /-- Steps whose writes another device has not performed yet (R233, R234). -/
  wout : List Nat
  /-- Slots that leave DRAINING once those writes are performed (R234). -/
  tail : List Nat
  /-- Steps from the first number up to the second are repeated after a late write failure (R13). -/
  redo : Nat × Nat
  /-- Status of each destination of a TMCAST by strand index (R237). -/
  dst : Tab Bits8
  /-- Slots pinned by the running step (R221). -/
  pins : List Nat
  /-- Held EQFLUSH.d, checkpoint or kill waits for the running step (R180, R190). -/
  drop : Bool
  /-- WHY of wstate as it last stood, and the CYC at which it began (R185). -/
  whyNo : Nat
  whyAt : Nat
  /-- Consecutive late verdicts on the present engine cycle, and the CYC of the last (R251, R252). -/
  late : Nat
  lateAt : Nat
  /-- An EQFLUSH.d of the seat is held on the entry (R190). -/
  flush : Bool
  /-- Slots that the command has put into FILLING or DRAINING (R220). -/
  held : List Nat
  /-- Window rows for which a result of fixed latency was in flight when the command was enqueued (R399). -/
  fog : List Nat
  /-- The parameter block has been asked for at another device or the host (R200, R297). -/
  asked : Bool
  /-- Memory that the running step is to write, as it was translated at its start (R232, R374). -/
  segs : List Seg
  /-- Addresses of the records that another device has still to perform before the command is freed (R206, R233). -/
  recs : List Nat
  deriving DecidableEq, Repr

/-- The states of a granary slot (R218, R220). -/
inductive SlotState where
  | empty | filling | ready | draining
  deriving DecidableEq, Repr

/-- An entry of the tile table (R218): the seat it is granted to, its state, and the pins of H0, H1, the transfer engine
and an egress copy (R221). -/
structure Tile where
  owner : Option SeatId
  st : SlotState
  cls : Bits2
  err : Bool
  armed : Bool
  holder : Bits2
  pin0 : Bool
  pin1 : Bool
  pinT : Bool
  pinE : Bool
  tag : BitVec 43
  /-- The slot becomes EMPTY when its pins drop (R220, FREE with PIN other than 0). -/
  freeing : Bool
  /-- CYC at which its rows were last written in READY: no step pins it in that ck any more (R222). -/
  wrAt : Option Nat
  /-- CYC at which an egress copy has taken the slot's bytes and drops its pin (R343). -/
  copyAt : Option Nat
  deriving DecidableEq, Repr

/-- A slot granted to no seat (R218). -/
def Tile.none : Tile :=
  { owner := Option.none, st := .empty, cls := 0, err := false, armed := false, holder := 0, pin0 := false, pin1 := false,
    pinT := false, pinE := false, tag := 0, freeing := false, wrAt := Option.none, copyAt := Option.none }

/-- Sixty-four bytes of a weight slice with their poison bit (R196). -/
structure Gran where
  d : BitVec 512
  p : Bool
  deriving DecidableEq, Repr

/-- The counters of a half (R216). -/
structure HalfCnt where
  mstep : Word
  mrow : Word
  mskip : Word
  mpois : Word
  mflt : BitVec 32
  mbusy : Word
  deriving DecidableEq, Repr

/-- A translation held by a TLB (R370, R279): the page of a function's address space, its size code, and its entry. -/
structure TlbEnt where
  func : FuncId
  asn : Bits12
  page : Word
  size : Nat
  pte : Word
  deriving DecidableEq, Repr

/-- The margin states of a core (R254). -/
inductive MState where
  | normal | watch | quarantine | out
  deriving DecidableEq, Repr

/-- A line of the L1D: its way, whether it is dirty, whether it belongs to a UO page, and the slot class and key number of its page (R175,
R287, R364). Its set is the low 8 bits of its number. -/
structure L1Line where
  way : Nat
  dirty : Bool
  uo : Bool
  cls : Nat
  key : Nat
  deriving DecidableEq, Repr

/-- What a core waits for from another device or the host to issue a bundle: its seat and address; its bytes, where they lie there, and
the data of its load, each asked for and then answered (R59, R84, R102). -/
structure Fill where
  seat : SeatId
  pc : Word
  code : Option (Option FarAns)
  load : Option (Option FarAns)
  deriving DecidableEq, Repr

/-- A core (R165): its seats, its vector register file, its granary with the tile table, its engines and its margin
controller. -/
structure CoreSt where
  seat : Tab SeatSt
  /-- The seat-table control word: NXT, NV and the pre-emption requests (R166). -/
  ctl : Word
  /-- CYC from which the present request of each seat waits (R329). -/
  prq : Tab Nat
  /-- A switch point has been reached and is not yet acted on (R169). -/
  swp : Bool
  /-- Issue cycles still to pass of a trap entry or of a seat switch (R154, R169). -/
  busy : Nat
  /-- ck still to pass of a replay, which are not issue cycles (R245). -/
  stall : Nat
  /-- A miss freeze: the core issues from no seat until the data of a load is present (R59). -/
  freeze : Bool
  /-- A load without a token that another device or the host has to answer: its seat, the address of its bundle, and the answer
  once it is there (R59, R102). -/
  fill : Option Fill
  ic : Nat
  vrf : Tab Row
  gs : Word
  gran : Tab Row
  tiles : Tab Tile
  /-- Lines present in the L1D by line number (R175). -/
  l1 : Tab L1Line
  /-- Lines fetched into it so far, from which a replacement choice is told from another (R176, R401). -/
  l1n : Nat
  /-- Lines present in the instruction cache (R84). -/
  icl : List Nat
  /-- Correctable errors that the core has corrected: VRF, L1D data, seat table and queue entries, weight store, granary (R191,
  R196, R217). -/
  fixes : Tab Nat
  h0 : Tab Entry
  h1 : Tab Entry
  te : Tab Entry
  wel : Tab Gran
  wsc : Tab Gran
  wgrant : Tab Word
  /-- CYC at which each unit last ended or gave up a command, 0 H0, 1 H1, 2 the transfer engine (R260). -/
  unitAt : Tab Nat
  /-- CYC at which a wait token was last tested in each queue's turn of the token phase (R182). -/
  tokAt : Tab Nat
  /-- Rows that running steps of the matrix engine are to write (R203). -/
  ewr : List EWr
  ovq : List Word
  hc0 : HalfCnt
  hc1 : HalfCnt
  mrc : Tab Word
  mwin : Word
  wcnt : Nat
  overs : Nat
  /-- The steward has withdrawn the core (R336, log 94). -/
  withdrawn : Bool
  auto : Nat
  wnum : Nat
  floor : Bits3
  col : Bits3
  raf : Bits10
  /-- minj: unit, remaining, done, dropped, and the CYC of the next injection with the gap (R249, R258). -/
  injUnit : Bits2
  injLeft : Nat
  injDone : Nat
  injDrop : Nat
  injAt : Nat
  injGap : Nat
  mlast : Word
  mstate : MState
  whist : List Nat
  /-- An F_REPLAY occurred in the present window (R252). -/
  wrep : Bool
  /-- Persistence counts of H0, H1 and the transfer engine, and how much of them was counted at level 7 (R252). -/
  pers : Tab Nat
  pers7 : Tab Nat
  /-- The verdict on the next cycle in which a bundle issues will be late, and whether it is injected (R244, log 8). -/
  late : Option Bool
  stopped : Bool
  /-- The cut register: step number armed, and CHELD (R330). -/
  cut : Word
  tlb : List TlbEnt
  /-- Background ISSUING ck of the present share window (R323). -/
  bgtime : Nat
  deriving DecidableEq, Repr

/-- Counters of a half after reset (R216). -/
def HalfCnt.zero : HalfCnt := ⟨0, 0, 0, 0, 0, 0⟩

/-- mwin at reset: WL 20, WBUD 256, QN 4, MCAP 7 (R249). -/
def mwinReset : Word := 0x700000000 ||| 0x4000000 ||| 0x10000 ||| 20

/-- A core after reset. -/
def CoreSt.reset : CoreSt :=
  { seat := [], ctl := 0, prq := [], swp := false, busy := 0, stall := 0, freeze := false, fill := none, ic := 0, vrf := [], gs := 0, gran := [],
    tiles := [], l1 := [], l1n := 0, icl := [], fixes := [], h0 := [], h1 := [], te := [], wel := [], wsc := [], wgrant := [], unitAt := [], tokAt := [], ewr := [], ovq := [],
    hc0 := .zero, hc1 := .zero, mrc := [], mwin := mwinReset, wcnt := 0, overs := 0, withdrawn := false, auto := 0, wnum := 0, floor := 0,
    col := 0, raf := 0, injUnit := 0, injLeft := 0, injDone := 0, injDrop := 0, injAt := 0, injGap := 0,
    mlast := 0, mstate := .normal, whist := [], wrep := false, pers := [], pers7 := [], late := none, stopped := false, cut := 0,
    tlb := [], bgtime := 0 }

/-- A barrier record: its key (instance, BID, corner), P, E, A and FAILED (R268); and the ck of its last arrival with the strand index of
that, for the arrivals of one ck are applied in ascending strand index (R270, log 88). -/
structure BarRec where
  inst : Nat
  bid : Bits4
  cx : Nat
  cy : Nat
  p : Bits16
  e : Nat
  a : Nat
  failed : Bool
  at0 : Nat
  lastIx : Nat
  deriving DecidableEq, Repr

/-- An invalidation in progress (R279): the request it answers. -/
structure InvalReq where
  va : Word
  size : Nat
  all : Bool
  allAsn : Bool
  func : FuncId
  asn : Bits12
  core : Bits16
  seq : Imm32
  deriving DecidableEq, Repr

/-- A cluster (R266 to R280): its barrier unit, second-level translation cache and steward. -/
structure ClusterSt where
  bars : List BarRec
  bmsg : List BarMsg
  bwait : List BarMsg
  tlb2 : List TlbEnt
  /-- Messages that wait for room in the outbox, and those dropped since the last one pushed (R267). -/
  omsg : List (List Byte)
  odrop : Nat
  sfail : Bool
  inval : Option InvalReq
  deriving DecidableEq, Repr

/-- A record of a memory queue's ring: its first cell index, its cells, payload length, whether it is a pad and whether it
is published (R239, R241); and the offsets and lengths of its bytes that could not be written, which count as poisoned (R241). -/
structure QRec where
  idx : Nat
  cells : Nat
  len : Nat
  pad : Bool
  pub : Bool
  lost : List (Nat × Nat)
  /-- Function, address space and HBM slot class of the strand that pushed it (R266, R267, R364). -/
  src : Option (FuncId × Bits12 × Nat)
  /-- Part of its payload is still to come from another device or the host (R240, R241). -/
  wait : Bool
  /-- A pop is copying it and has not ended (R241). -/
  taken : Bool
  deriving DecidableEq, Repr

/-- A memory queue (R238): owner, ring, permitted functions, mirror, head and tail, dropped records. -/
structure QueueSt where
  func : FuncId
  base : Word
  lrsz : Nat
  push : BitVec 32
  pop : BitVec 32
  /-- Pairs of another device and its function that may push (R421). -/
  pushDev : List (Bits9 × FuncId)
  mirror : Option Word
  head : BitVec 24
  tail : BitVec 24
  recs : List QRec
  drops : Nat
  deriving DecidableEq, Repr

/-- A request that the queue unit holds in the order received (R241): the core and seat of a held bundle, or a remote
payload that lies in its staging slot (R422). -/
structure QReq where
  core : CoreId
  seat : SeatId
  qnum : Bits12
  push : Bool
  cells : Nat
  remote : Bool
  dev : Bits9
  ack : Bool
  origin : Bits16
  payload : List Byte
  /-- Numbers of the poisoned granules of the payload (R161), and the class in which it came (R411). -/
  pois : List Nat
  cls : Nat
  deriving DecidableEq, Repr

/-- A message that is landing in slots: its payload, SEQ and mode, and the CYC at which its last byte reaches the MAC (R339). -/
structure Landing where
  payload : List Byte
  seq : Bits16
  uud : Bool
  arr : Nat
  deriving DecidableEq, Repr

/-- An entry of the steering table (R338, R339): words 0 and 1, ARR of the last landed message, whether no message has been
accepted since word 0 was written, the message landing, and the seat and semaphore of the NPOST that armed it. -/
structure SteerSt where
  w0 : Word
  w1 : Word
  arr : Word
  fresh : Bool
  land : Option Landing
  post : Option (CoreId × SeatId × SemR)
  deriving DecidableEq, Repr

/-- An egress binding (R342, R381). -/
structure BindSt where
  func : FuncId
  session : Bits16
  port : Bool
  mode : Bits8
  ip : Bits128
  job : Imm32
  pid : Imm32
  deriving DecidableEq, Repr

/-- An admitted task (R308, R311, R324): its descriptor's address and copy, its function and address space, the entries of its
remaining-time tables by grade, the release of its previous instance, and whether it is still admitted or retires when its
instance completes. -/
structure TaskSt where
  descVa : Word
  desc : List Byte
  func : FuncId
  asn : Bits12
  rtt : Tab (List Imm32)
  lastRel : Option Nat
  oneShot : Bool
  /-- Relative deadline in ns as admission took it (R324). -/
  rel : Nat
  deriving DecidableEq, Repr

/-- The states of an instance (R317). -/
inductive InstState where
  | waiting | ready | suspended | ended
  deriving DecidableEq, Repr

/-- What a checkpoint holds of one strand (R32, R168, R170, R235): the seat, its window rows, its slots, its queue entries
and its overflow events. -/
structure Saved where
  seat : SeatSt
  rows : Tab Row
  tiles : Tab Tile
  trows : Tab Row
  h0 : List Entry
  h1 : List Entry
  te : List Entry
  ovq : List Word
  bwait : List BarMsg
  deriving DecidableEq, Repr

/-- A consistent cut in progress (R331): its start, the step each strand is held at, the greatest and least reports, and
whether it serves the removal of a core. -/
structure CutSt where
  t0 : Nat
  held : Tab Nat
  top : Option Nat
  least : Option Nat
  removal : Bool
  deriving DecidableEq, Repr

/-- A task instance (R308 to R321). -/
structure InstSt where
  task : Nat
  /-- The task as it was admitted (R311). -/
  tsk : TaskSt
  func : FuncId
  asn : Bits12
  asker : Asker
  st : InstState
  grade : Nat
  graded : Bool
  release : Nat
  arrival : Bool
  deadline : Nat
  dlrel : Bool
  dep0 : Option (Nat × Bool)
  dep1 : Option (Nat × Bool)
  gmin : Nat
  last : Bool
  param : Word
  crec : Word
  xb : Tab Word
  x0 : Nat
  y0 : Nat
  /-- Core and seat of each strand that is bound, by strand index. -/
  seats : Tab (CoreId × SeatId)
  trig : List Nat
  ended : List Nat
  killed : List Nat
  resumed : Bool
  nckpt : Nat
  pred : Bool
  forced : Bool
  started : Option Nat
  nest : Option Bits16
  quar : Option Word
  shed : Bool
  top : Nat
  fin : Nat
  saved : Tab Saved
  cut : Option CutSt
  cutReq : Bool
  /-- Barrier records saved with the checkpoint (R268). -/
  bars : List BarRec
  /-- The completion record has been written, at that CYC, with its CODE (R308, R321). -/
  done : Option Nat
  code : Bits16
  /-- The action state lies in the mirror buffer, and its header has been written (R358). -/
  mir : Bool
  committed : Bool
  /-- Code and address of the failure of its commit, which is told after its completion record (R358). -/
  mfail : Option (Bits16 × Nat)
  /-- The newcomer whose resources the present requests are to free (R326, R328). -/
  client : Option Nat
  /-- The present requests serve the removal of a core (R336). -/
  removal : Bool
  /-- Instances that must complete before the first release (R325). -/
  wait : List Nat
  /-- CYC of the request for a cut (R308, R331). -/
  prqAt : Option Nat
  deriving DecidableEq, Repr

/-- A compute die: dispatcher, queue unit, Ethernet endpoint, voltage columns, L2 masks and HBM slots (R308 to R351,
R238, R276, R363, R359). -/
structure DieSt where
  dcfg : Word
  tasks : Tab TaskSt
  insts : Tab InstSt
  lcount : Nat
  lreq : List LaunchReq
  queues : Tab QueueSt
  qreq : List QReq
  /-- Remote payloads dropped that named a queue not configured (R422). -/
  qdrop : Nat
  steer : Tab SteerSt
  binds : Tab BindSt
  down0 : Bool
  down1 : Bool
  cwm : Tab Imm32
  cwmNew : Option (Tab Imm32)
  /-- LB of each column as it stands, and as the steward set it (R186, R351). -/
  lb : Tab Nat
  lbCfg : Tab Nat
  vtrim : Tab Nat
  /-- The column's supply is held at level 7 until that CYC (R349). -/
  droop : Tab Nat
  /-- Droop events logged: column and CYC (R349). -/
  dlog : List (Nat × Nat)
  smap : Billet
  smapNew : Option Billet
  /-- Lines of 128 bytes whose accesses wait, oldest first, by 4 × pseudo-channel + class (R364). -/
  hbmq : Tab (List Nat)
  /-- Slot number of each pseudo-channel within its frame (R363). -/
  slot : Tab Nat
  /-- Errors that the ECC of a pseudo-channel has corrected (R365). -/
  ecc : Tab Nat
  /-- Consecutive misses of the die's heartbeat; whether one has arrived directly, and through I/O die 0, since the previous
  tick; CYC of the last sent and of the last tick; and whether the silent package link has been reported (R359). -/
  hbmiss : Nat
  hbdir : Bool
  hbio : Bool
  hbsent : Nat
  hbtick : Nat
  hblnk : Bool
  fenced : Bool
  /-- MIRBASE: where the mirror areas of the sessions begin in the die's own HBM (R357, log 89). -/
  mirbase : Nat
  /-- Seats of drained victims, each kept for the newcomer of a number (R328). -/
  kept : List (CoreId × SeatId × Nat)
  /-- Cores that a resize under way drains (R278, R336). -/
  draining : List CoreId
  deriving DecidableEq, Repr

/-- The slot map at reset: each octet runs A R B R H R B R (R363, R364). -/
def smapReset : Billet :=
  let w : BitVec 16 := 0x6764
  (w ++ w ++ w ++ w ++ w ++ w ++ w ++ w ++ w ++ w ++ w ++ w ++ w ++ w ++ w ++ w : BitVec 256)
    ++ (w ++ w ++ w ++ w ++ w ++ w ++ w ++ w ++ w ++ w ++ w ++ w ++ w ++ w ++ w ++ w : BitVec 256)

/-- Dispatcher configuration at reset: BU 717, BN 973, SBG 51, SWL 20, KWL 16 (R309). -/
def dcfgReset : Word :=
  (0#24 ++ 16#5 ++ 20#5 ++ 51#10 ++ 973#10 ++ 717#10 : BitVec 64)

/-- A die after reset. -/
def DieSt.reset : DieSt :=
  { dcfg := dcfgReset, tasks := [], insts := [], lcount := 0, lreq := [], queues := [], qreq := [], qdrop := 0, steer := [],
    binds := [], down0 := false, down1 := false, cwm := [(15, 0xFFFF)], cwmNew := none, lb := [], lbCfg := [],
    vtrim := [], droop := [], dlog := [], smap := smapReset, smapNew := none, hbmq := [], slot := [], ecc := [], hbmiss := 0, hbdir := false,
    hbio := false, hbsent := 0, hbtick := 0, hblnk := false, fenced := false, mirbase := 2 ^ 37 - 2 ^ 34,
    kept := [], draining := [] }

/-- A cluster after reset. -/
def ClusterSt.reset : ClusterSt :=
  { bars := [], bmsg := [], bwait := [], tlb2 := [], omsg := [], odrop := 0, sfail := false, inval := none }

/-- A packet of a porter queue that has started (R384): its cells, its place, and what it waits for. -/
structure Pkt where
  id : Nat
  cells : List Byte
  done : Bool
  status : Nat
  result : Word
  /-- CYC of its start, the instance it launched, and whether it belongs to an iteration of a REARM. -/
  at0 : Nat
  inst : Option Nat
  graph : Bool
  deriving DecidableEq, Repr

/-- A REARM in progress (R386): the packet, iterations run, and packets of the present iteration still to start. -/
structure RearmSt where
  id : Nat
  iters : Nat
  left : List Byte
  deriving DecidableEq, Repr

/-- A porter queue (R382): its record, the packets started, and a graph that runs. -/
structure PorterQ where
  base : Word
  lsz : Nat
  en : Bool
  priv : Bool
  err : Bool
  tail : Imm32
  head : Imm32
  pkts : List Pkt
  nextId : Nat
  rearm : Option RearmSt
  /-- Cells of a chosen arm still to start (R386). -/
  arm : List Byte
  deriving DecidableEq, Repr

/-- A porter queue as ALLOC gives it (R382). -/
def PorterQ.reset : PorterQ :=
  { base := 0, lsz := 0, en := false, priv := false, err := false, tail := 0, head := 0, pkts := [], nextId := 0,
    rearm := none, arm := [] }

/-- An MSI-X vector (R388, R389). -/
structure VecSt where
  ccnt : Bits8
  ctime : Bits16
  pend : Bits8
  /-- CYC at which PEND left 0. -/
  since : Nat
  masked : Bool
  /-- An INTR with FLUSH has been counted and not sent yet (R389). -/
  flush : Bool
  /-- Address and data of its message, as its row of the MSI-X table holds them (R378). -/
  addr : Word
  data : Imm32
  deriving DecidableEq, Repr

/-- A vector as ALLOC gives it: CCNT 1, and masked, as PCIe has it at reset (R388, log 21). -/
def VecSt.reset : VecSt := { ccnt := 1, ctime := 0, pend := 0, since := 0, masked := true, flush := false, addr := 0, data := 0 }

/-- A resource held by a function (R379). -/
structure Grant where
  kind : ResKind
  lo : Word
  hi : Word
  deriving DecidableEq, Repr

/-- The states of a TDISP interface (R392). -/
inductive Tdisp where
  | unlocked | locked | run | error
  deriving DecidableEq, Repr

/-- A PCIe function (R377 to R393). -/
structure FuncSt where
  roots : Tab Word
  tdisp : Tdisp
  pqs : Tab PorterQ
  vec : Tab VecSt
  mreq : List Byte
  mresp : List Byte
  hmdb : Bool
  grants : List Grant
  /-- AtomicOp Requester Enable of Device Control 2 (R390). -/
  aore : Bool
  /-- A secured SPDM session is open on the function's DOE mailbox (R393). -/
  doe : Bool
  /-- Attempts logged against a locked interface (R392). -/
  log : List Word
  /-- Size in bytes of BAR2, as function 0 set it (R378). -/
  bar2 : Word
  deriving DecidableEq, Repr

/-- A function after reset. -/
def FuncSt.reset : FuncSt :=
  { roots := [], tdisp := .unlocked, pqs := [], vec := [], mreq := [], mresp := [], hmdb := false, grants := [],
    aore := false, doe := false, log := [], bar2 := 0 }

/-- An entry of the key table: its status word and material (R373, R374). -/
structure KeySt where
  word : Word
  mat : Material
  deriving DecidableEq, Repr

/-- A session: its record for mirroring (R356), its grade and how many windows it has held it (R334), and the offered
priority of its tasks is read from the tasks themselves. -/
structure SessSt where
  prim : Bits2
  stateva : Word
  statelen : Imm32
  shadowva : Word
  shadow : Bits16
  func : FuncId
  grade : Nat
  held : Nat
  deriving DecidableEq, Repr

/-- A fabric window (R366). -/
structure Fwin where
  dev : Bits9
  base : Word
  en : Bool
  func : FuncId
  deriving DecidableEq, Repr

/-- A row of the import table: a source device, a 1 GiB range, and the local function it belongs to (R408). -/
structure Import where
  dev : Bits9
  gib : Nat
  func : FuncId
  deriving DecidableEq, Repr

/-- A resident slot: holder, tasks of its image, descriptors, and where its weights lie (R387). -/
structure ResSt where
  func : FuncId
  ntask : Nat
  dtab : Word
  dmask : Bits8
  cmask : Word
  /-- Stripes of H0 and H1 that hold its weights, as WE0, WS0, WE1 and WS1 of a weight grant (R195). -/
  stripes : Word
  deriving DecidableEq, Repr

/-- A refused request in a target's log: its address; the core as R266 has it, with the function in bits 23:16 and the agent, as UNIT of
R371 numbers it, in bits 31:24; its kind and CYC (R375). -/
structure LogEnt where
  addr : Word
  who : Word
  kind : AccKind
  cyc : Nat
  deriving DecidableEq, Repr

/-- A reassembly context of a class (R416). -/
structure Ctx where
  opened : Bool
  flits : List (BitVec 512 × Bool)
  /-- CYC of its last flit. -/
  timer : Nat
  deriving DecidableEq, Repr

/-- A packet that waits or is open at a sending end (R412): its class, channel, flits still to send and flits sent. -/
structure TxPkt where
  cls : Bits2
  chQ : Bool
  flits : List (BitVec 512 × Bool)
  sent : Nat
  deriving DecidableEq, Repr

/-- One direction of one lane of a link (R409 to R418). -/
structure LinkSt where
  up : Bool
  partner : Bits9
  susp : Word
  /-- Slots since the last training (R414). -/
  n : Nat
  lastK0 : Option Nat
  tx : List TxPkt
  /-- Classes whose last packet went in channel Q (R411). -/
  chn : Tab Bool
  /-- Credits in flits by class and channel (R412). -/
  cred : Tab Nat
  rx : Tab Ctx
  /-- Slots in a row for which a waiting packet of each class lacked credit (R417). -/
  starve : Tab Nat
  retry : Nat
  deriving DecidableEq, Repr

/-- Suspension register at reset: LP0 3, LP2 4, LP3 5 (R413). -/
def LinkSt.reset : LinkSt :=
  { up := false, partner := 0, susp := 0x543, n := 0, lastK0 := none, tx := [], chn := [], cred := [], rx := [], starve := [],
    retry := 0 }

/-- A collective by its key and count (R424, R426): who has joined, and the reason if it was abandoned. -/
structure CollSt where
  func : FuncId
  key : Word
  m : Nat
  joined : List Joiner
  dead : Option Nat
  /-- Every destination of this device's participants has been written; the ranks whose writes another device has still to perform
  (R301, R426). -/
  done : Bool
  acks : List Nat
  deriving DecidableEq, Repr

/-- The package (R4, R345, R373, R366, R407 to R428, R395 to R397). -/
structure PkgSt where
  tbbase : Word
  tbcyc : Word
  tbrate : Word
  tbstat : Word
  keys : Tab KeySt
  sess : Tab SessSt
  fwin : Tab Fwin
  imports : Tab Import
  devnum : Bits9
  /-- ETMO in µs (R419). -/
  etmo : Nat
  res : Tab ResSt
  mbox : Tab Word
  tlog : Tab (List LogEnt)
  hslog : List (Bits16 × Word)
  links : Tab LinkSt
  /-- Credits taken toward each target device (R421). -/
  cred : Tab Nat
  colls : List CollSt
  /-- Stopped by supply loss (R397), or in the safe state (R396). -/
  supply : Bool
  safe : Bool
  /-- CYC of the last comparison of package power with the limit (R351). -/
  pwrAt : Nat
  /-- CYC at which the hop of the fabric clock in progress began, and the droops (die and column) latched meanwhile (R350). -/
  hop : Option Nat
  hopDroop : List (Nat × Nat)
  /-- The lowest configuration version that the configuration flash allows (R395, log 95). -/
  minver : Nat
  /-- Digests of measurement blocks 1 to 5, and the identity and alias keys that Imyuno derived at the last boot (R393, R394). -/
  meas : List Digest
  ident : Digest
  akey : Digest
  deriving DecidableEq, Repr

/-- The package after reset: the reset values of R345, R396, R419. -/
def PkgSt.reset : PkgSt :=
  { tbbase := 0, tbcyc := 0, tbrate := 0x0000_0140_0000_0000, tbstat := 0, keys := [], sess := [], fwin := [],
    imports := [], devnum := 0, etmo := 100, res := [], mbox := [], tlog := [], hslog := [], links := [], cred := [],
    colls := [], supply := false, safe := false, pwrAt := 0,
    hop := none, hopDroop := [], minver := 0, meas := [], ident := 0, akey := 0 }

/-- How the last attempt to issue ended (log 6): no seat issued, the bundle was held, it issued, it issued and has itself
set the pc, or it took the cause of the given rank and syllable. -/
inductive Last where
  | idle | held | issued | moved
  | trapped (rank : Nat) (index : Nat)
  deriving DecidableEq, Repr

/-- A bundle whose front tests have passed (R431): its address, header wait and syllables. -/
structure Latch where
  pc : Word
  ws : SemR
  wk : Bool
  s : Instr
  a : Instr
  v : Instr
  x : Instr
  deriving DecidableEq, Repr

/-- A line of an L2 slice: its way, whether it is dirty, and its key number, 1,024 for a table that a walk reads (R273, R277, R373). -/
structure L2Line where
  way : Nat
  dirty : Bool
  key : Nat
  deriving DecidableEq, Repr

/-- Counters of an L2 slice for a class: fills, evictions and writebacks (R277). -/
structure L2Cnt where
  fills : Nat
  evs : Nat
  wbs : Nat
  deriving DecidableEq, Repr

/-- The L2 slices of the package (R273): their lines by line number, their counters by 16 × slice + class, and the accesses to HBM
that have not entered the queues of their pseudo-channels yet, each a line with its slot class: fills, writebacks under the class that
they are charged to, and accesses that no slice caches (R274, R277, R364). -/
structure L2St where
  lines : Tab L2Line
  cnt : Tab L2Cnt
  reqs : List (Nat × Nat)
  /-- Slices with a set whose tags were lost, which the steward excludes at the next boot repair (R280). -/
  lost : List Nat
  deriving DecidableEq, Repr

/-- The whole machine. -/
structure State where
  cyc : Nat
  /-- Bytes of memory by physical address; an unlisted byte reads 0 (log 3). -/
  mem : Tab Byte
  /-- Poisoned 64-byte granules, rising (R365). -/
  pois : List Nat
  /-- Key number and generation under which a granule was last written, where not plaintext (R374). -/
  keyed : Tab Nat
  /-- Ranges of memory, first byte and length, that a unit has written with contents no rule states (R168, log 55). -/
  fog : List (Nat × Nat)
  l2 : L2St
  /-- What waits at the domain boundary for the verdict on its cycle, with the CYC at whose end it crosses (R248). -/
  held : List (Nat × Held)
  cores : Tab CoreSt
  clusters : Tab ClusterSt
  dies : Tab DieSt
  funcs : Tab FuncSt
  pkg : PkgSt
  out : List Out
  free : Nat
  /-- Events to come, each with the number of the step, by `free`, before which it does not happen (log 1). -/
  agenda : List (Nat × Instr)
  last : Last
  latch : Option Latch
  /-- The causes and holds of the bundle have been tested: its syllables take effect (R36). -/
  sure : Bool
  focus : CoreId
  deriving DecidableEq, Repr

/-- The machine right after reset: every table at its reset values, no strand in any seat, and nothing in memory. -/
def State.reset : State :=
  { cyc := 0, mem := [], pois := [], keyed := [], fog := [], l2 := ⟨[], [], [], []⟩, held := [], cores := [], clusters := [], dies := [], funcs := [], pkg := .reset,
    out := [], free := 0, agenda := [], last := .idle, latch := none, sure := false, focus := 0 }

end Sys2Proof.Machine
end

