-- ==== Sys2Proof/Machine/Base.lean ====
section
/-!
DEFINITION. Tables, numbers, the parts of the machine, the billet and the control word, and memory by physical address.
-/
namespace Sys2Proof.Machine

/-- What every meaning answers. -/
abbrev Result := Host.Outcome State Fault Refusal

/-! ### Tables -/

/-- The value under a number, or `d` where none is listed. -/
def Tab.val {α : Type} (t : Tab α) (d : α) (k : Nat) : α :=
  match t with
  | [] => d
  | (i, x) :: r => if i = k then x else Tab.val r d k

/-- The value under a number, if one is listed. -/
def Tab.find {α : Type} (t : Tab α) (k : Nat) : Option α :=
  match t with
  | [] => none
  | (i, x) :: r => if i = k then some x else Tab.find r k

/-- The table with a number's value replaced. -/
def Tab.put {α : Type} (t : Tab α) (k : Nat) (x : α) : Tab α :=
  match t with
  | [] => [(k, x)]
  | (i, y) :: r => if k < i then (k, x) :: (i, y) :: r else if k = i then (k, x) :: r else (i, y) :: Tab.put r k x

/-- The table without a number. -/
def Tab.del {α : Type} (t : Tab α) (k : Nat) : Tab α :=
  match t with
  | [] => []
  | (i, y) :: r => if i = k then Tab.del r k else (i, y) :: Tab.del r k

/-- The values of a table changed by a function. -/
def Tab.mapV {α : Type} (f : α → α) (t : Tab α) : Tab α := t.map fun p => (p.1, f p.2)

/-- A byte table with a byte written: writing 0, which an unlisted byte reads as, removes the entry. -/
def Tab.wr (t : Tab Byte) (a : Nat) (b : Byte) : Tab Byte := if b = 0 then t.del a else t.put a b

/-- Numbers of a table strictly rise. -/
def Tab.rising {α : Type} : Tab α → Bool
  | [] => true
  | [_] => true
  | (i, _) :: (j, y) :: r => decide (i < j) && Tab.rising ((j, y) :: r)

/-- The canonical form of memory: addresses strictly rising, and no entry equal to what an unlisted byte reads as. -/
def Memory.wf (m : Tab Byte) : Bool := Tab.rising m && m.all fun p => p.2 != 0

/-! ### Numbers and bytes -/

/-- Bits of a word, as a number. -/
def bits {n : Nat} (w : BitVec n) (hi lo : Nat) : Nat := (w.toNat >>> lo) % 2 ^ (hi + 1 - lo)

/-- A word with bits hi to lo replaced. -/
def setBits {n : Nat} (w : BitVec n) (hi lo v : Nat) : BitVec n :=
  let m := BitVec.ofNat n ((2 ^ (hi + 1 - lo) - 1) <<< lo)
  (w &&& ~~~ m) ||| (BitVec.ofNat n ((v % 2 ^ (hi + 1 - lo)) <<< lo))

/-- Little-endian value of bytes (R5). -/
def leNat : List Byte → Nat
  | [] => 0
  | b :: r => b.toNat + 256 * leNat r

/-- The n low bytes of a number, little-endian (R5). -/
def leBytes : Nat → Nat → List Byte
  | 0, _ => []
  | n + 1, v => BitVec.ofNat 8 v :: leBytes n (v / 256)

/-- Bytes lo to lo + n - 1 of a list as a little-endian number; bytes past its end read 0. -/
def field (b : List Byte) (lo n : Nat) : Nat := leNat ((b.drop lo).take n)

/-- A list of bytes with those from an offset replaced. -/
def setBytes (b : List Byte) (lo : Nat) (v : List Byte) : List Byte :=
  b.take lo ++ v ++ b.drop (lo + v.length)

/-- A power of two. -/
def isPow2 (n : Nat) : Bool := n != 0 && 2 ^ n.log2 == n

/-- The sum of a list. -/
def sum (l : List Nat) : Nat := l.foldl (· + ·) 0

/-! ### The parts of the machine -/

/-- A core of the machine. -/
def State.core (s : State) (c : CoreId) : CoreSt := s.cores.val .reset c.toNat
/-- The machine with a core replaced. -/
def State.setCore (s : State) (c : CoreId) (x : CoreSt) : State := { s with cores := s.cores.put c.toNat x }
/-- A seat of a core. -/
def CoreSt.seatAt (x : CoreSt) (k : SeatId) : SeatSt := x.seat.val .reset k.toNat
/-- The core with a seat replaced. -/
def CoreSt.setSeat (x : CoreSt) (k : SeatId) (q : SeatSt) : CoreSt := { x with seat := x.seat.put k.toNat q }
/-- A seat of the machine. -/
def State.seat (s : State) (c : CoreId) (k : SeatId) : SeatSt := (s.core c).seatAt k
/-- The machine with a seat replaced. -/
def State.setSeat (s : State) (c : CoreId) (k : SeatId) (q : SeatSt) : State := s.setCore c ((s.core c).setSeat k q)
/-- The machine with a core changed by a function. -/
def State.modCore (s : State) (c : CoreId) (f : CoreSt → CoreSt) : State := s.setCore c (f (s.core c))
/-- The machine with a seat changed by a function. -/
def State.modSeat (s : State) (c : CoreId) (k : SeatId) (f : SeatSt → SeatSt) : State := s.setSeat c k (f (s.seat c k))
/-- A die. -/
def State.die (s : State) (d : DieId) : DieSt := s.dies.val .reset d.toNat
/-- The machine with a die replaced. -/
def State.setDie (s : State) (d : DieId) (x : DieSt) : State := { s with dies := s.dies.put d.toNat x }
/-- The machine with a die changed by a function. -/
def State.modDie (s : State) (d : DieId) (f : DieSt → DieSt) : State := s.setDie d (f (s.die d))
/-- A cluster of a die (R3). -/
def State.cluster (s : State) (d : DieId) (k : Nat) : ClusterSt := s.clusters.val .reset (d.toNat * 8 + k)
/-- The machine with a cluster changed by a function. -/
def State.modCluster (s : State) (d : DieId) (k : Nat) (f : ClusterSt → ClusterSt) : State :=
  { s with clusters := s.clusters.put (d.toNat * 8 + k) (f (s.cluster d k)) }
/-- A function. -/
def State.func (s : State) (f : FuncId) : FuncSt := s.funcs.val .reset f.toNat
/-- The machine with a function changed. -/
def State.modFunc (s : State) (f : FuncId) (g : FuncSt → FuncSt) : State :=
  { s with funcs := s.funcs.put f.toNat (g (s.func f)) }
/-- The machine with the package changed. -/
def State.modPkg (s : State) (g : PkgSt → PkgSt) : State := { s with pkg := g s.pkg }
/-- The machine with something sent outward. -/
def State.send (s : State) (o : Out) : State := { s with out := s.out ++ [o] }

/-- Die of a core (R3). -/
def coreDie (c : CoreId) : DieId := c.extractLsb' 6 2
/-- x of a core. -/
def coreX (c : CoreId) : Nat := bits c 2 0
/-- y of a core. -/
def coreY (c : CoreId) : Nat := bits c 5 3
/-- The core at (die, x, y). -/
def mkCore (d : DieId) (x y : Nat) : CoreId := BitVec.ofNat 8 (d.toNat * 64 + y * 8 + x)
/-- The cluster of (x, y) (R3). -/
def clusterOf (x y : Nat) : Nat := x / 4 + 2 * (y / 2)
/-- Bits 13:0 of the seat register of a core, with seat and level zero (R28, R266). -/
def coreField (c : CoreId) : Nat := coreX c * 16 + coreY c * 256 + (coreDie c).toNat * 4096
/-- The core that a CORE field names (R266). -/
def coreOfField (f : Nat) : CoreId := BitVec.ofNat 8 ((f >>> 12) % 4 * 64 + (f >>> 8) % 8 * 8 + (f >>> 4) % 8)

/-! ### The billet and the control word (R166) -/

/-- Fields of a billet. -/
def bV (b : Billet) : Bool := b.getLsbD 0
def bPlv (b : Billet) : Bool := b.getLsbD 1
def bClass (b : Billet) : Nat := bits b 3 2
def bGrade (b : Billet) : Nat := bits b 6 4
/-- WBASE, the first row of the window (R22). -/
def bWbase (b : Billet) : Nat := 64 * bits b 12 8
/-- W, the rows of the window (R22). -/
def bW (b : Billet) : Nat := 64 * bits b 21 16
def bQh0 (b : Billet) : Nat := bits b 28 24
def bQh1 (b : Billet) : Nat := bits b 36 32
def bQt (b : Billet) : Nat := bits b 45 40
def bL1w (b : Billet) : Nat := bits b 59 48
def bPaceH0 (b : Billet) : Nat := bits b 75 64
def bPaceH1 (b : Billet) : Nat := bits b 91 80
def bPaceT (b : Billet) : Nat := bits b 107 96
def bSession (b : Billet) : Nat := bits b 124 112
def bTvec (b : Billet) : Word := BitVec.ofNat 64 (bits b 191 128)
def bDesc (b : Billet) : Word := BitVec.ofNat 64 (bits b 255 192)
def bInst (b : Billet) : Nat := bits b 287 256
def bTask (b : Billet) : Nat := bits b 303 288
def bCkpt (b : Billet) : Word := BitVec.ofNat 64 (bits b 383 320)
def bMode (b : Billet) : Bool := b.getLsbD 384

/-- The seat designated, if NV (R166). -/
def ctlNxt (w : Word) : Option SeatId := if w.getLsbD 2 then some (w.extractLsb' 0 2) else none
/-- Pre-emption request of a seat (R166). -/
def ctlPrq (w : Word) (k : SeatId) : Nat := bits w (9 + 2 * k.toNat) (8 + 2 * k.toNat)
/-- The control word with a seat's pre-emption request replaced. -/
def ctlSetPrq (w : Word) (k : SeatId) (v : Nat) : Word := setBits w (9 + 2 * k.toNat) (8 + 2 * k.toNat) v

/-- The seats of a core. -/
def seatIds : List SeatId := [0, 1, 2, 3]

/-- The seat of a core that is ISSUING (R168). -/
def CoreSt.issuing (x : CoreSt) : Option SeatId := seatIds.find? fun k => (x.seatAt k).st == .issuing

/-- The dispatcher writes a seat's request (R166, R328): with no seat ISSUING that is a switch point (R169). A request waits from the
CYC at which it was made (R329). -/
def CoreSt.writePrq (x : CoreSt) (k : SeatId) (v now : Nat) : CoreSt :=
  { x with
    ctl := ctlSetPrq x.ctl k v, swp := x.swp || x.issuing.isNone
    prq := if v = 0 then x.prq.del k.toNat else if ctlPrq x.ctl k = v then x.prq else x.prq.put k.toNat now }

/-- A request acted on, or lapsed, is cleared by the core (R168, R328). -/
def CoreSt.clearPrq (x : CoreSt) (k : SeatId) : CoreSt :=
  { x with ctl := ctlSetPrq x.ctl k 0, prq := x.prq.del k.toNat }

/-- The core and seat whose bundle is attempted: the ISSUING seat of the focus core. -/
def State.cur (s : State) : Option (CoreId × SeatId) := (s.core s.focus).issuing.map fun k => (s.focus, k)

/-! ### Memory by physical address (R362, R365, R366) -/

/-- Granule of a physical address. -/
def granOf (pa : Nat) : Nat := pa / 64

/-- A byte lies in a range whose contents no rule states (log 55). -/
def inFog (l : List (Nat × Nat)) (pa : Nat) : Bool := l.any fun r => r.1 ≤ pa && pa < r.1 + r.2

/-- Ranges with a byte taken out. -/
def cutFog (l : List (Nat × Nat)) (pa : Nat) : List (Nat × Nat) :=
  l.flatMap fun r => if r.1 ≤ pa && pa < r.1 + r.2 then [(r.1, pa - r.1), (pa + 1, r.1 + r.2 - (pa + 1))] else [r]

/-- A byte of memory read under a key; a byte written under another key is returned without error and is some value
(R374). Key 0 is plaintext. -/
def State.rdB (s : State) (kid pa : Nat) : Byte :=
  if s.keyed.val 0 (granOf pa) = kid && !inFog s.fog pa then s.mem.val 0 pa else Config.freeByte pa s.free

/-- The bytes of a granule become what they read as under the key, before a partial write under it (R374). -/
def State.rekey (s : State) (kid g : Nat) : State :=
  if s.keyed.val 0 g = kid then s
  else { s with
    mem := (List.range 64).foldl (fun m i => m.wr (64 * g + i) (s.rdB kid (64 * g + i))) s.mem
    keyed := if kid = 0 then s.keyed.del g else s.keyed.put g kid }

/-- A byte written under a key. -/
def State.wrB (s : State) (kid pa : Nat) (b : Byte) : State :=
  let s := s.rekey kid (granOf pa)
  { s with mem := s.mem.wr pa b, fog := cutFog s.fog pa }

/-- n bytes from a physical address. -/
def State.rdBytes (s : State) (kid pa n : Nat) : List Byte := (List.range n).map fun i => s.rdB kid (pa + i)

/-- A range written with contents that no rule states (log 55). -/
def State.blur (s : State) (pa n : Nat) : State := { s with fog := (pa, n) :: s.fog }

/-- Bytes written from a physical address upward. -/
def State.wrBytes (s : State) (kid pa : Nat) : List Byte → State
  | [] => s
  | b :: r => (s.wrB kid pa b).wrBytes kid (pa + 1) r

/-- Granules that n bytes touch. -/
def granules (pa n : Nat) : List Nat :=
  if n = 0 then [] else (List.range ((pa + n - 1) / 64 - pa / 64 + 1)).map (· + pa / 64)

/-- A list of numbers with one put in its place, rising. -/
def insertNat (l : List Nat) (k : Nat) : List Nat :=
  match l with
  | [] => [k]
  | i :: r => if k < i then k :: i :: r else if k = i then i :: r else i :: insertNat r k

/-- A granule read as poisoned (R365). -/
def State.isPois (s : State) (g : Nat) : Bool := s.pois.contains g

/-- Poison of the granules that n clean bytes written from pa touch: a granule written whole is cleared, one written in part
keeps its poison (R365). -/
def State.clean (s : State) (pa n : Nat) : State :=
  { s with pois := s.pois.filter fun g => !(pa ≤ 64 * g && 64 * g + 64 ≤ pa + n) }

/-- Granules made poisoned (R161). -/
def State.poison (s : State) (gs : List Nat) : State := { s with pois := gs.foldl insertNat s.pois }

end Sys2Proof.Machine
end

