-- ==== Sys2Proof/Machine/Translate.lean ====
section
/-!
DEFINITION. Translation of virtual addresses (R366 to R370, R373), and the reads and writes of memory through it.
-/
namespace Sys2Proof.Machine

/-- A failed translation: the reason and code of R370, the level and the entry read there, the address, and the physical address that a
target refused (R375). Reason 10 stands for an answer that failed. -/
structure XFault where
  code : Bits16
  reason : Nat
  level : Nat
  va : Nat
  pte : Word
  kind : AccKind
  user : Bool
  pa : Nat
  deriving DecidableEq, Repr

/-- The failure is an error response. -/
def XFault.bus (f : XFault) : Bool := f.code == 0x0204

/-- The answer of a translation. -/
inductive Tr where
  | ok (x : Xl)
  | bad (f : XFault)
  deriving DecidableEq, Repr

/-- Whose access it is: function, address space, whether it is a user access, and the translations cached on its way
(R370, R279), the die it comes from, if it is a strand's, and the classes of its traffic. -/
structure Who where
  func : FuncId
  asn : Bits12
  user : Bool
  tlb : List TlbEnt
  die : Option DieId
  cl : Cls
  deriving DecidableEq, Repr

/-- Fields of a page-table entry (R368). -/
def pteV (p : Word) : Bool := p.getLsbD 0
def pteLeaf (p : Word) : Bool := p.getLsbD 1
def pteR (p : Word) : Bool := p.getLsbD 2
def pteW (p : Word) : Bool := p.getLsbD 3
def pteX (p : Word) : Bool := p.getLsbD 4
def pteU (p : Word) : Bool := p.getLsbD 5
def pteKind (p : Word) : Nat := bits p 7 6
def pteCache (p : Word) : Bool := p.getLsbD 8
def ptePor (p : Word) : Bool := p.getLsbD 9
def pteCont (p : Word) : Nat := bits p 11 10
def ptePa (p : Word) : Nat := 4096 * bits p 51 12
def pteKey (p : Word) : Nat := bits p 61 52
def pteCls (p : Word) : Nat := bits p 63 62

/-- Bytes of a page of a size code (R368). -/
def pageBytes : Nat → Nat
  | 0 => 2 ^ 12
  | 1 => 2 ^ 16
  | 2 => 2 ^ 21
  | 3 => 2 ^ 25
  | _ => 2 ^ 30

/-- Size code of a leaf at a level (R368). -/
def leafSize (level : Nat) (p : Word) : Nat := if level = 0 then pteCont p else 2 + pteCont p

/-- Index of a virtual address at a level (R367). -/
def vaIndex (va level : Nat) : Nat :=
  match level with
  | 3 => (va >>> 39) % 2 ^ 18
  | 2 => (va >>> 30) % 512
  | 1 => (va >>> 21) % 512
  | _ => (va >>> 12) % 512

/-- A physical address is a host address (R366). -/
def isHost (pa : Nat) : Bool := pa / 2 ^ 50 = 2 || 2 ^ 58 ≤ pa
/-- A physical address lies in a fabric window (R366). -/
def isFab (pa : Nat) : Bool := pa / 2 ^ 50 = 3
/-- A physical address lies in HBM (R362). -/
def isHbm (pa : Nat) : Bool := pa < 2 ^ 39

/-- A function holds the HBM range of a physical address (R379). -/
def State.hbmHeld (s : State) (f : FuncId) (pa : Nat) : Bool :=
  (s.func f).grants.any fun g => g.kind == .hbm && g.lo.toNat ≤ pa && pa ≤ g.hi.toNat

/-- The target of a physical address gives an error response to a function (R366, R379, R407). -/
def State.targetErr (s : State) (f : FuncId) (pa : Nat) : Bool :=
  if isHost pa then false
  else if isFab pa then
    match s.pkg.fwin.find (pa / 2 ^ 45 % 32) with
    | none => true
    | some w => !w.en || w.func != f || w.dev == s.pkg.devnum
  else !(isHbm pa && s.hbmHeld f pa)

/-- The fence of the requester's die stops an access beyond it: it gets an error response (R359, log 19). -/
def State.fenceErr (s : State) (w : Who) (pa : Nat) : Bool :=
  match w.die with
  | none => false
  | some d => (s.die d).fenced && !(isHbm pa && pa / 2 ^ 37 % 4 = d.toNat)

/-- Status word of a key (R373). -/
def State.keyWord (s : State) (k : Nat) : Word := (s.pkg.keys.val ⟨0, 0⟩ k).word

/-- What tells one load of a key from another: 0 for plaintext (R373, R374). -/
def keyIdOf (k : Nat) (w : Word) : Nat := if bits w 1 0 = 2 then 0 else 1 + k + 1024 * bits w 23 8

/-- The key under which a translated address is kept: encryption takes place at the HBM controllers (R373). -/
def State.kidOf (s : State) (p : Word) (pa : Nat) : Nat :=
  if isHbm pa then keyIdOf (pteKey p) (s.keyWord (pteKey p)) else 0

/-- Why a leaf refuses an access, by the reasons of R370 in their order. -/
def State.leafReason (s : State) (w : Who) (acc : AccKind) (p : Word) (pa : Nat) : Nat :=
  let kw := s.keyWord (pteKey p)
  let mine := bits kw 6 2 = w.func.toNat
  if acc == .read && !pteR p then 3
  else if (acc == .write || acc == .atomic) && !pteW p then 4
  else if acc == .fetch && !pteX p then 5
  else if w.user && !pteU p then 6
  else if bits kw 1 0 != 0 && !mine then 7
  else if bits kw 1 0 = 0 || bits kw 1 0 = 3 then 8
  else if s.targetErr w.func pa || s.fenceErr w pa then 9
  else 0

/-- Code of a reason (R370). -/
def reasonCode (r : Nat) : Bits16 :=
  if r ≤ 2 then 0x0201 else if r ≤ 6 then 0x0202 else if r ≤ 8 then 0x0203 else 0x0204

/-- A leaf is malformed (R368, R369, R370 reason 2). -/
def leafBad (level : Nat) (p : Word) : Bool :=
  2 ≤ level || pteKind p = 3
    || (level = 0 && 2 ≤ pteCont p) || (level = 1 && pteCont p = 3)
    || (level = 1 && ptePa p % 2 ^ 21 != 0)

/-- A non-leaf entry is malformed: at level 0, or with a field it does not use that is not zero (R368). -/
def nodeBad (level : Nat) (p : Word) : Bool :=
  level = 0 || bits p 11 2 != 0 || bits p 63 52 != 0

/-- The access a leaf grants, or the fault. -/
def State.useLeaf (s : State) (w : Who) (acc : AccKind) (va level size : Nat) (p : Word) : Tr :=
  let pb := pageBytes size
  let pa := ptePa p / pb * pb + va % pb
  match s.leafReason w acc p pa with
  | 0 => .ok ⟨pa, pteKind p, pteCache p, ptePor p, s.kidOf p pa, pteCls p, pteKey p, w.cl⟩
  | r => .bad ⟨reasonCode r, r, level, va, p, acc, w.user, pa⟩

/-- An entry of a table: bytes of memory, or what another device gives, which is open (log 64). -/
def State.entryAt (s : State) (ea : Nat) : Word :=
  BitVec.ofNat 64 (leNat (if isFab ea then (List.range 8).map fun i => Config.freeByte (ea + i) s.free
    else s.rdBytes (s.keyed.val 0 (granOf ea)) ea 8))

/-- A walk from a table at a level downward: at most four entries are read, and a table that a target refuses gives reason 9 (R366,
R370, R379). -/
def State.walkFrom (s : State) (w : Who) (acc : AccKind) (va : Nat) : List Nat → Nat → Tr
  | [], _ => .bad ⟨0x0201, 2, 0, va, 0, acc, w.user, 0⟩
  | level :: rest, table =>
    let ea := table + 8 * vaIndex va level
    let p := s.entryAt ea
    let bad r := Tr.bad ⟨reasonCode r, r, level, va, p, acc, w.user, ea⟩
    if s.targetErr w.func ea || s.fenceErr w ea then bad 9
    else if s.isPois (granOf ea) then bad 2
    else if !pteV p then bad 1
    else if pteLeaf p then
      if leafBad level p then bad 2
      else
        let pa := ptePa p + va % (if level = 0 then 2 ^ 12 else 2 ^ 21)
        match s.leafReason w acc p pa with
        | 0 => .ok ⟨pa, pteKind p, pteCache p, ptePor p, s.kidOf p pa, pteCls p, pteKey p, w.cl⟩
        | r => .bad ⟨reasonCode r, r, level, va, p, acc, w.user, pa⟩
    else if nodeBad level p then bad 2
    else s.walkFrom w acc va rest (ptePa p)

/-- A cached translation of an address (R370, R279). -/
def tlbHit (w : Who) (va : Nat) : Option TlbEnt :=
  w.tlb.find? fun e => e.func == w.func && e.asn == w.asn && e.page.toNat = va / pageBytes e.size

/-- A walk for an address (R370). A function without a root for the address space faults at the root as an invalid entry does
(log 9). -/
def State.walk (s : State) (w : Who) (acc : AccKind) (va : Nat) : Tr :=
  match (s.func w.func).roots.find w.asn.toNat with
  | none => .bad ⟨0x0201, 1, 3, va, 0, acc, w.user, 0⟩
  | some r => s.walkFrom w acc va [3, 2, 1, 0] r.toNat

/-- The translation of one address: from a translation cache where it holds the page and its entry grants the access, else by a walk
(R370, R372). -/
def State.xlate (s : State) (w : Who) (acc : AccKind) (va : Nat) : Tr :=
  match tlbHit w va with
  | some e => match s.useLeaf w acc va (if e.size ≤ 1 then 0 else 1) e.size e.pte with
    | .ok x => .ok x
    | .bad _ => s.walk w acc va
  | none => s.walk w acc va

/-- A range of virtual addresses cut at pages of 4 KiB; addresses wrap at 2^57 (R75, R102). -/
def pieces : Nat → Nat → Nat → List (Nat × Nat)
  | 0, _, _ => []
  | fuel + 1, va, n =>
    if n = 0 then []
    else
      let m := min n (4096 - va % 4096)
      (va, m) :: pieces fuel ((va + m) % 2 ^ 57) (n - m)

/-- The answer for a range. -/
inductive Span where
  | ok (l : List Seg)
  | bad (f : XFault)
  deriving DecidableEq, Repr

/-- The answer for a range whose first page and the rest are given: the lowest faulting address is reported, a failed translation before
an error response (R102, R159), and no part is performed. -/
def Span.cons (n : Nat) : Tr → Span → Span
  | .ok x, .ok l => .ok (⟨x, n⟩ :: l)
  | .ok _, .bad g => .bad g
  | .bad f, .ok _ => .bad f
  | .bad f, .bad g => .bad (if f.bus && !g.bus then g else f)

/-- The pages of a range translated (R102). -/
def State.spanOf (s : State) (w : Who) (acc : AccKind) : List (Nat × Nat) → Span
  | [] => .ok []
  | (va, n) :: r => .cons n (s.xlate w acc va) (s.spanOf w acc r)

/-- An access of n bytes at a virtual address, checked in full (R102). -/
def State.span (s : State) (w : Who) (acc : AccKind) (va n : Nat) : Span :=
  s.spanOf w acc (pieces (n / 4096 + 2) (va % 2 ^ 57) n)

/-- Some page of the range has a property. -/
def anySeg (l : List Seg) (f : Xl → Bool) : Bool := l.any fun g => f g.xl

/-- Device and address that a fabric window gives a physical address (R366). -/
def State.fabTarget (s : State) (pa : Nat) : Bits9 × Word :=
  match s.pkg.fwin.find (pa / 2 ^ 45 % 32) with
  | some w => (w.dev, w.base + BitVec.ofNat 64 (pa % 2 ^ 45))
  | none => (0, 0)

/-- A range lies on another device in some part. -/
def remote (l : List Seg) : Bool := anySeg l fun x => isFab x.pa

/-- Bytes of a translated range; a part on another device is not known here (R408). -/
def State.rdSegs (s : State) (l : List Seg) : List Byte :=
  l.flatMap fun g =>
    if isFab g.xl.pa then (List.range g.len).map fun i => Config.freeByte (g.xl.pa + i) s.free
    else s.rdBytes g.xl.kid g.xl.pa g.len

/-- A translated range touches a poisoned granule, or a page that poisons its loads (R161, R368). -/
def State.poisSegs (s : State) (l : List Seg) : Bool :=
  l.any fun g => g.xl.por || (granules g.xl.pa g.len).any s.isPois

/-- Poison of each byte of a translated range. -/
def State.poisBytes (s : State) (l : List Seg) : List Bool :=
  l.flatMap fun g => (List.range g.len).map fun i => g.xl.por || s.isPois (granOf (g.xl.pa + i))

/-- Bytes stored to a translated range: here, or by a request to another device (R408). -/
def State.wrSegs (s : State) : List Seg → List Byte → State
  | [], _ => s
  | g :: r, b =>
    let h := b.take g.len
    let s :=
      if isFab g.xl.pa then
        let t := s.fabTarget g.xl.pa
        s.send (.request t.1 t.2 .write h [] g.xl.who.link)
      else (s.wrBytes g.xl.kid g.xl.pa h).clean g.xl.pa g.len
    s.wrSegs r (b.drop g.len)

/-- The granules of a translated range become poisoned (R161). -/
def State.poisonSegs (s : State) (l : List Seg) : State :=
  l.foldl (fun s g => s.poison (granules g.xl.pa g.len)) s

/-- Granules of a translated range that hold a byte marked as poisoned. -/
def markedGrans : List Seg → List Bool → List Nat
  | [], _ => []
  | g :: r, p =>
    ((p.take g.len).zip (List.range g.len)).filterMap (fun o => if o.1 then some (granOf (g.xl.pa + o.2)) else none)
      ++ markedGrans r (p.drop g.len)

/-- Parts of a translated range that lie on another device: offset and length. -/
def farParts : List Seg → Nat → List (Nat × Nat)
  | [], _ => []
  | g :: r, o => (if isFab g.xl.pa then [(o, g.len)] else []) ++ farParts r (o + g.len)

/-- Part of a translated range is answered by another device or by the host (R366). -/
def isFar (l : List Seg) : Bool := anySeg l fun x => isFab x.pa || isHost x.pa

/-- Physical address of the first part of a range that another device or the host answers. -/
def farPa (l : List Seg) : Nat := ((l.find? fun g => isFab g.xl.pa || isHost g.xl.pa).map fun g => g.xl.pa).getD 0

/-- Byte i of an answer with its poison. -/
def farByte (a : FarAns) (i : Nat) : Byte × Bool := (a.data.getD i 0, a.pois.contains (i / 64))

/-- Bytes with the parts that another device gives put in their places. -/
def farFill (a : FarAns) (parts : List (Nat × Nat)) (l : List (Byte × Bool)) : List (Byte × Bool) :=
  (parts.foldl (fun (p : Nat × List (Byte × Bool)) q =>
    (p.1 + q.2, p.2.take q.1 ++ (List.range q.2).map (fun i => farByte a (p.1 + i)) ++ p.2.drop (q.1 + q.2))) (0, l)).2

/-- Bytes of a range with their poison; parts on another device come with the answer. -/
def State.nearBytes (s : State) (l : List Seg) : List (Byte × Bool) := (s.rdSegs l).zip (s.poisBytes l)

/-- CYC of a number of µs. -/
def usCyc (n : Nat) : Nat := 800 * n

/-- A transaction that left at a CYC may have failed for want of an answer: ETMO has expired, or a link is down and its routes are
declared down (R419, R420). -/
def State.linkGone (s : State) (t : Nat) : Bool := t + usCyc s.pkg.etmo ≤ s.cyc || s.pkg.links.any fun p => !p.2.up

/-- Requests sent for the parts of a range that lie on another device (R408). -/
def State.askFar (s : State) (l : List Seg) : State :=
  l.foldl (fun s g =>
    if isFab g.xl.pa then
      let t := s.fabTarget g.xl.pa
      s.send (.request t.1 t.2 (.read (BitVec.ofNat 16 g.len)) [] [] g.xl.who.link)
    else s) s

/-! ### The L2 slices (R273 to R277) -/

/-- Slice of a physical address on its home die (R273). -/
def l2Slice (pa : Nat) : Nat :=
  ((List.range 8).map fun i => pa / 2 ^ (7 + 6 * i) % 64).foldl Nat.xor 0

/-- A slice of the package, of the line with a number. -/
def l2Home (n : Nat) : Nat := 64 * (128 * n / 2 ^ 37 % 4) + l2Slice (128 * n)

/-- Counters of a class in a slice changed. -/
def L2St.count (x : L2St) (n cls : Nat) (f : L2Cnt → L2Cnt) : L2St :=
  { x with cnt := x.cnt.put (16 * l2Home n + cls) (f (x.cnt.val ⟨0, 0, 0⟩ (16 * l2Home n + cls))) }

/-- A line leaves its slice for a fill of a class: it is written back if it is dirty, charged to the slot class of the fill's
context (R277). -/
def L2St.evict (x : L2St) (n cls hsc : Nat) : L2St :=
  match x.lines.find n with
  | none => x
  | some e =>
    let x := ({ x with lines := x.lines.del n } : L2St).count n cls fun c => { c with evs := c.evs + 1 }
    if e.dirty then
      ({ x with reqs := x.reqs ++ [(n, hsc)] } : L2St).count n cls fun c => { c with wbs := c.wbs + 1 }
    else x

/-- Lines with a property leave the L2, each written back if it is dirty under a slot class (R278, R374). -/
def L2St.expel (x : L2St) (hsc : Nat) (p : Nat → L2Line → Bool) : L2St :=
  { x with
    lines := x.lines.filter fun l => !p l.1 l.2
    reqs := x.reqs ++ (x.lines.filter fun l => p l.1 l.2 && l.2.dirty).map fun l => (l.1, hsc) }

/-- Set of a line within its slice, one of 1,024, which is not architected (R273, log 43). -/
def l2Set (n : Nat) : Nat := Config.policy 4 n % 1024

/-- Two lines lie in one set of one slice (R273). -/
def l2Same (n m : Nat) : Bool := l2Home n = l2Home m && l2Set n = l2Set m

/-- A translated part that the L1D and the L2 cache: CACHE is ignored for SO (R175, R274, R368). -/
def cachedX (x : Xl) : Bool := x.cache && x.kind != 1 && isHbm x.pa

/-- An access of a class to a line: a hit is served in any way and charged to no class; a miss fills a way of the class's mask, if it
has one, and puts out the line of that way and its set. The way is open: `pick` chooses it (R273, R277, log 43). -/
def L2St.touch (x : L2St) (mask : Nat) (c : Cls) (hsc key n : Nat) (wr : Bool) (pick : Nat) : L2St :=
  match x.lines.find n with
  | some e => if wr then { x with lines := x.lines.put n { e with dirty := true, key := key } } else x
  | none =>
    let x := { x with reqs := x.reqs ++ [(n, hsc)] }
    let ways := (List.range 16).filter mask.testBit
    match ways[pick % ways.length]? with
    | none => x
    | some w =>
      let x := match x.lines.find? fun p => p.2.way = w && l2Same p.1 n with
        | none => x
        | some v => x.evict v.1 c.l2 hsc
      ({ x with lines := x.lines.put n ⟨w, wr, key⟩ } : L2St).count n c.l2 fun k => { k with fills := k.fills + 1 }

/-- A line looked up in its slice by an access of the classes given; `cls` is the slot class of its page and `key` its key number (R277,
R364, R373). -/
def State.l2Line (s : State) (c : Cls) (cls key n : Nat) (wr : Bool) : State :=
  let d : DieId := BitVec.ofNat 2 (128 * n / 2 ^ 37)
  let pick := Config.freeNat (2 ^ 40 + n) (s.l2.cnt.val ⟨0, 0, 0⟩ (16 * l2Home n + c.l2)).fills
  { s with l2 := s.l2.touch ((s.die d).cwm.val 0 c.l2).toNat c (max c.hsc cls) key n wr pick }

/-- Lines of 128 bytes that n bytes touch. -/
def lines128 (pa n : Nat) : List Nat :=
  if n = 0 then [] else (List.range ((pa + n - 1) / 128 - pa / 128 + 1)).map (· + pa / 128)

/-- The parts of a range that the L2 caches, looked up there; the others of HBM go on to their pseudo-channels (R273, R274, R364). -/
def State.l2Segs (s : State) (wr : Bool) (l : List Seg) : State :=
  l.foldl (fun (s : State) g =>
    if cachedX g.xl then
      (lines128 g.xl.pa g.len).foldl (fun (s : State) n => s.l2Line g.xl.who g.xl.cls g.xl.key n wr) s
    else if isHbm g.xl.pa then
      { s with l2 := { s.l2 with reqs := s.l2.reqs ++ (lines128 g.xl.pa g.len).map fun n => (n, max g.xl.who.hsc g.xl.cls) } }
    else s) s

/-- A range read by a unit of the device: requests leave for the parts on another device, and the others are looked up in the L2. -/
def State.askSegs (s : State) (l : List Seg) : State := (s.askFar l).l2Segs false l

/-- Bytes stored to a range by a unit of the device. -/
def State.putSegs (s : State) (l : List Seg) (b : List Byte) : State := (s.l2Segs true l).wrSegs l b

/-- Numbers of the 64-byte granules of a payload that hold a poisoned byte (R161, R410). -/
def poisGrans (l : List (Byte × Bool)) : List Nat :=
  (List.range ((l.length + 63) / 64)).filter fun g => ((l.drop (64 * g)).take 64).any Prod.snd

/-- Bytes stored to a translated range with their poison, here or by requests to another device (R161, R234, R365, R408). -/
def State.storeMarked (s : State) : List Seg → List (Byte × Bool) → State
  | [], _ => s
  | g :: r, d =>
    let h := d.take g.len
    let s :=
      if isFab g.xl.pa then
        let t := s.fabTarget g.xl.pa
        s.send (.request t.1 t.2 .write (h.map Prod.fst) (poisGrans h) g.xl.who.link)
      else
        ((s.wrBytes g.xl.kid g.xl.pa (h.map Prod.fst)).clean g.xl.pa g.len).poison (markedGrans [g] (h.map Prod.snd))
    s.storeMarked r (d.drop g.len)

/-- Bytes read through translation, if it grants them. -/
def State.rdVa (s : State) (w : Who) (va n : Nat) : Option (List Byte) :=
  match s.span w .read va n with
  | .ok l => some (s.rdSegs l)
  | .bad _ => none

/-- Bytes written through translation; a refused store changes no memory (R376). -/
def State.wrVa (s : State) (w : Who) (va : Nat) (b : List Byte) : State :=
  match s.span w .write va b.length with
  | .ok l => s.putSegs l b
  | .bad _ => s

/-- Accesses of a function without a strand: address space 0, supervisor, no cached translation; their classes are those of the
porter and the host (R275, R364, R411, log 43). -/
def Who.ofFunc (f : FuncId) : Who := ⟨f, 0, false, [], none, ⟨2, 15, 3⟩⟩

/-- Classes of a task's traffic by its descriptor's CLASS, L2C and HSC (R275, R310, R364, R411). -/
def clsOf (desc : List Byte) : Cls := ⟨field desc 2 1 + 1, field desc 13 1, field desc 14 1⟩

/-- Classes of a seat's traffic: the link class of its billet, and those of its task (R275, R364, R411). -/
def State.clsSeat (s : State) (c : CoreId) (k : SeatId) : Cls :=
  let b := (s.seat c k).billet
  match (s.die (coreDie c)).insts.find (bInst b) with
  | none => ⟨bClass b + 1, 0, 0⟩
  | some i => { clsOf i.tsk.desc with link := bClass b + 1 }

/-- Accesses of a seat: its function and address space; user accesses while its level is 0 (R370). -/
def State.whoSeat (s : State) (c : CoreId) (k : SeatId) : Who :=
  let q := s.seat c k
  ⟨q.func, q.asn, !q.plv, (s.core c).tlb ++ (s.cluster (coreDie c) (clusterOf (coreX c) (coreY c))).tlb2, some (coreDie c),
    s.clsSeat c k⟩

/-- The operation of an AMO at a width in bits (R108): add wraps; min and max are signed, minn and maxn unsigned. -/
def aopVal (op : Aop) (w : Nat) (a b : Nat) : Nat :=
  let sg (x : Nat) : Int := if 2 ^ (w - 1) ≤ x then (x : Int) - 2 ^ w else x
  let b := b % 2 ^ w
  match op with
  | .add => (a + b) % 2 ^ w
  | .swap => b
  | .min => if sg a < sg b then a else b
  | .max => if sg a < sg b then b else a
  | .minn => min a b
  | .maxn => max a b
  | .and => a &&& b
  | .or => a ||| b
  | .xor => a ^^^ b

/-- Bytes of an atomic request, and the value it writes for an old value: AMOCAS writes only where memory equals the value
expected (R108). -/
def opWidth : FabOp → Nat
  | .atomic _ w _ | .cas w _ _ => if w then 8 else 4
  | _ => 8
def opNew (o : FabOp) (old : Nat) : Option Nat :=
  match o with
  | .atomic op w b => some (aopVal op (if w then 64 else 32) old b.toNat)
  | .cas w e b => if old = e.toNat % 2 ^ (if w then 64 else 32) then some b.toNat else none
  | _ => none

/-- What an atomic does to memory at a physical address: the old value, its poison, and the state; poisoned memory is not
written (R108, R295). -/
def State.atomic (s : State) (kid pa : Nat) (o : FabOp) : Nat × Bool × State :=
  let n := opWidth o
  let old := leNat (s.rdBytes kid pa n)
  let bad := (granules pa n).any s.isPois
  (old, bad, if bad then s else match opNew o old with
    | none => s
    | some v => s.wrBytes kid pa (leBytes n v))

end Sys2Proof.Machine
end

