-- ==== Sys2Proof/Machine/QueueUnit.lean ====
section
/-!
DEFINITION. The queue unit of a die (R238 to R241): rings in memory, the grant tests, pushing and publishing a record and
taking one; and the records and messages that units of the device push (R267, R371).
-/
namespace Sys2Proof.Machine

/-- Cells of a ring (R238). -/
def QueueSt.rsz (q : QueueSt) : Nat := 2 ^ q.lrsz
/-- Cells in use (R239). -/
def QueueSt.used (q : QueueSt) : Nat := (q.tail - q.head).toNat
/-- Cells of a record with a payload of n bytes (R239). -/
def recCells (n : Nat) : Nat := (8 + n + 63) / 64
/-- Pad cells before a packet of c cells that would run past the ring's end (R239). -/
def QueueSt.pad (q : QueueSt) (c : Nat) : Nat :=
  let o := q.tail.toNat % q.rsz
  if q.rsz < o + c then q.rsz - o else 0
/-- A push of c cells is granted (R239). -/
def QueueSt.canPush (q : QueueSt) (c : Nat) : Bool := q.used + q.pad c + c ≤ q.rsz
/-- Pads at the head are retired at once (R239). -/
def QueueSt.retire (q : QueueSt) : QueueSt :=
  match q.recs with
  | r :: rest => if r.pad && r.pub then { q with recs := rest, head := q.head + BitVec.ofNat 24 r.cells } else q
  | [] => q
/-- A pop is granted: a published packet stands at the head (R239), and no pop is copying it yet (R241). -/
def QueueSt.canPop (q : QueueSt) : Bool :=
  match q.retire.recs with
  | r :: _ => r.pub && !r.pad && !r.taken
  | [] => false

/-- A queue of a die. -/
def State.queue? (s : State) (d : DieId) (n : Nat) : Option QueueSt := (s.die d).queues.find n
/-- A queue identity: die, number, whether the queue is remote, and the device (R238). Bit 14 is zero in every identity. -/
structure QId where
  raw : Nat
  die : DieId
  num : Nat
  remote : Bool
  legal : Bool
  dev : Bits9

/-- The identity that a scalar names (R240). -/
def qidOf (w : Word) : QId :=
  ⟨bits w 15 0, w.extractLsb' 12 2, bits w 11 0, w.getLsbD 15, !w.getLsbD 14, w.extractLsb' 16 9⟩

/-- The queue of this device that an identity names, where it is configured. -/
def State.qFind (s : State) (i : QId) : Option QueueSt := if i.legal then s.queue? i.die i.num else none

/-- A queue replaced. -/
def State.setQueue (s : State) (d : DieId) (n : Nat) (q : QueueSt) : State :=
  s.modDie d fun x => { x with queues := x.queues.put n q }

/-- Bytes written page by page through translation: where a page refuses, its bytes are not written, and what is lost is told with
the first fault (R241). -/
def State.putPages (s : State) (w : Who) : List (Nat × Nat) → Nat → List (Byte × Bool) → State × List (Nat × Nat) × Option XFault
  | [], _, _ => (s, [], none)
  | (va, n) :: r, off, b =>
    match s.xlate w .write va with
    | .ok x => ((s.l2Segs true [⟨x, n⟩]).storeMarked [⟨x, n⟩] b).putPages w r (off + n) (b.drop n)
    | .bad f =>
      let o := s.putPages w r (off + n) (b.drop n)
      (o.1, (off, n) :: o.2.1, some f)

/-- Classes of what a steward or a walker does for others (R275, R364). -/
def stewCls : Cls := ⟨2, 14, 0⟩

/-- Bytes of the ring from a cell, written as the queue's function would, under the classes of the agent that pushes; the ring lies at
BASE in its address space. -/
def State.ringWrite (s : State) (q : QueueSt) (cl : Cls) (cell : Nat) (b : List (Byte × Bool)) : State × List (Nat × Nat) × Option XFault :=
  let va := (q.base.toNat + 64 * (cell % q.rsz)) % 2 ^ 57
  s.putPages { Who.ofFunc q.func with cl := cl } (pieces (b.length / 4096 + 2) va b.length) 0 b

/-- The mirror is written after each change of head or tail (R241). -/
def State.mirror (s : State) (q : QueueSt) : State :=
  match q.mirror with
  | none => s
  | some a => s.wrVa (.ofFunc q.func) a.toNat (leBytes 8 q.tail.toNat ++ leBytes 8 q.head.toNat)

/-- A queue changed in its head or tail, with its mirror (R241). -/
def State.moveQueue (s : State) (d : DieId) (n : Nat) (q : QueueSt) : State := (s.setQueue d n q).mirror q

/-- Header of a record (R239). -/
def recHeader (len : Nat) (pad : Bool) (origin : Nat) : List Byte :=
  leBytes 8 (len + pad.toNat * 2 ^ 32 + origin * 2 ^ 40)

/-- Records are published in order: every record written whose predecessors are published (R241). -/
def publishAll : List QRec → List QRec
  | [] => []
  | r :: l => if r.wait then r :: l else { r with pub := true } :: publishAll l

/-- Who pushes a record: the strand that it comes from, the classes of the accesses, and whether part of the payload is still to come. -/
structure PushBy where
  src : Option (FuncId × Bits12 × Nat)
  cl : Cls
  wait : Bool

/-- A record that a steward, or a unit of the device, pushes. -/
def PushBy.unit : PushBy := ⟨none, stewCls, false⟩

/-- A record reserved and written: pad and header and payload are in the ring, and it waits to be published (R240, R241).
The answer is the index of its first cell and the first fault of the writes. `p` marks the payload's poisoned bytes (R161). -/
def State.reserve (s : State) (d : DieId) (n : Nat) (q : QueueSt) (origin : Nat) (b : List Byte) (p : List Bool) (by' : PushBy) :
    State × Nat × Option XFault :=
  let c := recCells b.length
  let pad := q.pad c
  let t := q.tail.toNat
  let clean (l : List Byte) : List (Byte × Bool) := l.map fun v => (v, false)
  let s := if pad = 0 then s else (s.ringWrite q by'.cl t (clean (recHeader (64 * pad - 8) true 0))).1
  let i := (t + pad) % 2 ^ 24
  let o := s.ringWrite q by'.cl i (clean (recHeader b.length false origin)
    ++ (List.range b.length).map fun j => (b.getD j 0, p.getD j false))
  let recs := (if pad = 0 then [] else [⟨t, pad, 64 * pad - 8, true, false, [], none, false, false⟩])
    ++ [⟨i, c, b.length, false, false, o.2.1, by'.src, by'.wait, false⟩]
  (o.1.moveQueue d n { q with tail := q.tail + BitVec.ofNat 24 (pad + c), recs := q.recs ++ recs }, i, o.2.2)

/-- A pad at the head retired at once, with the mirror (R239, R241). -/
def State.retireAt (s : State) (d : DieId) (n : Nat) (q : QueueSt) : State :=
  if q.retire.head = q.head then s.setQueue d n q else s.moveQueue d n q.retire

/-- Every record that has been written is published, and a pad at the head is retired (R239, R241). -/
def State.publish (s : State) (d : DieId) (n : Nat) : State :=
  match s.queue? d n with
  | none => s
  | some q => s.retireAt d n { q with recs := publishAll q.recs }

/-- A record pushed by a unit of the device: dropped and counted where the queue is not configured or has no room. -/
def State.pushRec (s : State) (d : DieId) (n : Nat) (b : List Byte) : State × Bool :=
  match s.queue? d n with
  | none => (s, false)
  | some q =>
    if q.canPush (recCells b.length) then (((s.reserve d n q 0 b [] .unit).1).publish d n, true)
    else (s.setQueue d n { q with drops := q.drops + 1 }, false)

/-- The packet at the head is taken: the head advances past its record, and then past a pad that comes to stand there; the mirror
is written after each change (R239, R241). -/
def State.popHead (s : State) (d : DieId) (n : Nat) (q : QueueSt) : State :=
  let q := q.retire
  match q.recs with
  | [] => s
  | r :: rest =>
    let q : QueueSt := { q with recs := rest, head := q.head + BitVec.ofNat 24 r.cells }
    (s.moveQueue d n q).retireAt d n q

/-- Payload bytes of the packet at the head. -/
def QueueSt.headLen (q : QueueSt) : Nat :=
  match q.retire.recs with
  | [] => 0
  | r :: _ => r.len

/-- Where the payload of the packet at the head lies. -/
def State.headSpan (s : State) (q : QueueSt) (r : QRec) : Span :=
  s.span (.ofFunc q.func) .read (q.base.toNat + 64 * (r.idx % q.rsz) + 8) r.len

/-- The parts of the packet at the head, where another device or the host gives part of it (R241, R366). -/
def State.headFar (s : State) (q : QueueSt) : Option (List Seg) :=
  match q.retire.recs with
  | [] => none
  | r :: _ => match s.headSpan q r with
    | .ok l => if isFar l then some l else none
    | .bad _ => none

/-- Poison of the bytes of a record that could not be written (R241). -/
def QRec.marked (r : QRec) (b : List (Byte × Bool)) : List (Byte × Bool) :=
  (b.zip (List.range r.len)).map fun p => (p.1.1, p.1.2 || r.lost.any fun m => m.1 ≤ 8 + p.2 && 8 + p.2 < m.1 + m.2)

/-- The payload of the packet at the head, with the poison of each byte, those that could not be written counting as poisoned; one
that cannot be read counts as poisoned bytes of no known value (R161, R241). -/
def State.headBytes (s : State) (q : QueueSt) : List (Byte × Bool) :=
  match q.retire.recs with
  | [] => []
  | r :: _ =>
    match s.headSpan q r with
    | .ok l => r.marked (s.nearBytes l)
    | .bad _ => (List.range r.len).map fun i => (Config.freeByte i s.free, true)

/-- The look-ups of reading the packet at the head. -/
def State.headLook (s : State) (q : QueueSt) : State :=
  match q.retire.recs with
  | [] => s
  | r :: _ => match s.headSpan q r with
    | .ok l => s.askSegs l
    | .bad _ => s

/-- A steward's message: header and 40 bytes of body (R266). -/
def stewMsg (type status core seq cyc : Nat) (body : List Byte) : List Byte :=
  (leBytes 1 type ++ leBytes 1 status ++ leBytes 2 core ++ leBytes 4 seq ++ leBytes 8 cyc ++ body
    ++ List.replicate 40 0).take 56

/-- A message enters a steward's outbox if it has room: the STATUS of an event tells how many were dropped before it (R267). -/
def State.outbox (s : State) (d : DieId) (k : Nat) (m : List Byte) : Option State :=
  let ev := field m 0 1 < 0x86
  let m := if ev then setBytes m 1 [BitVec.ofNat 8 (min 255 (s.cluster d k).odrop)] else m
  match s.queue? d (0xFF8 + k) with
  | none => none
  | some q =>
    if q.canPush (recCells m.length) then
      let s := ((s.reserve d (0xFF8 + k) q 0 m [] .unit).1).publish d (0xFF8 + k)
      some (if ev then s.modCluster d k fun cl => { cl with odrop := 0 } else s)
    else none

/-- Waiting messages enter the outbox as long as it has room; the others are answered. -/
def State.drainMsgs (s : State) (d : DieId) (k : Nat) : List (List Byte) → State × List (List Byte)
  | [] => (s, [])
  | m :: r => match s.outbox d k m with
    | some t => t.drainMsgs d k r
    | none => (s, m :: r)

/-- A steward's waiting messages, pushed in order while there is room (R267). -/
def State.drain (s : State) (d : DieId) (k : Nat) : State :=
  let p := s.drainMsgs d k (s.cluster d k).omsg
  p.1.modCluster d k fun cl => { cl with omsg := p.2 }

/-- The steward pushes a message to its outbox, after those that wait; one that finds it full waits, up to 256, and beyond that
is dropped (R267). -/
def State.stewPush (s : State) (d : DieId) (k : Nat) (m : List Byte) : State :=
  let s := s.drain d k
  let cl := s.cluster d k
  match if cl.omsg.isEmpty then s.outbox d k m else none with
  | some t => t
  | none =>
    if cl.omsg.length < 256 then s.modCluster d k fun cl => { cl with omsg := cl.omsg ++ [m] }
    else s.modCluster d k fun cl => { cl with odrop := cl.odrop + 1 }

/-- A FAULT event for a code of D delivery (R164, R267). -/
def State.faultEvent (s : State) (c : CoreId) (code : Bits16) (val task inst : Nat) : State :=
  s.stewPush (coreDie c) (clusterOf (coreX c) (coreY c))
    (stewMsg 0x81 0 (coreField c) 0 s.cyc
      (leBytes 8 code.toNat ++ leBytes 8 val ++ leBytes 4 task ++ leBytes 4 inst))

/-- ACC of a fault-queue record (R371). -/
def accCode (k : AccKind) (user : Bool) : Nat :=
  (match k with
  | .read => 1
  | .write => 2
  | .fetch => 4
  | .atomic => 8) + user.toNat * 16

/-- A record of a translation fault or of an error response for the function's fault queue, QNUM 0xFC0 + function on the
die of the requester (R371). -/
def State.faultRec (s : State) (w : Who) (c : CoreId) (k : SeatId) (unit inst type : Nat) (f : XFault) : State :=
  (s.pushRec (coreDie c) (0xFC0 + w.func.toNat)
    (leBytes 1 type ++ leBytes 1 (if type = 1 then f.reason else 0) ++ leBytes 2 (coreField c) ++ leBytes 1 unit
      ++ leBytes 1 (accCode f.kind f.user) ++ leBytes 2 w.func.toNat ++ leBytes 8 f.va ++ leBytes 8 s.cyc
      ++ leBytes 4 inst ++ leBytes 2 w.asn.toNat ++ leBytes 1 f.level ++ leBytes 1 k.toNat
      ++ leBytes 8 (if type = 1 then f.pte.toNat else 0) ++ leBytes 2 f.code.toNat ++ List.replicate 14 0)).1

/-- Task and instance of a seat as a FAULT event names them (R267). -/
def State.instTask (s : State) (d : DieId) (inst : Nat) : Nat :=
  match (s.die d).insts.find inst with
  | some i => i.task
  | none => 0

/-- A target's log of the last 16 requests that it refused, and the FAULT event at the requester's cluster (R375). The targets are told
apart by the top two bits of the physical address, in HBM by the home die, and by the fabric window. -/
def State.refuseLog (s : State) (w : Who) (c : CoreId) (unit inst pa : Nat) (kind : AccKind) : State :=
  let tgt := if isHbm pa then pa / 2 ^ 37 % 4 else 8 + pa / 2 ^ 50 % 4 * 32 + (if isFab pa then pa / 2 ^ 45 % 32 else 0)
  let who := BitVec.ofNat 64 (coreField c + w.func.toNat * 2 ^ 16 + unit * 2 ^ 24)
  let l := (s.pkg.tlog.val [] tgt) ++ [⟨BitVec.ofNat 64 pa, who, kind, s.cyc⟩]
  let s := s.modPkg fun p => { p with tlog := p.tlog.put tgt (l.drop (l.length - 16)) }
  s.faultEvent c 0x0204 pa (s.instTask (coreDie c) inst) inst

/-- A failed translation or a refused request is recorded: in the function's fault queue, a walk as TYPE 1 and an answer that failed as
TYPE 2 (log 75), and where a target refused it in the target's log (R371, R375, R376). -/
def State.recordFault (s : State) (w : Who) (c : CoreId) (k : SeatId) (unit inst : Nat) (f : XFault) : State :=
  let s := s.faultRec w c k unit inst (if 10 ≤ f.reason then 2 else 1) f
  if f.bus && 9 ≤ f.reason then s.refuseLog w c unit inst f.pa f.kind else s

/-- A mirror that its page refuses is recorded for the queue's function (R241, R371). -/
def State.mirrorFault (s : State) (d : DieId) (n : Nat) : State :=
  match (s.queue? d n).bind fun q => q.mirror.map fun a => (Who.ofFunc q.func, s.span (.ofFunc q.func) .write a.toNat 16) with
  | some (w, .bad f) => s.recordFault w (mkCore d 0 0) 0 4 0 f
  | _ => s

/-- The packet at the head of a queue has been copied: the head advances past it (R239, R241). -/
def State.popDone (s : State) (i : QId) : State :=
  match s.qFind i with
  | none => s
  | some u =>
    let s := (s.popHead i.die i.num u).mirrorFault i.die i.num
    if 0xFF8 ≤ i.num then s.drain i.die (i.num - 0xFF8) else s

end Sys2Proof.Machine
end

