-- ==== Sys2Proof/Machine/EngineQ.lean ====
section
/-!
DEFINITION. The engine queues (R178 to R186, R190, R194) and the tile table's transitions (R218 to R221): entries entered, moved
to the head, faulted and freed. Queues are numbered 0 for H0, 1 for H1 and 2 for the transfer engine.
-/
namespace Sys2Proof.Machine

/-! ### Slots (R218 to R221) -/

/-- Pins held on a slot (R221). -/
def Tile.pins (t : Tile) : Nat := t.pin0.toNat + t.pin1.toNat + t.pinT.toNat + t.pinE.toNat

/-- The tile table's entry of a slot. -/
def CoreSt.tile (x : CoreSt) (n : Nat) : Tile := x.tiles.val .none n

/-- A slot replaced. -/
def CoreSt.setTile (x : CoreSt) (n : Nat) (t : Tile) : CoreSt := { x with tiles := x.tiles.put n t }

/-- A slot of the tile table changed. -/
def CoreSt.modTile (x : CoreSt) (n : Nat) (f : Tile → Tile) : CoreSt := x.setTile n (f (x.tile n))

/-- A slot EMPTY, still granted; its TAG stays but where TFREE clears it (R220). -/
def Tile.empty (t : Tile) : Tile := { t with st := .empty, err := false, armed := false, holder := 0, freeing := false }

/-- A slot whose fill failed (R220). -/
def Tile.failed (t : Tile) : Tile := { t.empty with err := true }

/-- A slot whose pins have dropped becomes EMPTY where its drain asked for it (R220). -/
def Tile.settle (t : Tile) : Tile := if t.freeing && t.pins = 0 then t.empty else t

/-- The pin of a unit set or dropped: 0 H0 or a whole-array command, 1 H1, 2 the transfer engine, 3 an egress copy (R221). -/
def Tile.pinTo (t : Tile) (unit : Nat) (b : Bool) : Tile :=
  (match unit with
  | 0 => { t with pin0 := b }
  | 1 => { t with pin1 := b }
  | 2 => { t with pinT := b }
  | _ => { t with pinE := b }).settle

/-- Slots pinned by a unit. -/
def CoreSt.pinAll (x : CoreSt) (unit : Nat) (b : Bool) (l : List Nat) : CoreSt :=
  l.foldl (fun x n => x.modTile n fun t => t.pinTo unit b) x

/-- An egress copy pins a slot until a CYC (R221, R343). -/
def Tile.copyTo (t : Tile) (till : Nat) : Tile := { t.pinTo 3 true with copyAt := some (max till (t.copyAt.getD 0)) }

/-- An egress copy that has taken the slot's bytes drops its pin (R343). -/
def Tile.copied (t : Tile) (now : Nat) : Tile :=
  match t.copyAt with
  | .none => t
  | some u => if u ≤ now then { t.pinTo 3 false with copyAt := .none } else t

/-! ### Entries (R179, R180) -/

/-- Number of an engine queue. -/
def engNo : EngQ → Nat
  | .h0 => 0
  | .h1 => 1
  | .te => 2

/-- Queue of a half, or of a whole-array command's first entry. -/
def matNo : MatQ → Nat
  | .h0 => 0
  | .h1 => 1
  | .hw => 0

/-- The queue that a number names: 0 H0, 1 H1, 2 transfer (R89, R189). -/
def CoreSt.queue (x : CoreSt) : Nat → Tab Entry
  | 0 => x.h0
  | 1 => x.h1
  | _ => x.te

/-- A queue replaced. -/
def CoreSt.setQueue (x : CoreSt) (n : Nat) (t : Tab Entry) : CoreSt :=
  match n with
  | 0 => { x with h0 := t }
  | 1 => { x with h1 := t }
  | _ => { x with te := t }

/-- Capacity of a queue (R174). -/
def capacity : Nat → Nat
  | 2 => 32
  | _ => 16

/-- Entries of a seat in a queue; one that is only waiting to be dropped is not counted (R178). -/
def inUse (t : Tab Entry) (k : SeatId) : Nat := (t.filter fun p => p.2.seat == k && !p.2.drop).length

/-- Quota of a seat in a queue (R166, R178). -/
def quota (b : Billet) : Nat → Nat
  | 0 => bQh0 b
  | 1 => bQh1 b
  | _ => bQt b

/-- Pacing of a seat in a queue (R166, R183). -/
def pace (b : Billet) : Nat → Nat
  | 0 => bPaceH0 b
  | 1 => bPaceH1 b
  | _ => bPaceT b

/-- SEQ of the seat's next command in a queue (R179). -/
def SeatSt.seqOf (q : SeatSt) : Nat → Bits16
  | 0 => q.seqH0
  | 1 => q.seqH1
  | _ => q.seqT

/-- The next SEQ of a queue counted on. -/
def SeatSt.seqNext (q : SeatSt) (n : Nat) : SeatSt :=
  match n with
  | 0 => { q with seqH0 := q.seqH0 + 1 }
  | 1 => { q with seqH1 := q.seqH1 + 1 }
  | _ => { q with seqT := q.seqT + 1 }

/-- Start of the seat's previous command in a queue, while pacing counts (R183). -/
def SeatSt.paceAt (q : SeatSt) : Nat → Option Nat
  | 0 => q.paceH0
  | 1 => q.paceH1
  | _ => q.paceT

/-- The start of a command recorded for pacing, or the count cleared. -/
def SeatSt.setPace (q : SeatSt) (n : Nat) (v : Option Nat) : SeatSt :=
  match n with
  | 0 => { q with paceH0 := v }
  | 1 => { q with paceH1 := v }
  | _ => { q with paceT := v }

/-- A whole-array command (R194). -/
def Entry.whole (e : Entry) : Bool := e.q = 2

/-- The unit that runs an entry of a queue: 0 H0, 1 H1, 2 the transfer engine, 3 both halves (R193, R194). -/
def Entry.unit (e : Entry) (n : Nat) : Nat := if e.whole && n != 2 then 3 else n

/-- The pin that an entry of a queue holds: a whole-array command holds that of H0 (R221). -/
def Entry.pinUnit (e : Entry) (n : Nat) : Nat := if e.whole && n != 2 then 0 else n

/-- The queues in which an entry stands, by the queue it was found in. -/
def Entry.queues (e : Entry) (n : Nat) : List Nat := if n != 2 && e.whole then [0, 1] else [n]

/-- Two entries are one command: those of a whole-array command share seat and enqueue (R194). -/
def Entry.isMate (e f : Entry) : Bool := f.whole && f.seat == e.seat && f.enq == e.enq

/-- Index of the other entry of a whole-array command. -/
def CoreSt.mateIx (x : CoreSt) (n : Nat) (e : Entry) : Option Nat :=
  if n != 2 && e.whole then ((x.queue (1 - n)).find? fun p => e.isMate p.2).map Prod.fst else none

/-- An entry changed, with the other one of a whole-array command. -/
def CoreSt.modEnt (x : CoreSt) (n ix : Nat) (f : Entry → Entry) : CoreSt :=
  match (x.queue n).find ix with
  | none => x
  | some e =>
    let x := x.setQueue n ((x.queue n).put ix (f e))
    match x.mateIx n e with
    | none => x
    | some j => match (x.queue (1 - n)).find j with
      | none => x
      | some m => x.setQueue (1 - n) ((x.queue (1 - n)).put j (f m))

/-- An entry removed, with the other one of a whole-array command: FREE. -/
def CoreSt.delEnt (x : CoreSt) (n ix : Nat) : CoreSt :=
  match (x.queue n).find ix with
  | none => x
  | some e =>
    let m := x.mateIx n e
    let x := x.setQueue n ((x.queue n).del ix)
    match m with
    | none => x
    | some j => x.setQueue (1 - n) ((x.queue (1 - n)).del j)

/-- No earlier entry of the seat stands in a queue (R178). -/
def firstOf (t : Tab Entry) (e : Entry) : Bool :=
  !t.any fun p => p.2.seat == e.seat && !p.2.drop && p.2.enq < e.enq

/-- Units of leave that a command needs (R186). -/
def Entry.units (e : Entry) (n : Nat) : Nat :=
  if n != 2 then (if e.whole then 8 else 4)
  else match e.blk with
    | some b => if 65536 < e.nstep.toNat * field b 8 4 then 2 else 0
    | none => 0

/-- First gate shut of an entry, as wstate names it: a chosen entry that holds leave and its block and waits only for CYC to reach
STAMP shows the stamp (R185, log 66). -/
def Entry.why (e : Entry) (n now : Nat) : Nat :=
  match e.st with
  | .faulted => 8
  | .running => 7
  | .selected =>
    if (e.units n != 0 && !e.leave) || e.blk.isNone then 5
    else if e.stamped && now < e.stamp.toNat then 3
    else 6
  | _ => if !e.pace then 1 else if !e.token then 2 else if !e.stampOk then 3 else 4

/-- WHY of an entry followed from ck to ck, for its AGE (R185). -/
def Entry.aged (e : Entry) (n now : Nat) : Entry :=
  if e.why n now = e.whyNo then e else { e with whyNo := e.why n now, whyAt := now }

/-- Entries whose earlier ones have been freed, in a ck, reach HEAD, and take their first WHY in that ck; a whole-array command when that
holds in both queues (R180, R194, R352). -/
def CoreSt.promote (x : CoreSt) (now : Nat) : CoreSt :=
  let up (n : Nat) (e : Entry) : Entry :=
    if e.st == .queued && firstOf (x.queue n) e && (!(n != 2 && e.whole) || firstOf (x.queue (1 - n)) e) then
      let e := { e with st := .head }
      { e with whyNo := e.why n now, whyAt := now }
    else e
  { x with h0 := x.h0.mapV (up 0), h1 := x.h1.mapV (up 1), te := x.te.mapV (up 2) }

/-- SRC of the causes of a queue's commands (R155): a whole-array command reports as H0. -/
def Entry.src (e : Entry) (n : Nat) : Bits3 := if n = 2 then 3 else if e.whole then 1 else BitVec.ofNat 3 (n + 1)

/-- Cores of a seat's instance by strand index: the rectangle's corner, its width and its height (R12, R236). -/
def strandCore (d : DieId) (q : SeatSt) (i : Nat) : CoreId := mkCore d (q.x0 + i % q.rw) (q.y0 + i / q.rw)

/-- The slots that a discarded command was filling or draining take the states of R220; those of a multicast on every
destination. -/
def State.leaveSlots (s : State) (c : CoreId) (e : Entry) : State :=
  let one (s : State) (c : CoreId) := s.modCore c fun x => e.held.foldl (fun x n => x.modTile n fun t =>
    if t.st == .filling then t.failed else if t.st == .draining then { t with st := .ready, holder := 0 } else t) x
  if e.opc = 0x13 then
    let q := s.seat c e.seat
    (e.dst.filter fun p => p.2 = 1).foldl (fun s p => one s (strandCore (coreDie c) q p.1)) s
  else one s c

/-- The rows that steps of a unit are still to write are dropped: steps that have started ahead of the running one have made no write
(R180). -/
def CoreSt.abandon (x : CoreSt) (unit : Nat) : CoreSt := { x with ewr := x.ewr.filter fun w => w.n != unit }

/-- An entry gives up the units that it held, in a ck; they choose again in the next one at the earliest (R260). -/
def CoreSt.leaveUnit (x : CoreSt) (n : Nat) (e : Entry) (now : Nat) : CoreSt :=
  if e.st == .running || e.st == .selected then { x with unitAt := (e.queues n).foldl (fun t m => t.put m now) x.unitAt } else x

/-- A command whose block has not been read names no row any more (R115). -/
def SeatSt.dropUnk (q : SeatSt) (n seq : Nat) : SeatSt :=
  { q with und := q.und.filter fun u => !(u.unk && u.q = n && u.seq = seq) }

/-- An entry freed without its token in a ck: its slots and pins are released and the next entries move up (R180, R190, R220). -/
def State.discardAt (s : State) (c : CoreId) (n ix now : Nat) : State :=
  match ((s.core c).queue n).find ix with
  | none => s
  | some e =>
    ((s.leaveSlots c e).modSeat c e.seat fun q => q.dropUnk n e.seq.toNat).modCore c fun x =>
      ((((x.leaveUnit n e now).abandon (e.unit n)).pinAll (e.pinUnit n) false e.pins).delEnt n ix).promote now

/-- An entry freed without its token in this ck. -/
def State.discard (s : State) (c : CoreId) (n ix : Nat) : State := s.discardAt c n ix s.cyc

/-- A discard that waits for the step that runs: its entry is marked, and freed when the step ends (R168, R180). -/
def State.dropEnt (s : State) (c : CoreId) (n ix : Nat) : State :=
  match ((s.core c).queue n).find ix with
  | none => s
  | some e =>
    if e.st == .running && e.busy then
      (s.leaveSlots c e).modCore c fun x => x.modEnt n ix fun e => { e with drop := true, held := [] }
    else s.discard c n ix

/-- A seat's entries of every queue are discarded, as a kill does it (R168). -/
def State.dropSeat (s : State) (c : CoreId) (k : SeatId) : State :=
  [0, 1, 2].foldl (fun s n =>
    (((s.core c).queue n).filter fun p => p.2.seat == k).foldl (fun s p => s.dropEnt c n p.1) s) s

/-- The marks of an EQFLUSH.d that is no longer held are taken back (R190). -/
def CoreSt.unflush (x : CoreSt) (k : SeatId) : CoreSt :=
  let f (e : Entry) : Entry := if e.seat = k && e.flush then { e with flush := false } else e
  { x with h0 := x.h0.mapV f, h1 := x.h1.mapV f, te := x.te.mapV f }

/-! ### Pending causes (R153) -/

/-- Order of the causes that arrive in one ck: memory and host responses, H0, H1, the transfer queue (R153); the F_REPLAY mark
last (log 12). -/
def Cause.rank (a : Cause) : Nat :=
  match a.src.toNat with
  | 4 => 0
  | 1 => 1
  | 2 => 2
  | 3 => 3
  | _ => 4

/-- A cause put in its place among the pending ones: oldest first. -/
def Cause.insert (a : Cause) : List Cause → List Cause
  | [] => [a]
  | b :: r => if a.at0 < b.at0 || (a.at0 = b.at0 && a.rank < b.rank) then a :: b :: r else b :: Cause.insert a r

/-- A cause becomes pending for a seat (R153). -/
def State.pendCause (s : State) (c : CoreId) (k : SeatId) (a : Cause) : State :=
  s.modSeat c k fun q => { q with pend := ({ a with at0 := s.cyc } : Cause).insert q.pend }

/-! ### Counters of a half (R216) -/

/-- The counters of the halves in which an entry runs changed. -/
def CoreSt.count (x : CoreSt) (n : Nat) (e : Entry) (f : HalfCnt → HalfCnt) : CoreSt :=
  let x := if n = 0 || (n = 1 && e.whole) then { x with hc0 := f x.hc0 } else x
  if n = 1 || (n = 0 && e.whole) then { x with hc1 := f x.hc1 } else x

/-- An engine fault: the entry is FAULTED, its leave and pins are released, and the cause becomes pending (R180, R153, R201). -/
def State.engFault (s : State) (c : CoreId) (n ix : Nat) (code : Bits16) (val : Word) : State :=
  match ((s.core c).queue n).find ix with
  | none => s
  | some e =>
    let s := s.modCore c fun x =>
      ((((x.leaveUnit n e s.cyc).abandon (e.unit n)).pinAll (e.pinUnit n) false e.pins).modEnt n ix fun e =>
        { e with st := .faulted, leave := false, lreq := none, ch0 := false, ch1 := false, busy := false, ahead := [],
                 chk := none, fail := none, lwf := none, buf := [], far := none, segs := [], recs := [], pins := [], stampOk := false, fcode := code,
                 fval := val }).count n e
        fun h => { h with mflt := h.mflt + 1 }
    let s := if e.blk.isNone then s.modSeat c e.seat fun q => q.dropUnk (if e.whole && n != 2 then 0 else n) e.seq.toNat else s
    let at0 := if n = 1 && e.whole then ((s.core c).mateIx 1 e).getD ix else ix
    s.pendCause c e.seat ⟨code, e.src n, BitVec.ofNat 8 at0, val, 0⟩

/-! ### Steering entries (R338, R340, R341) -/

/-- Slots of a steering entry, and whether it names a core (R338). -/
def steerSlot (e : SteerSt) : Nat := bits e.w0 23 16
def steerN (e : SteerSt) : Nat := bits e.w0 27 24 + 1
def steerNames (e : SteerSt) (c : CoreId) : Bool := bits e.w0 6 4 = coreX c && bits e.w0 10 8 = coreY c
def steerArmed (e : SteerSt) : Bool := e.w1.getLsbD 16

/-- Slots of a core that were armed become READY with their contents (R338, R341). -/
def CoreSt.unarm (x : CoreSt) (slot n : Nat) : CoreSt :=
  { x with tiles := x.tiles.map fun p =>
      if slot ≤ p.1 && p.1 < slot + n && p.2.armed then
        (p.1, { p.2 with armed := false, st := .ready, holder := 0 }) else p }

/-- A steering entry disarmed: a message that is landing is abandoned (R93, R338). -/
def SteerSt.disarm (e : SteerSt) : SteerSt := { e with w1 := setBits e.w1 16 16 0, land := none, post := none }

/-- Slots of a core armed for Ethernet ingress (R220, R341). -/
def CoreSt.arm (x : CoreSt) (lo n : Nat) : CoreSt :=
  (List.range n).foldl (fun x j => x.modTile (lo + j) fun t => { t with st := .filling, armed := true, holder := 2 }) x

/-- A steering entry of a die. -/
def State.steerAt (s : State) (d : DieId) (i : Nat) : SteerSt := (s.die d).steer.val ⟨0, 0, 0, true, none, none⟩ i

/-- A steering entry replaced. -/
def State.setSteer (s : State) (d : DieId) (i : Nat) (x : SteerSt) : State :=
  s.modDie d fun y => { y with steer := y.steer.put i x }

/-- A steering entry disarmed, its slots READY with their contents (R338, R341). -/
def State.disarmEntry (s : State) (d : DieId) (i : Nat) : State :=
  let x := s.steerAt d i
  if steerArmed x then
    let c := mkCore d (bits x.w0 6 4) (bits x.w0 10 8)
    (s.setSteer d i x.disarm).modCore c fun y => y.unarm (steerSlot x) (steerN x)
  else s

/-- An entry armed anew with the operands' slots (R341). -/
def State.postAt (s : State) (c : CoreId) (k : SeatId) (i slot n : Nat) (sem : SemR) : State :=
  let d := coreDie c
  let s := s.disarmEntry d i
  let x := s.steerAt d i
  let x := { x with
    w0 := setBits (setBits x.w0 23 16 slot) 27 24 (n - 1), w1 := setBits x.w1 17 16 1, land := none, post := some (c, k, sem) }
  (s.setSteer d i x).modCore c fun y => y.arm slot n

/-- The arming of every steering entry that holds slots of a seat ends, and one that has not crossed yet with it (R93, R340). -/
def State.disarmSeat (s : State) (c : CoreId) (k : SeatId) : State :=
  let d := coreDie c
  let mine (e : SteerSt) : Bool :=
    steerNames e c && steerArmed e && ((s.core c).tiles.val .none (steerSlot e)).owner = some k
  let es := (s.die d).steer.filter fun p => mine p.2
  let s := s.modDie d fun y => { y with steer := y.steer.mapV fun e => if mine e then e.disarm else e }
  let s := { s with held := s.held.filter fun p => match p.2 with
    | .post c' k' _ _ _ _ _ => !(c' == c && k' == k)
    | _ => true }
  es.foldl (fun s p => s.modCore c fun x => x.unarm (steerSlot p.2) (steerN p.2)) s

end Sys2Proof.Machine
end

