-- ==== Sys2Proof/Machine/Ops.lean ====
section
/-!
DEFINITION. The named operations over semaphores, results in flight and seats, the taking of a trap and the return from
one, and the operation that every instruction of a bundle goes through when it is attempted.
-/
namespace Sys2Proof.Machine

/-! ### Semaphores (R21, R182) -/

/-- Value of a semaphore; w0 is none and reads 0. -/
def SeatSt.sem (q : SeatSt) (n : SemR) : Bits8 := q.w.val 0 n.toNat

/-- A semaphore set. -/
def SeatSt.setSem (q : SeatSt) (n : SemR) (v : Bits8) : SeatSt := { q with w := q.w.put n.toNat v }

/-- A semaphore incremented: above 255 it stays at 255 and its overflow bit is set (R182). -/
def SeatSt.bump (q : SeatSt) (n : SemR) (k : Nat) : SeatSt :=
  if n = 0 then q
  else if (q.sem n).toNat + k ≤ 255 then q.setSem n (BitVec.ofNat 8 ((q.sem n).toNat + k))
  else { q.setSem n 255 with ovf := q.ovf ||| BitVec.ofNat 16 (2 ^ n.toNat) }

/-! ### Results in flight (R31, R54, R55) -/

/-- Two writes name one register. -/
def Write.same : Write → Write → Bool
  | .s i _ _, .s j _ _ => i == j
  | .a i _ _, .a j _ _ => i == j
  | .m i _, .m j _ => i == j
  | .p i _, .p j _ => i == j
  | .row i _ _ _ _, .row j _ _ _ _ => i == j
  | .pq i _, .pq j _ => i == j
  | _, _ => false

/-- A number for the register a write names, to tell free values apart. -/
def Write.code : Write → Nat
  | .s i _ _ => i.toNat
  | .a i _ _ => 32 + i.toNat
  | .m i _ => 48 + i.toNat
  | .p i _ => 64 + i.toNat
  | .pq i _ => 80 + i.toNat
  | .row i _ _ _ _ => 128 + i

/-- A row with lanes written: bits under the mask from the data, tags of sectors written whole replaced, and the tags of
the lanes written joined (R111). -/
def Row.merge (r : Row) (mask data : RowBits) (full g : BitVec 32) : Row :=
  ⟨(r.d &&& ~~~ mask) ||| (data &&& mask), (r.t &&& ~~~ full) ||| g⟩

/-- A clear row. -/
def Row.zero : Row := ⟨0, 0⟩

/-- A physical row of the register file. -/
def CoreSt.row (x : CoreSt) (i : Nat) : Row := x.vrf.val .zero i

/-- An overflow event: block, origin, seat, SEQ and step (R214). -/
def ovEvent (blk org : Nat) (k : SeatId) (sq step : Nat) : Word :=
  BitVec.ofNat 64 (blk % 1024 + org * 2 ^ 10 + k.toNat * 2 ^ 12 + sq * 2 ^ 16 + step % 2 ^ 32 * 2 ^ 32)

/-- An overflow event enters the core's queue of 64; one that finds it full sets the seat's lost-event bit (R214). -/
def CoreSt.pushEvent (x : CoreSt) (k : SeatId) (e : Word) : CoreSt :=
  if x.ovq.length < 64 then { x with ovq := x.ovq ++ [e] }
  else x.setSeat k { x.seatAt k with olost := true }

/-- A row that a running step writes (R203). -/
def CoreSt.landRow (x : CoreSt) (w : EWr) : CoreSt :=
  let x := if w.mask = 0 then x
    else if w.gran then { x with gran := x.gran.put w.row ((x.gran.val .zero w.row).merge w.mask w.data w.full w.tags) }
    else { x with vrf := x.vrf.put w.row ((x.row w.row).merge w.mask w.data w.full w.tags) }
  w.ev.foldl (fun x e => x.pushEvent w.seat e) x

/-- Number of the step that a unit of the matrix engine runs: 0 H0, 1 H1, 3 both halves (R13). -/
def CoreSt.stepOn (x : CoreSt) (unit : Nat) : Option Nat :=
  ((if unit = 1 then x.h1 else x.h0).find? fun p => p.2.st == .running && p.2.busy && (p.2.q = 2) == (unit = 3)).map
    fun p => p.2.stepc.toNat

/-- A row is written in a ck: its time has come; its step is the one that its unit runs, as later ones make no write before it has ended
(R13, R203); and a row of a slot is written, with the others that the step has in the slot, while no pin is held there (R222). -/
def CoreSt.rowDue (x : CoreSt) (now : Nat) (w : EWr) : Bool :=
  w.at0 ≤ now && x.stepOn w.n = some w.step
    && (!w.gran || ((x.tile (w.row / 16)).pins = 0
      && x.ewr.all fun v => !(v.gran && v.n = w.n && v.step = w.step && v.row / 16 = w.row / 16) || v.at0 ≤ now))

/-- The rows of running steps that are due at a CYC are written: those of H0, then H1, then of both halves (R203, R214). -/
def CoreSt.landRows (x : CoreSt) (now : Nat) : CoreSt :=
  if x.ewr.isEmpty then x
  else
    let due := x.ewr.filter (x.rowDue now)
    [0, 1, 3].foldl (fun (x : CoreSt) n => (due.filter fun w => w.n = n).foldl CoreSt.landRow x)
      { x with ewr := x.ewr.filter fun w => !x.rowDue now w }

/-- A write landed in a seat's registers (R55). -/
def CoreSt.land (x : CoreSt) (k : SeatId) (f : Fly) : CoreSt :=
  let q := x.seatAt k
  let x := match f.w with
    | .s n v t => if n = 0 then x else
        x.setSeat k { q with sr := q.sr.put n.toNat v, sTag := setBits q.sTag n.toNat n.toNat t.toNat }
    | .a n v t => x.setSeat k { q with ar := q.ar.put n.toNat v, aTag := setBits q.aTag n.toNat n.toNat t.toNat }
    | .m n v => x.setSeat k { q with mr := q.mr.put n.toNat v }
    | .p n v => if n = 0 then x else x.setSeat k { q with pr := q.pr.put n.toNat v }
    | .pq n r => x.setSeat k { q with pq := q.pq.put n.toNat r }
    | .row i m d fl g => { x with vrf := x.vrf.put i ((x.row i).merge m d fl g) }
  f.ev.foldl (fun x e => x.pushEvent k e) x

/-- The results of a seat that are due at an issue cycle land, in order; the others stay in flight (R54). -/
def CoreSt.landDue (x : CoreSt) (k : SeatId) (now : Nat) : CoreSt :=
  let fl := (x.seatAt k).fly
  let x := x.setSeat k { x.seatAt k with fly := fl.filter fun f => now < f.due }
  (fl.filter fun f => f.due ≤ now).foldl (fun x f => x.land k f) x

/-- Every fixed-latency result of a seat lands (R55). -/
def CoreSt.landAll (x : CoreSt) (k : SeatId) : CoreSt :=
  let fl := (x.seatAt k).fly
  let x := x.setSeat k { x.seatAt k with fly := [] }
  fl.foldl (fun x f => x.land k f) x

/-- A result put in flight. Where one for the same register is in flight the two can land in one window: both then land at
the later time, and which value the register afterwards holds is free (R31). -/
def flyAdd (free : Nat) (l : List Fly) (f : Fly) : List Fly :=
  if l.any (fun g => g.w.same f.w) then
    let due := l.foldl (fun d g => if g.w.same f.w then max d g.due else d) f.due
    let l := l.map fun g => if g.w.same f.w then { g with due := due } else g
    if Config.freeBool (65536 + f.w.code) free then l ++ [{ f with due := due }] else { f with due := due } :: l
  else l ++ [f]

/-- The seat with a result of bound `lat` put in flight; a write to s0 or p0 is discarded (R17). -/
def SeatSt.fly1 (q : SeatSt) (free ic lat : Nat) (w : Write) : SeatSt :=
  match w with
  | .s 0 _ _ => q
  | .p 0 _ => q
  | w => { q with fly := flyAdd free q.fly ⟨ic, ic + lat, w, []⟩ }

/-! ### Traps (R151 to R157) -/

/-- A precise cause of a bundle: its rank in R159 times ten, the syllable that has it, its code and trap value, and the failed
translation that the fault queue records (R371). -/
structure PCause where
  rank : Nat
  syl : Nat
  code : Bits16
  tval : Word
  xf : Option XFault
  deriving DecidableEq, Repr

/-- Fault codes (R164). -/
def fIllop : Bits16 := 0x0101
def fPriv : Bits16 := 0x0102
def fVwin : Bits16 := 0x0103
def fAlign : Bits16 := 0x0104
def fChk : Bits16 := 0x0105
def fPoison : Bits16 := 0x0106
def fTrap : Bits16 := 0x0107
def fAmod : Bits16 := 0x0108
def fNest : Bits16 := 0x0109
def fPage : Bits16 := 0x0201
def fPerm : Bits16 := 0x0202
def fKey : Bits16 := 0x0203
def fBus : Bits16 := 0x0204
def fSmiss : Bits16 := 0x0301
def fTile : Bits16 := 0x0302
def fQwait : Bits16 := 0x0303
def fQlen : Bits16 := 0x0304
def fMcast : Bits16 := 0x0305
def fReplay : Bits16 := 0x0401
def fQuar : Bits16 := 0x0402
def fHatom : Bits16 := 0x0501
def fHcpl : Bits16 := 0x0502
def fLink : Bits16 := 0x0601
def fHalf : Bits16 := 0x0602
def fStarve : Bits16 := 0x0603
def fDeadl : Bits16 := 0x0701
def fShed : Bits16 := 0x0702
def fCut : Bits16 := 0x0703
def fStepgap : Bits16 := 0x0704
def fRelay : Bits16 := 0x0801
def fSupply : Bits16 := 0x0802

/-- No answer of another device. -/
def FarAns.none : FarAns := { data := [], pois := [], err := Option.none, addr := 0, perf := false }

/-- An answer that failed. -/
def FarAns.fail (e : BusErr) : FarAns := { FarAns.none with err := some e }

/-- Code and value of the fault that an answer brings for an access at a virtual address (R164, R390, R419). -/
def farFault (a : FarAns) (va : Nat) : Option (Bits16 × Word) :=
  let v : Nat := if a.addr = 0 then va else bits a.addr 56 0
  match a.err with
  | none => Option.none
  | some .bus => some (fBus, BitVec.ofNat 64 v)
  | some .link => some (fLink, BitVec.ofNat 64 v)
  | some (.hatom st) => some (fHatom, BitVec.ofNat 64 (v + st.toNat * 2 ^ 61))
  | some (.hcpl tmo st) => some (fHcpl, BitVec.ofNat 64 (v + tmo.toNat * 2 ^ 60 + st.toNat * 2 ^ 61))

/-- The answer to an access of a unit at a virtual address, among those given. -/
def farOf (far : FarReads) (va : Nat) : FarAns := (far.find? fun a => a.addr.toNat = va).getD FarAns.none

/-- The failure that another device or the host answers to an access of a unit to a range, as it is recorded (R164, R376). -/
def farBad (far : FarReads) (va : Nat) (acc : AccKind) (user : Bool) (l : List Seg) : Option XFault :=
  if isFar l then (farFault (farOf far va) va).map fun p => ⟨p.1, 10, 0, va % 2 ^ 57, 0, acc, user, farPa l⟩ else none

/-- A range read by a unit of the device at a virtual address: requests leave for what another device holds, whose answer is among those
given; the bytes with their poison, or the failure (R161, R366, R408). -/
def State.farRead (s : State) (far : FarReads) (va : Nat) (user : Bool) (l : List Seg) : State × Except XFault (List (Byte × Bool)) :=
  let t := s.askSegs l
  match farBad far va .read user l with
  | some f => (t, .error f)
  | none => (t, .ok (farFill (farOf far va) (farParts l 0) (s.nearBytes l)))

/-- tcause.ACT (R155). -/
def SeatSt.act (q : SeatSt) : Bool := q.tcause.getLsbD 25

/-- tcause as entry writes it (R155). -/
def mkCause (code : Bits16) (src : Nat) (imp : Bool) (syl : Nat) (pplv : Bool) (qent : Nat) : Word :=
  BitVec.ofNat 64 (code.toNat + src * 2 ^ 16 + imp.toNat * 2 ^ 19 + syl * 2 ^ 20 + pplv.toNat * 2 ^ 24 + 2 ^ 25
    + qent * 2 ^ 32)

/-- The register part of trap entry, after every fixed-latency result has landed (R154). -/
def SeatSt.trapRegs (q : SeatSt) (epc : Word) (cause : Word) (tval : Word) : SeatSt :=
  { q with
    epc := epc, tcause := cause, tval := tval, tlc := q.lc, tls := q.ls, tle := q.le,
    trot := BitVec.ofNat 64 (q.vrb.toNat + q.prb.toNat * 256),
    tpsn := BitVec.ofNat 64 (q.sTag.toNat / 2 * 2 + q.aTag.toNat * 2 ^ 32),
    sTag := 0, aTag := 0, lc := 0, plv := true, pc := q.tvec, npc := none, hold := none, grant := false, rcount := 0 }

/-- Taking a trap: the one entry that every cause goes through (R154). `n` is the number of issue cycles of the entry that
are still to pass after the present one. The core may switch seats at it (R11, R169). -/
def CoreSt.trapEntry (x : CoreSt) (k : SeatId) (epc cause tval : Word) (n : Nat) : CoreSt :=
  let x := (x.landAll k).unflush k
  { x.setSeat k ((x.seatAt k).trapRegs epc cause tval) with busy := n, swp := true, fill := none }

/-- A word with its 5 low bits dropped: those of an address of a bundle are reserved (R26). -/
def drop5 (x : Word) : Word := x &&& ~~~31

/-- The return from a trap: what ERET restores (R91, R156). -/
def SeatSt.trapReturn (q : SeatSt) : SeatSt :=
  { q with
    pc := q.epc, lc := q.tlc, ls := drop5 q.tls, le := drop5 q.tle,
    vrb := q.trot.extractLsb' 0 6, prb := q.trot.extractLsb' 8 3,
    sTag := BitVec.ofNat 32 (q.tpsn.toNat % 2 ^ 32 / 2 * 2), aTag := q.tpsn.extractLsb' 32 16,
    plv := q.tcause.getLsbD 24, tcause := setBits q.tcause 25 25 0 }

/-- The instance of a seat's billet is told of something (R157, R320). -/
def State.modInst (s : State) (d : DieId) (inst : Nat) (f : InstSt → InstSt) : State :=
  match (s.die d).insts.find inst with
  | none => s
  | some i => s.modDie d fun x => { x with insts := x.insts.put inst (f i) }

/-- The instance ends with the checkpoints that it holds discarded: their steps count as those of strands killed (R317, R321). -/
def InstSt.discard (i : InstSt) : InstSt :=
  { i with st := .ended, bars := [], saved := [], top := i.saved.foldl (fun m p => max m p.2.seat.stepNo.toNat) i.top }

/-- A strand has left its seat by a kill: its instance is told, unless the strand had ended; with no strand left in a seat it ends
(R317, R320). -/
def InstSt.killStrand (i : InstSt) (n now : Nat) : InstSt :=
  if i.ended.contains n then i
  else
    let i := { i with killed := insertNat i.killed n, ended := insertNat i.ended n, seats := i.seats.del n, fin := now }
    if i.seats.isEmpty && !i.saved.isEmpty then i.discard else i

/-- Kill requests for every strand of an instance that is bound (R328). -/
def State.killAll (s : State) (d : DieId) (inst : Nat) : State :=
  match (s.die d).insts.find inst with
  | none => s
  | some i =>
    i.seats.foldl (fun s p => s.modCore p.2.1 fun x => x.writePrq p.2.2 1 s.cyc) s

/-- A double trap: the seat is HALTED and keeps its trap registers; its instance is to end with F_NEST, its other strands killed
first, and its armings end (R157, R168, R317, R340, R341). -/
def State.doubleTrap (s : State) (c : CoreId) (k : SeatId) (code : Bits16) : State :=
  let q := s.seat c k
  let s := ((s.disarmSeat c k).dropSeat c k).modCore c fun x =>
    { x.setSeat k { x.seatAt k with st := .halted, npc := none } with swp := true }
  (s.modInst (coreDie c) (bInst q.billet) fun i => { i.killStrand q.sidx s.cyc with nest := some code }).killAll (coreDie c)
    (bInst q.billet)

/-- A precise cause is taken at the attempt to issue: the bundle takes no effect, epc is its address (R151, R154); with ACT
set it is a double trap (R157). -/
def State.takePrecise (s : State) (c : CoreId) (k : SeatId) (p : PCause) : State :=
  let q := s.seat c k
  let s := { s with last := .trapped p.rank p.syl }
  let s := match p.xf with
    | none => s
    | some f => s.recordFault (s.whoSeat c k) c k 0 (bInst q.billet) f
  if q.act then s.doubleTrap c k p.code
  else s.modCore c fun x => x.trapEntry k q.pc (mkCause p.code 0 false p.syl q.plv 0) p.tval 5

/-- A pending cause is taken before the next bundle (R153, R154); the F_REPLAY mark is taken precisely (R251). SYL of sources 1 to 4 and QENT
of sources 0 and 4 are 0 (R155, log 81). -/
def State.takeAsync (s : State) (c : CoreId) (k : SeatId) (a : Cause) (rest : List Cause) : State :=
  let q := s.seat c k
  let syl := if a.src = 0 then 7 else 0
  let s := s.setSeat c k { q with pend := rest }
  { s.modCore c fun x => x.trapEntry k q.pc (mkCause a.code a.src.toNat (a.src != 0) syl q.plv a.qent.toNat) a.tval 5 with
    last := .trapped 0 0 }

/-! ### Attempting an instruction of a bundle (R36, R159, R431) -/

/-- A seat at an attempt: the state the bundle sees, and the core and seat that issue. -/
structure At where
  s : State
  c : CoreId
  k : SeatId

/-- The core of an attempt. -/
def At.x (e : At) : CoreSt := e.s.core e.c
/-- The seat of an attempt. -/
def At.q (e : At) : SeatSt := e.s.seat e.c e.k

/-- What an instruction of a bundle would do: the causes it meets, whether it is held, and the state in which it has taken
effect. `moved` says that the effect sets the pc itself. -/
structure Plan where
  causes : List PCause
  held : Bool
  /-- The state if the bundle is held: a request that the hold itself makes. -/
  wait : State
  eff : State
  moved : Bool

/-- A plan that meets the causes given and is never held. -/
def At.plan (e : At) (causes : List PCause) (eff : State) : Plan := ⟨causes, false, e.s, eff, false⟩

/-- A plan that is held on a condition. -/
def At.planH (e : At) (causes : List PCause) (held : Bool) (eff : State) : Plan := ⟨causes, held, e.s, eff, false⟩

/-- The cause of highest rank, the earliest syllable among equals (R159). Ranks are those of R159 times ten, with the order
inside a rank in the last digit. -/
def firstCause : List PCause → Option PCause
  | [] => none
  | p :: r => match firstCause r with
    | none => some p
    | some m => if m.rank < p.rank || (m.rank = p.rank && m.syl < p.syl) then some m else some p

/-- Index of the slot of an instruction (R39). -/
def sylOf (i : Instr) : Nat := match encode i with
  | some y => y.index.toNat
  | none => 0

/-- Major opcode of an instruction. -/
def opcOf (i : Instr) : Nat := match encode i with
  | some y => y.opc.toNat
  | none => 0

/-- tval of F_ILLOP (R39). -/
def illopVal (index opc : Nat) : Word := BitVec.ofNat 64 (index + opc * 256)

/-- v registers of a source operand. -/
def vsOf : VSrc → List VReg
  | .v r => [r]
  | _ => []

/-- v registers of a row operand. -/
def rsOf : RowSrc → List VReg
  | .v r => [r]
  | _ => []

/-- The v registers that an instruction names, in the order of its fields: the destination or stored row first, then the
sources (R25). -/
def vregsOf : Instr → List VReg
  | .chkV v => [v]
  | .vld vt _ _ _ _ | .vlds vt _ _ _ _ | .vst vt _ _ _ _ | .vtld vt _ _ _ _ | .vtst vt _ _ _ _ => [vt]
  | .vgth vt _ vi _ _ _ | .vsct vt _ vi _ _ _ => [vt, vi]
  | .vfetch _ vs => [vs]
  | .vadd vd a b _ _ | .vsub vd a b _ _ | .vmul vd a b _ _ | .vmin vd a b _ _ | .vmax vd a b _ _ | .vcps vd a b _ _
  | .vdiv vd a b _ _ | .vimul vd a b _ _ | .vimulh vd a b _ _ | .vand vd a b _ _ | .vor vd a b _ _ | .vxor vd a b _ _
  | .vshl vd a b _ _ | .vshr vd a b _ _ | .vsha vd a b _ _ | .vimin vd a b _ _ | .vimax vd a b _ _
  | .vshuf vd a b _ _ | .vslideImm vd a b _ _ _ | .vslideReg vd a b _ _ _ | .viadd vd a b _ _ _ | .visub vd a b _ _ _
  | .vdelt vd a b _ _ _ _ | .vsel vd _ a b _ _ => vd :: (vsOf a ++ vsOf b)
  | .vfma vd a b c _ _ | .vfms vd a b c _ _ | .vfnma vd a b c _ _ | .vimad vd a b c _ _ | .vshufTwo vd a b c _ _ =>
      vd :: (vsOf a ++ vsOf b ++ vsOf c)
  | .vabs vd a _ _ | .vneg vd a _ _ | .vsqrt vd a _ _ | .vrcp vd a _ _ | .vrsq vd a _ _ | .vex2 vd a _ _
  | .vlg2 vd a _ _ | .vtnh vd a _ _ | .vlgs vd a _ _ | .vsin vd a _ _ | .vcos vd a _ _ | .vnot vd a _ _
  | .viabs vd a _ _ _ | .vmov vd a _ _ | .vcmpr vd a _ _ | .vred vd a _ _ _ | .vscan vd a _ _ _
  | .vcvt vd a _ _ _ _ _ | .vqmx vd a _ _ _ | .vrnd vd a _ _ _ => vd :: vsOf a
  | .vcmp _ a b _ _ _ _ | .vicmp _ a b _ _ _ _ => vsOf a ++ vsOf b
  | .vbcstScalar vd _ _ _ | .vbcstImm vd _ _ _ | .vinsImm vd _ _ _ | .vinsReg vd _ _ _ => [vd]
  | .vbcstLane vd a _ _ _ | .vdqmx vd a _ _ _ => vd :: rsOf a
  | .vextImm _ a _ _ | .vextReg _ a _ _ => rsOf a
  | _ => []

/-- A control register writable only at supervisor level (R26, R249). -/
def crSup (n : Nat) : Bool := (1 ≤ n && n ≤ 9) || n = 0x084

/-- An instruction that only a supervisor may issue (R49, R92, R158). -/
def supOnly : Instr → Bool
  | .eret | .eqflushD _ | .eqflushR _ _ | .minj _ _ _ _ | .minjOff => true
  | .crwReg cr _ | .crwImm cr _ => crSup cr.toNat
  | _ => false

/-- Window row index of a v register (R23). -/
def SeatSt.winRow (q : SeatSt) (n : VReg) : Nat :=
  if n.toNat < 64 then n.toNat else 64 + (n.toNat - 64 + q.vrb.toNat) % 64

/-- A group of a shape spans clusters (R3, R271). -/
def spans (lw lh : Bits2) : Bool := 2 < lw.toNat || 1 < lh.toNat

/-- The limits of a group's shape that the strand's rectangle sets (R39, R265, R271, R424). -/
def SeatSt.shapeOk (q : SeatSt) (i : Instr) : Bool :=
  let fits (lw lh : Bits2) : Bool := 2 ^ lw.toNat ≤ q.rw && 2 ^ lh.toNat ≤ q.rh
  match i with
  | .bari _ lw lh _ | .coll _ _ _ lw lh => fits lw lh
  | .bara _ _ lw lh _ scp | .barw _ _ lw lh _ _ scp => fits lw lh && !(scp == .cl && spans lw lh)
  | _ => true

/-- The causes that depend only on the encoding, the level and the rotation bases (R431): F_ILLOP, F_PRIV, F_VWIN. -/
def SeatSt.tier1 (q : SeatSt) (i : Instr) : List PCause :=
  (if i.wf && q.shapeOk i then [] else [⟨10, sylOf i, fIllop, illopVal (sylOf i) (opcOf i), none⟩])
    ++ (if supOnly i && !q.plv then [⟨20, sylOf i, fPriv, 0, none⟩] else [])
    ++ (((vregsOf i).map q.winRow).filter fun r => bW q.billet ≤ r).map fun r => ⟨40, sylOf i, fVwin, BitVec.ofNat 64 r, none⟩

/-- Any attempt of an instruction: with no seat issuing nothing happens; once the bundle's tests have passed the effect is
taken; otherwise the first cause is taken, else the bundle is held, else the effect is taken (R36). -/
def attempt (s : State) (i : Instr) (f : At → Plan) : Result :=
  match s.cur with
  | none => .next { s with last := .idle }
  | some (c, k) =>
    let p := f ⟨s, c, k⟩
    if s.sure then .next { p.eff with last := if p.moved then .moved else .issued }
    else match firstCause ((s.seat c k).tier1 i ++ p.causes) with
      | some m => .next (s.takePrecise c k m)
      | none =>
        if p.held then .next { p.wait with last := .held }
        else .next { p.eff with last := if p.moved then .moved else .issued }

end Sys2Proof.Machine
end

