-- ==== Sys2Proof/Machine/Operands.lean ====
section
/-!
DEFINITION. How an instruction of a bundle reads its operands (R23, R30, R31, R33, R76, R99, R100, R110, R115) and puts its
results in flight (R54 to R57, R111).
-/
namespace Sys2Proof.Machine

/-! ### Scalars, addresses, modifiers -/

/-- A result issued in an earlier issue cycle has not landed for a register that a test names. -/
def At.flying (e : At) (p : Write → Bool) : Bool := e.q.fly.any fun f => f.born < e.x.ic && p f.w

/-- A variable-latency result of an earlier ck has not landed for a destination that a test names (R59). -/
def At.waiting (e : At) (p : Dest → Bool) : Bool := e.q.vres.any fun v => v.ck < e.s.cyc && p v.dest

/-- s register n is undefined at this attempt: a result for it is on its way (R31, R59). -/
def At.sBusy (e : At) (n : SReg) : Bool :=
  (e.flying fun w => w.code = n.toNat) || e.waiting fun d => match d with
    | .s m => m == n
    | _ => false

/-- Value and tag of an s register (R33). -/
def At.sGet (e : At) (n : SReg) : Word × Bool :=
  if n = 0 then (0, false)
  else if e.sBusy n then (Config.freeWord n.toNat e.s.free, Config.freeBool n.toNat e.s.free)
  else (e.q.sr.val 0 n.toNat, e.q.sTag.getLsbD n.toNat)

/-- Value and tag of an a register. -/
def At.aGet (e : At) (n : AReg) : Word × Bool :=
  if e.flying fun w => w.code = 32 + n.toNat then
    (Config.freeWord (32 + n.toNat) e.s.free, Config.freeBool (32 + n.toNat) e.s.free)
  else (e.q.ar.val 0 n.toNat, e.q.aTag.getLsbD n.toNat)

/-- Value of a modifier register. -/
def At.mGet (e : At) (n : MReg) : Word :=
  if e.flying fun w => w.code = 48 + n.toNat then Config.freeWord (48 + n.toNat) e.s.free
  else e.q.mr.val 0 n.toNat

/-- A 32-bit immediate, sign-extended (R75). -/
def simm (i : Imm32) : Word := i.signExtend 64

/-! ### Predicates and rows -/

/-- Physical predicate of a predicate number (R23). -/
def SeatSt.predIx (q : SeatSt) (n : PReg) : BitVec 4 :=
  if n.toNat < 4 then n else BitVec.ofNat 4 (4 + (n.toNat - 4 + q.prb.toNat) % 8)

/-- Bits of a predicate register (R17, R23). -/
def At.pGet (e : At) (n : PReg) : PredBits :=
  let j := e.q.predIx n
  if j = 0 then BitVec.allOnes 1024
  else if e.flying fun w => w.code = 64 + j.toNat then Config.freePred j.toNat e.s.free
  else e.q.pr.val 0 j.toNat

/-- Physical row of a window row of the seat (R22). -/
def SeatSt.phys (q : SeatSt) (i : Nat) : Nat := bWbase q.billet + i

/-- A physical row of the seat is undefined: a result for it is on its way (R31, R59). -/
def At.rowBusy (e : At) (phys : Nat) : Bool :=
  (e.flying fun w => w.code = 128 + phys) || e.waiting fun d => match d with
    | .row p _ _ => p == phys
    | _ => false

/-- A window row, or a granary row, is written by an engine command that no header wait has ordered yet (R115, R223). -/
def SeatSt.engineRow (q : SeatSt) (gran : Bool) (i : Nat) : Bool :=
  q.und.any fun u => u.gran == gran && u.wr && u.lo ≤ i && i < u.hi

/-- The row that a v register names, as an instruction reads it (R23, R30, R115). -/
def At.vGet (e : At) (n : VReg) : Row :=
  let i := e.q.winRow n
  let p := e.q.phys i
  if e.rowBusy p || e.q.engineRow false i then ⟨Config.freeRow p e.s.free, Config.freeTags p e.s.free⟩ else e.x.row p

/-- A pq entry (R20). -/
def At.pqGet (e : At) (n : PqReg) : Row :=
  if e.flying fun w => w.code = 80 + n.toNat then
    ⟨Config.freeRow (4096 + n.toNat) e.s.free, Config.freeTags (4096 + n.toNat) e.s.free⟩
  else e.q.pq.val .zero n.toNat

/-- A source operand of the V syllable as read: a row, or a scalar that every lane reads; and the CLS and NUM of its register
code (R76, R110). -/
structure Opnd where
  row : Row
  scal : Option (Word × Bool)
  cls : Nat
  num : Nat

/-- A source operand read (R110). -/
def At.opnd (e : At) : VSrc → Opnd
  | .v n => ⟨e.vGet n, none, 2, n.toNat⟩
  | .pq n => ⟨e.pqGet n, none, 3, n.toNat⟩
  | .s n => ⟨.zero, some (e.sGet n), 0, n.toNat⟩

/-- A row operand read. -/
def At.opndR (e : At) : RowSrc → Opnd
  | .v n => ⟨e.vGet n, none, 2, n.toNat⟩
  | .pq n => ⟨e.pqGet n, none, 3, n.toNat⟩

/-- Element k of an operand at width w, as a number (R110). -/
def Opnd.el (o : Opnd) (w k : Nat) : Nat :=
  match o.scal with
  | none => (o.row.d.toNat >>> (k * w)) % 2 ^ w
  | some v => v.1.toNat % 2 ^ w

/-- Tag of element k at width w (R110). -/
def Opnd.tg (o : Opnd) (w k : Nat) : Bool :=
  match o.scal with
  | none => o.row.t.getLsbD (k * w / 256)
  | some v => v.2

/-- Lanes that a guard selects at a lane count (R33, R43). -/
def At.active (e : At) (g : Guard) : Nat → Bool :=
  let p := e.pGet g.p
  fun k => p.getLsbD k != g.neg

/-! ### Causes -/

/-- Register code of R76. -/
def regCode (cls num sect : Nat) : Word := BitVec.ofNat 64 (num + cls * 2 ^ 8 + sect * 2 ^ 32)

/-- F_POISON for an s register used in a role of R76. -/
def At.poisS (e : At) (syl : Nat) (n : SReg) : List PCause :=
  if (e.sGet n).2 then [⟨60, syl, fPoison, regCode 0 n.toNat 0, none⟩] else []

/-- F_POISON for an a register used as an address. -/
def At.poisA (e : At) (syl : Nat) (n : AReg) : List PCause :=
  if (e.aGet n).2 then [⟨60, syl, fPoison, regCode 1 n.toNat 0, none⟩] else []

/-- The poisoned sectors among those that the lanes given read. -/
def Opnd.sects (o : Opnd) (w : Nat) (lanes : List Nat) : Nat :=
  (lanes.foldl (fun (m : BitVec 32) k => if o.row.t.getLsbD (k * w / 256) then m ||| BitVec.ofNat 32 (2 ^ (k * w / 256)) else m)
    0).toNat

/-- The operand is poisoned in some of the lanes given: its register code (R112). -/
def Opnd.pois (o : Opnd) (w : Nat) (lanes : List Nat) : Option Word :=
  match o.scal with
  | some v => if v.2 && !lanes.isEmpty then some (regCode 0 o.num 0) else none
  | none => if o.sects w lanes = 0 then none else some (regCode o.cls o.num (o.sects w lanes))

/-- The first poisoned operand in the order of the fields (R112). -/
def firstPois : List (Option Word) → List PCause
  | [] => []
  | some v :: _ => [⟨60, 2, fPoison, v, none⟩]
  | none :: r => firstPois r

/-! ### Results -/

/-- A state after a fixed-latency result has been put in flight for the seat (R54). -/
def At.flyOn (e : At) (s : State) (lat : Nat) (w : Write) : State :=
  s.modSeat e.c e.k fun q => q.fly1 e.s.free e.x.ic lat w

/-- The state after a fixed-latency result has been put in flight. -/
def At.fly (e : At) (lat : Nat) (w : Write) : State := e.flyOn e.s lat w

/-- A number that no outstanding result of the seat has. -/
def SeatSt.nextId (q : SeatSt) : Nat := 1 + q.vres.foldl (fun m v => max m v.id) 0

/-- A state after a variable-latency result has been entered for the seat (R55). -/
def At.vresOn (e : At) (s : State) (v : Vres) : State :=
  s.modSeat e.c e.k fun q => { q with vres := q.vres ++ [{ v with id := q.nextId }] }

/-- The raise of a V-syllable instruction that reads a v register directly (R57). -/
def raise (l : List VSrc) : Nat :=
  if l.any (fun a => match a with
    | .v _ => true
    | _ => false) then 4 else 0

/-- The raise for a row operand. -/
def raiseR (a : RowSrc) : Nat :=
  match a with
  | .v _ => 4
  | .pq _ => 0

/-- Lanes of width w packed into a row; lane 0 is first. -/
def packRow (w : Nat) (l : List Nat) : RowBits := BitVec.ofNat 8192 (l.foldr (fun x r => x % 2 ^ w + r * 2 ^ w) 0)

/-- Bit j of a 32-bit value for each sector j that has a property. -/
def sectorBits (p : Nat → Bool) : BitVec 32 :=
  (List.range 32).foldl (fun m j => if p j then m ||| BitVec.ofNat 32 (2 ^ j) else m) 0

/-- A write of lanes into a row: `none` leaves a lane unwritten, and each sector's tag follows R111. -/
def laneWrite (phys w : Nat) (l : List (Option (Nat × Bool))) : Write :=
  let n := 256 / w
  .row phys (packRow w (l.map fun x => if x.isSome then 2 ^ w - 1 else 0)) (packRow w (l.map fun x => (x.getD (0, false)).1))
    (sectorBits fun j => ((l.drop (j * n)).take n).all Option.isSome)
    (sectorBits fun j => ((l.drop (j * n)).take n).any fun x => (x.getD (0, false)).2)

/-- Undefined rows that a header wait on a semaphore orders (R115, R296): those of every token of it that has landed. -/
def orders (sigs : List (SemR × Nat × Nat)) (sem : SemR) (u : Und) : Bool :=
  let le (a b : Nat) : Bool := (b + 65536 - a) % 65536 < 32768
  sigs.any fun t => t.1 == sem && ((t.2.1 == u.q && le u.seq t.2.2)
    || match u.alt with
       | some a => t.2.1 == 1 && le a t.2.2
       | none => false)

/-- The rows of engine commands that a bundle writes into are spoilt (R115, R223): the row written, and every row of a command
whose rows it touches. -/
def SeatSt.spoil (q : SeatSt) (gran : Bool) (i : Nat) : SeatSt :=
  let hit := q.und.filter fun u => u.gran == gran && u.lo ≤ i && i < u.hi
  { q with und := (q.und.map fun u => if hit.any (fun h => h.q == u.q && h.seq == u.seq) then { u with bad := true } else u)
      ++ hit.map fun u => { u with lo := i, hi := i + 1, wr := true, bad := true } }

/-- What a bundle spoils takes effect when it commits: its syllables read rows as they stood at issue (R30). -/
def SeatSt.spoilAll (q : SeatSt) : SeatSt := q.spoils.foldl (fun q p => q.spoil p.1 p.2) { q with spoils := [] }

/-- The state after a row result has been put in flight, with the events that enter when it lands. -/
def At.flyRow (e : At) (s : State) (lat : Nat) (n : VReg) (w : Write) (ev : List Word) : State :=
  s.modSeat e.c e.k fun q =>
    { q with spoils := q.spoils ++ [(false, q.winRow n)], fly := flyAdd e.s.free q.fly ⟨e.x.ic, e.x.ic + lat, w, ev⟩ }

/-- put of R111: the state after an instruction has written lanes of vD, with a bound. -/
def At.put (e : At) (lat : Nat) (n : VReg) (w : Nat) (l : List (Option (Nat × Bool))) : State :=
  e.flyRow e.s lat n (laneWrite (e.q.phys (e.q.winRow n)) w l) []

/-- The lanes of type t: the guard's choice of a value and tag for each (R111). -/
def lanesOf (t : Ty) (act : Nat → Bool) (f : Nat → Nat × Bool) : List (Option (Nat × Bool)) :=
  (List.range t.lanes).map fun k => if act k then some (f k) else none

/-- Bits of a predicate from its lanes at type t; bits above are cleared (R16). -/
def predOf (t : Ty) (f : Nat → Bool) : PredBits :=
  BitVec.ofNat 1024 ((List.range t.lanes).foldr (fun k r => r * 2 + (f k).toNat) 0)

/-- PSet of R33: the state after a predicate has been written, with a bound. -/
def At.pset (e : At) (lat : Nat) (n : PReg) (v : PredBits) : State := e.fly lat (.p (e.q.predIx n) v)

/-! ### Memory operands (R99, R100) -/

/-- A 20-bit field of a modifier. -/
def modInc (m : Word) : Int := (m.extractLsb' 4 20).toInt
def modLen (m : Word) : Nat := bits m 43 24
def modBoff (m : Word) : Nat := bits m 63 44

/-- The n low bits of a number in reversed order. -/
def revBits (n v : Nat) : Nat := (List.range n).foldl (fun r i => r * 2 + (v >>> i) % 2) 0

/-- The post-increment of an address under a modifier, or none where the modifier holds an illegal value (R99). -/
def nextAddr (m : Word) (ea : Word) : Option Word :=
  let l := modLen m
  let inc := modInc m
  match bits m 1 0 with
  | 0 => some (ea + BitVec.ofInt 64 inc)
  | 1 =>
    if l < 2 || 2 ^ 19 < l || !isPow2 l then none
    else
      let k := BitVec.ofNat 64 (l - 1)
      some ((ea &&& ~~~ k) ||| ((ea + BitVec.ofInt 64 inc) &&& k))
  | 2 =>
    let n := l % 32
    if n = 0 || 20 < n || 32 ≤ l then none
    else if inc ≤ 0 || !isPow2 inc.toNat then none
    else
      let k := inc.toNat.log2
      if 57 < k + n then none
      else
        let f := bits ea (k + n - 1) k
        let g := (revBits n f + 1) % 2 ^ n
        some (setBits ea (k + n - 1) k (revBits n g))
  | _ =>
    let b := ea.toNat / 2 ^ 20 * 2 ^ 20 + modBoff m
    if l = 0 || 2 ^ 20 < modBoff m + l || ea.toNat < b || b + l ≤ ea.toNat then none
    else some (BitVec.ofNat 64 (b + (((ea.toNat - b : Nat) + inc) % (l : Int)).toNat))

/-- A memory operand read: base register with its tag, effective address, and with a post-increment the modifier's number and
the address that follows, if its value is legal (R99, R100). -/
structure MemOp where
  ab : AReg
  tag : Bool
  ea : Word
  pi : Option (MReg × Option Word)

/-- The memory operand of the AM format read. -/
def At.amem (e : At) : AMem → MemOp
  | .off ab o => ⟨ab, (e.aGet ab).2, (e.aGet ab).1 + o.signExtend 64, none⟩
  | .post ab mm => ⟨ab, (e.aGet ab).2, (e.aGet ab).1, some (mm, nextAddr (e.mGet mm) (e.aGet ab).1)⟩

/-- The memory operand of the AV format read. -/
def At.vmem (e : At) : VMem → MemOp
  | .off ab o => ⟨ab, (e.aGet ab).2, (e.aGet ab).1 + o.signExtend 64, none⟩
  | .post ab mm => ⟨ab, (e.aGet ab).2, (e.aGet ab).1, some (mm, nextAddr (e.mGet mm) (e.aGet ab).1)⟩

/-- Virtual address of an effective address (R100). -/
def vaOf (ea : Word) : Nat := bits ea 56 0

/-- F_AMOD of a memory operand (R99). -/
def MemOp.amod (m : MemOp) : List PCause :=
  match m.pi with
  | some (mm, none) => [⟨50, 1, fAmod, BitVec.ofNat 64 mm.toNat, none⟩]
  | _ => []

/-- F_POISON of the base register (R100). -/
def MemOp.pois (m : MemOp) : List PCause :=
  if m.tag then [⟨60, 1, fPoison, regCode 1 m.ab.toNat 0, none⟩] else []

/-- The state after the post-increment: aB in flight with bound 1, its tag unchanged (R99). -/
def At.postInc (e : At) (m : MemOp) (s : State) : State :=
  match m.pi with
  | some (_, some a) => s.modSeat e.c e.k fun q => q.fly1 e.s.free e.x.ic 1 (.a m.ab a m.tag)
  | _ => s

/-- F_PAGE, F_PERM or F_KEY of a failed translation (R102, R159). -/
def xCause (syl : Nat) (f : XFault) : PCause :=
  let r := if f.code = fPage then 80 else if f.code = fPerm then 81 else if f.code = fKey then 82 else 100
  ⟨r, syl, f.code, BitVec.ofNat 64 f.va, some f⟩

end Sys2Proof.Machine
end

