-- ==== Sys2Proof/Machine/Seats.lean ====
section
/-!
DEFINITION. The seat state machine (R166 to R170): switch points, leaving ISSUING by a kill, a checkpoint or a cut, and the
service of a pre-emption request at a STEP commit or at the point of an F_STEPGAP (R94, R328, R330).
-/
namespace Sys2Proof.Machine

/-! ### Guard levels (R249, R252, R253, R257) -/

/-- Guard level of a core: the greatest of FLOOR, AUTO and the seats' requests (R249, R257). -/
def CoreSt.guard (x : CoreSt) : Nat :=
  seatIds.foldl (fun m k => max m (x.seatAt k).req.toNat) (max x.floor.toNat x.auto)

/-- A unit of the core has met 64 late verdicts in a row, and its count has not ended (R252, log 86). -/
def CoreSt.driven (x : CoreSt) : Bool := x.pers.any (fun p => 64 ≤ p.2) || x.seat.any (fun p => 64 ≤ p.2.pcount)

/-- The level a column is to run at: the largest GUARD of its eight cores, or 7 while one of them drives it there (R252, R253). -/
def State.columnGuard (s : State) (d : DieId) (col : Nat) : Nat :=
  (List.range 8).foldl (fun m y =>
    let x := s.core (mkCore d col y)
    max m (if x.driven then 7 else x.guard)) 0

/-- Level at which a core's column has settled: 7 while a droop is held (R349); a lowering takes effect at once (R253). -/
def State.colLevel (s : State) (c : CoreId) : Nat :=
  match (s.die (coreDie c)).droop.find (coreX c) with
  | some _ => 7
  | none => min (s.core c).col.toNat (s.columnGuard (coreDie c) (coreX c))

/-- An acquire at .cl or wider removes the clean lines of UO pages from a core's L1D (R287). -/
def CoreSt.dropUo (x : CoreSt) : CoreSt := { x with l1 := x.l1.filter fun p => !p.2.uo || p.2.dirty }

/-- A semaphore acquired: where an increment's release reaches beyond the core, UO lines are invalidated (R287, R296). -/
def State.acquire (s : State) (c : CoreId) (k : SeatId) (sem : SemR) : State :=
  if (s.seat c k).wide.getLsbD sem.toNat then
    (s.modCore c CoreSt.dropUo).modSeat c k fun q => { q with wide := q.wide &&& ~~~ BitVec.ofNat 16 (2 ^ sem.toNat) }
  else s

/-! ### What a core waits for to issue a bundle (R59, R84) -/

/-- What the core waits for, or has, for the bundle of a seat at an address. -/
def CoreSt.fillOf (x : CoreSt) (k : SeatId) (pc : Word) : Fill :=
  match x.fill with
  | some f => if f.seat = k && f.pc = pc then f else ⟨k, pc, none, none⟩
  | none => ⟨k, pc, none, none⟩

/-- A line of code looked up by a strand: the instruction cache of 512 lines, in which the line that gives way is open, and behind it the
L2 (R176, R177, R275). -/
def State.codeLine (s : State) (c : CoreId) (x : Xl) (n : Nat) : State :=
  let y := s.core c
  if y.icl.contains n then s
  else
    let l := if y.icl.length < 512 then y.icl else y.icl.eraseIdx (Config.freeNat (2 ^ 43 + 2 ^ 32 * c.toNat + n) y.l1n % 512)
    (s.l2Line x.who x.cls x.key n false).setCore c { y with icl := n :: l, l1n := y.l1n + 1 }

/-- The look-ups of the fetch of a bundle from a range. -/
def State.codeLook (s : State) (c : CoreId) (l : List Seg) : State :=
  (l.foldl (fun (s : State) g =>
    if cachedX g.xl then (lines128 g.xl.pa g.len).foldl (fun (s : State) n => s.codeLine c g.xl n) s else s) s).l2Segs false
      (l.filter fun g => !cachedX g.xl)

/-! ### Leaving the core (R254) -/

/-- Occupied seats of a core. -/
def CoreSt.occupied (x : CoreSt) : List SeatId := seatIds.filter fun k => (x.seatAt k).st != .empty

/-- A MARGIN event (R267). -/
def State.marginEvent (s : State) (c : CoreId) : State :=
  let x := s.core c
  let st := match x.mstate with
    | .normal => 0
    | .watch => 1
    | .quarantine => 2
    | .out => 3
  s.stewPush (coreDie c) (clusterOf (coreX c) (coreY c))
    (stewMsg 0x82 0 (coreField c) 0 s.cyc (leBytes 1 st ++ leBytes 1 x.floor.toNat))

/-- A quarantined core with every seat EMPTY is OUT (R254). -/
def State.outIfEmpty (s : State) (c : CoreId) : State :=
  let x := s.core c
  if x.mstate == .quarantine && x.occupied.isEmpty then
    (s.modCore c fun x => { x with mstate := .out }).marginEvent c
  else s

/-- What reads NXT and NV at a switch point (R169). A switch takes 6 issue cycles, or none beside a trap entry's own. Results
in flight of the seat that leaves land before it issues again (R55). -/
def CoreSt.switchPoint (x : CoreSt) : CoreSt :=
  let x := { x with swp := false }
  match ctlNxt x.ctl with
  | none => x
  | some n =>
    if (x.seatAt n).st != .resident then x
    else
      let x := match x.issuing with
        | none => x
        | some k => let x := x.landAll k; x.setSeat k { x.seatAt k with st := .resident }
      { x.setSeat n { x.seatAt n with st := .issuing } with busy := if x.busy = 0 then 6 else x.busy }

/-- The next issue cycle of a core: results that are due land (R54). -/
def CoreSt.cycle (x : CoreSt) : CoreSt :=
  seatIds.foldl (fun x k => x.landDue k x.ic) { x with ic := x.ic + 1 }

/-- Increments that land in phase 1 (R182), with what a SIG has released (R297). -/
def SeatSt.phase1 (q : SeatSt) : SeatSt :=
  q.inc.foldl (fun q p => q.bump p.1 p.2) { q with inc := [], recent := q.recent.filter fun r => !r.sig }

/-- Phase 1 of a ck for every seat of a core. -/
def CoreSt.phase1 (x : CoreSt) : CoreSt := { x with seat := x.seat.mapV SeatSt.phase1 }

/-- Slots of a seat withdrawn (R219): pins of a running step and of an egress copy stay until those end. -/
def CoreSt.ungrant (x : CoreSt) (k : SeatId) : CoreSt :=
  { x with tiles := x.tiles.mapV fun t =>
      if t.owner = some k then { Tile.none with pin0 := t.pin0, pin1 := t.pin1, pinT := t.pinT, pinE := t.pinE, copyAt := t.copyAt } else t }

/-- A seat EMPTY (R168): its slots withdrawn, its billet not valid, nothing of the strand kept, every result still addressed
to it discarded (R170), its margin request dropped (R257); its overflow events, the request made of it and its part in a cut go with
it (R214, R328, R330). A switch or an entry that ran for it ends (R169). -/
def CoreSt.emptySeat (x : CoreSt) (k : SeatId) : CoreSt :=
  let b := (x.seatAt k).billet
  let was := (x.seatAt k).st == .issuing
  let y := (x.ungrant k).setSeat k { SeatSt.reset with billet := b &&& ~~~1 }
  { y with
    swp := x.swp || was
    busy := if was then 0 else x.busy, stall := if was then 0 else x.stall, freeze := x.freeze && !was
    fill := if was then none else x.fill
    ovq := x.ovq.filter fun v => bits v 13 12 != k.toNat
    ewr := x.ewr.map fun w => if w.seat = k then { w with ev := [] } else w
    ctl := ctlSetPrq x.ctl k 0, prq := x.prq.del k.toNat
    cut := setBits (setBits x.cut k.toNat k.toNat 0) (4 + k.toNat) (4 + k.toNat) 0 }

/-- Barrier requests of a seat withdrawn at their units (R272). -/
def State.dropWaits (s : State) (c : CoreId) (k : SeatId) : State :=
  { s with clusters := s.clusters.mapV fun cl =>
      { cl with bwait := cl.bwait.filter fun m => !(m.core == c && m.seat == k)
                bmsg := cl.bmsg.filter fun m => !(m.core == c && m.seat == k && m.kind == .wait) }
           held := s.held.filter fun p => match p.2 with
             | .bar _ m => !(m.core == c && m.seat == k && m.kind == .wait)
             | _ => true }

/-- The joins of a seat withdrawn from their collectives (R428). -/
def State.dropJoins (s : State) (c : CoreId) (k : SeatId) : State :=
  s.modPkg fun p => { p with colls := p.colls.map fun y =>
    { y with joined := y.joined.filter fun j => !(j.core == c && j.seat == k) } }

/-! ### The L1D (R175, R176, R286, R287) -/

/-- Lines of 128 bytes that the parts of a range cached by the L1D touch, each with its part (R175). -/
def linesOf (l : List Seg) : List (Nat × Xl) :=
  l.flatMap fun g => if cachedX g.xl then (lines128 g.xl.pa g.len).map fun n => (n, g.xl) else []

/-- A line put into a way, and the line that it puts out, if the way is taken in its set (R175). -/
def CoreSt.l1Put (x : CoreSt) (n : Nat) (e : L1Line) : CoreSt × Option (Nat × L1Line) :=
  let out := x.l1.find? fun p => p.1 % 256 = n % 256 && p.2.way = e.way
  let t := match out with
    | none => x.l1
    | some p => x.l1.del p.1
  ({ x with l1 := t.put n e, l1n := x.l1n + 1 }, out)

/-- The way in which a line is allocated under a way mask: the first one free in its set; else one of them, which the replacement
order, not being architected, leaves open: a choice of this core alone (R176, R401, log 66). -/
def CoreSt.l1Way (x : CoreSt) (mask n pick : Nat) : Option Nat :=
  let ways := (List.range 12).filter mask.testBit
  match ways.find? fun w => !x.l1.any fun p => p.1 % 256 = n % 256 && p.2.way = w with
  | some w => some w
  | none => ways[pick % ways.length]?

/-- A line of a page accessed through the L1D of a core: a hit in any way is served; a miss is served by the L2 and kept in the ways of
the mask, writing back a dirty line that it puts out; a store makes its line dirty, or goes on to the L2 where it is not kept
(R175, R176, R277). -/
def State.l1Line (s : State) (c : CoreId) (mask : Nat) (x : Xl) (n : Nat) (wr : Bool) : State :=
  let y := s.core c
  match y.l1.find n with
  | some e => if wr then s.setCore c { y with l1 := y.l1.put n { e with dirty := true } } else s
  | none =>
    match y.l1Way mask n (Config.freeNat (2 ^ 42 + 2 ^ 32 * c.toNat + n) y.l1n) with
    | none => s.l2Line x.who x.cls x.key n wr
    | some w =>
      let o := y.l1Put n ⟨w, wr, x.kind = 2, x.cls, x.key⟩
      let s := (s.l2Line x.who x.cls x.key n false).setCore c o.1
      match o.2 with
      | some (v, e) => if e.dirty then s.l2Line x.who e.cls e.key v true else s
      | none => s

/-- The accesses of a range that go through the L1D and the L2 of a core's strand (R175, R176, R277). -/
def State.l1Segs (s : State) (c : CoreId) (mask : Nat) (wr : Bool) (l : List Seg) : State :=
  ((linesOf l).foldl (fun (s : State) p => s.l1Line c mask p.2 p.1 wr) s).l2Segs wr (l.filter fun g => !cachedX g.xl)

/-- The accesses of an engine step to memory: they read and update lines that its core's L1D holds, and go to the L2 for the others
(R287). -/
def State.engLook (s : State) (c : CoreId) (wr : Bool) (l : List Seg) : State := s.l1Segs c 0 wr l

/-- A release at .cl or wider of a seat writes back the dirty lines of UO pages of its core's L1D, under the classes of its task (R275,
R277, R287, R364). -/
def State.cleanUo (s : State) (c : CoreId) (k : SeatId) : State :=
  let d := (s.core c).l1.filter fun p => p.2.uo && p.2.dirty
  let who := s.clsSeat c k
  (d.foldl (fun (s : State) p => s.l2Line who p.2.cls p.2.key p.1 true) s).modCore c fun x =>
    { x with l1 := x.l1.mapV fun e => if e.uo then { e with dirty := false } else e }

/-- What a release and an acquire of a seat do to UO lines (R287). -/
def State.uoAct (s : State) (c : CoreId) (k : SeatId) (rel acq : Bool) : State :=
  let s := if rel then s.cleanUo c k else s
  if acq then s.modCore c CoreSt.dropUo else s

/-! ### Queue accesses that another device or the host has to answer (R240, R241, R408, R419) -/

/-- ORIGIN of a record: seat, x, y and die (R239). -/
def originOf (c : CoreId) (k : SeatId) : Nat := k.toNat + coreX c * 4 + coreY c * 32 + (coreDie c).toNat * 256

/-- The payload of a push to another device leaves (R422); from a fenced die nothing is sent (R359). -/
def State.sendPush (s : State) (c : CoreId) (k : SeatId) (dev : Bits9) (raw : Nat) (ack : Bool) (b : List (Byte × Bool)) : State :=
  if (s.die (coreDie c)).fenced then s
  else s.send (.fabricPush dev (BitVec.ofNat 16 raw) ack (BitVec.ofNat 16 (originOf c k)) (b.map Prod.fst) (poisGrans b)
    (bClass (s.seat c k).billet + 1))

/-- The payload of a push is there: it leaves for another device, or the record reserved for it is written, and may be published. An error
response to the writes is an imprecise F_BUS (R241, R422). -/
def State.pushWritten (s : State) (c : CoreId) (k : SeatId) (r : PushReq) (b : List (Byte × Bool)) : State :=
  let i := qidOf (BitVec.ofNat 64 r.raw)
  if r.away then s.sendPush c k r.dev r.raw r.ack b
  else match s.qFind i with
    | none => s
    | some u =>
      let head := (recHeader b.length false (originOf c k)).map fun v => (v, false)
      let o := s.ringWrite u (s.clsSeat c k) r.idx (head ++ b)
      let s := o.1.setQueue i.die i.num { u with recs := u.recs.map fun y =>
        if y.wait && y.idx = r.idx then { y with wait := false, lost := o.2.1 } else y }
      match o.2.2 with
      | none => s
      | some f => (s.recordFault (.ofFunc u.func) c k 0 (bInst (s.seat c k).billet) f).pendCause c k
          ⟨fBus, 4, 0, BitVec.ofNat 64 f.va, 0⟩

/-- What a strand that is killed has still to do at a queue is done all the same: of a payload that has not come, the bytes are open
(R168, R422, log 64). -/
def State.owedQueue (c : CoreId) (k : SeatId) (s : State) (v : Vres) : State :=
  match v.todo with
  | some (.push r) => s.pushWritten c k r (s.nearBytes r.segs)
  | some (.pop r) => s.popDone (qidOf (BitVec.ofNat 64 r.raw))
  | _ => s

/-- Stores and atomics of committed bundles that wait for an access before them are performed all the same when their strand is
killed (R168, R284). -/
def State.owedStores (c : CoreId) (mask : Nat) (s : State) (v : Vres) : State :=
  match v.todo with
  | some (.store l) => l.foldl (fun (s : State) p => (s.wrSegs [p.1] p.2).l1Segs c mask true [p.1]) s
  | some (.atomic x o) =>
    if isFab x.pa then s.send (.request (s.fabTarget x.pa).1 (s.fabTarget x.pa).2 o [] [] x.who.link)
    else ((s.atomic x.kid x.pa o).2.2).l2Segs true [⟨x, opWidth o⟩]
  | _ => s

/-- A strand killed (R168, R328): its queue entries are discarded, the seat becomes EMPTY, and its instance is told, with the core where
it is in quarantine (R321, R336). -/
def State.killSeat (s : State) (c : CoreId) (k : SeatId) : State :=
  let q := s.seat c k
  let s := q.vres.foldl (State.owedQueue c k) (q.vres.foldl (State.owedStores c (bL1w q.billet)) s)
  let s := ((((s.disarmSeat c k).dropJoins c k).dropSeat c k).modCore c fun x => x.emptySeat k).dropWaits c k
  let s := s.modInst (coreDie c) (bInst q.billet) fun i =>
    { i.killStrand q.sidx s.cyc with
      top := if i.ended.contains q.sidx then i.top else max i.top q.stepNo.toNat
      quar := if (s.core c).mstate == .quarantine && !i.ended.contains q.sidx then some (i.quar.getD (BitVec.ofNat 64 (coreField c))) else i.quar }
  s.outIfEmpty c

/-- A strand stops for its checkpoint (R168): the seat is OUT until the save is complete. -/
def State.outSeat (s : State) (c : CoreId) (k : SeatId) : State :=
  (s.disarmSeat c k).modCore c fun x => { (x.landAll k).setSeat k { (x.landAll k).seatAt k with st := .out } with swp := true }

/-- A seat armed for a cut. -/
def CoreSt.armed (x : CoreSt) (k : SeatId) : Bool := x.cut.getLsbD k.toNat

/-- A strand held for a cut at its step (R330): RESIDENT and not eligible until released. -/
def State.holdSeat (s : State) (c : CoreId) (k : SeatId) : State :=
  s.modCore c fun x =>
    let x := x.landAll k
    { x.setSeat k { x.seatAt k with st := .resident } with swp := true, cut := setBits x.cut (4 + k.toNat) (4 + k.toNat) 1 }

/-- A pre-emption request or a cut asks for the seat at its next STEP commit (R94, R328, R330). -/
def CoreSt.asked (x : CoreSt) (k : SeatId) : Bool := ctlPrq x.ctl k = 1 || ctlPrq x.ctl k = 2 || x.armed k

/-- The service of a request at a STEP commit or in place of an F_STEPGAP: a kill, a checkpoint, or the hold of a cut. The
request acted on is cleared (R168). -/
def State.serve (s : State) (c : CoreId) (k : SeatId) : State :=
  let x := s.core c
  let clear (s : State) := s.modCore c fun x => x.clearPrq k
  match ctlPrq x.ctl k with
  | 1 => clear (s.killSeat c k)
  | 2 => clear (s.outSeat c k)
  | _ => if x.armed k then s.holdSeat c k else s

/-- A state in which a message is on its way to its unit. -/
def State.toUnit (s : State) (d : DieId) (m : BarMsg) : State :=
  s.modCluster d (clusterOf m.cx m.cy) fun u => { u with bmsg := u.bmsg ++ [m] }

/-- A launch on its way to a dispatcher. -/
def State.toDispatcher (s : State) (d : DieId) (r : LaunchReq) : State := s.modDie d fun x => { x with lreq := x.lreq ++ [r] }

/-! ### The waits of a barrier unit (R270, R271) -/

/-- The result of a kind and key becomes known (R55): it lands with this value. -/
def State.answer (s : State) (c : CoreId) (k : SeatId) (kind : VKind) (key : Nat) (v : Word) : State :=
  s.modSeat c k fun q => { q with vres := q.vres.map fun r =>
    if r.kind == kind && r.key == key then { r with ready := true, data := v.zeroExtend 8192 } else r }

/-- A record has the key of a message (R268). -/
def BarRec.keyed (r : BarRec) (m : BarMsg) : Bool := r.inst = m.inst && r.bid == m.bid && r.cx = m.cx && r.cy = m.cy

/-- A BARW for a phase is satisfied (R270). -/
def BarRec.reached (r : BarRec) (phase : Bits16) : Bool := (r.p - phase).toNat < 32768

/-- What a wait is answered by its record, once its phase is reached or the record has failed (R270, R271). -/
def ClusterSt.answerOf (u : ClusterSt) (w : BarMsg) : Option Word :=
  (u.bars.find? fun r => r.keyed w).bind fun r =>
    if r.failed then some (BitVec.ofNat 64 (2 ^ 63)) else if r.reached w.phase then some (r.p.zeroExtend 64) else none

/-- Phase 2 of the barrier units: with the arrivals of the ck applied, every wait whose condition holds is answered (R270). -/
def State.answerBars (s : State) : State :=
  if s.clusters.all fun p => p.2.bwait.isEmpty then s
  else
    let met := s.clusters.flatMap fun p => p.2.bwait.filterMap fun w => (p.2.answerOf w).map fun v => (w, v)
    met.foldl (fun (s : State) p => s.answer p.1.core p.1.seat .barw p.1.key p.2)
      { s with clusters := s.clusters.mapV fun u => { u with bwait := u.bwait.filter fun w => (u.answerOf w).isNone } }

/-! ### The boundary of the domain (R248, R257, R258) -/

/-- A strand of an instance still holds a seat. -/
def SeatSt.of (q : SeatSt) (inst : Nat) : Bool := bV q.billet && bInst q.billet = inst

/-- What has stood at the boundary takes effect. An injection whose time lies before the first ck after its arming is dropped (R258,
R262); a margin token counts in the next ck where the column has settled already (R257). -/
def State.pass (s : State) : Held → State
  | .out o => s.send o
  | .bar d m => s.toUnit d m
  | .launch d r => s.toDispatcher d r
  | .trig d inst ix => s.modInst d inst fun i => { i with trig := insertNat i.trig ix }
  | .post c k inst i slot n sem => if (s.seat c k).of inst then s.postAt c k i slot n sem else s
  | .req c k inst lvl => s.modSeat c k fun q => if q.of inst then { q with req := lvl } else q
  | .settle c k inst id sem =>
    let now := (s.core c).guard ≤ s.colLevel c
    s.modSeat c k fun q =>
      if q.of inst && now && q.vres.any (fun v => v.id = id) then
        { q with vres := q.vres.filter fun v => v.id != id, inc := q.inc ++ [(sem, 1)] }
      else q
  | .inject c unit x cnt gap => s.modCore c fun y =>
    let late := ((List.range cnt).filter fun i => x + i * gap ≤ s.cyc).length
    { y with injUnit := unit, injLeft := cnt - late, injDone := 0, injDrop := late, injAt := x + late * gap, injGap := gap }
  | .disarm c => s.modCore c fun y => { y with injLeft := 0 }

/-- What leaves a core's domain stands at its boundary until a CYC; a time that has passed does not hold it (R248). -/
def State.outward (s : State) (t : Nat) (h : Held) : State :=
  if t ≤ s.cyc then s.pass h else { s with held := s.held ++ [(t, h)] }

end Sys2Proof.Machine
end

