-- ==== Sys2Proof/Machine/Bundle.lean ====
section
/-!
DEFINITION. A core's ck (R154, R169, R431): what comes before a bundle, the tests of its front, the running of its four
syllables as one (R30, R36, R37), and its commit with the back-edge (R86).
-/
namespace Sys2Proof.Machine

/-- A ck of the core that is an issue cycle ends. -/
def State.cycle (s : State) (c : CoreId) : State := s.modCore c CoreSt.cycle

/-- The ck ends with no bundle issued. -/
def State.noIssue (s : State) (c : CoreId) : State := s.cycle c

/-- A core whose seat would attempt a bundle in this ck: no replay, freeze, entry or switch runs (R431). -/
def CoreSt.mayIssue (x : CoreSt) : Bool := x.busy = 0 && x.stall = 0 && !x.freeze && !x.stopped

/-- An entry taken before the ck's attempt also covers the present issue cycle (R154). -/
def State.fullEntry (s : State) (c : CoreId) : State :=
  s.modCore c fun x => { x with busy := if x.busy = 5 then 6 else x.busy }

/-- A cause is pending that the seat takes now: a fault of an engine that arises in a ck is pending from the next one (R153, R251,
R261). -/
def SeatSt.pending (q : SeatSt) (now : Nat) : Bool :=
  match q.pend with
  | [] => false
  | a :: _ => !q.act && (a.src = 4 || a.at0 < now)

/-- The core waits for, or has, the answer to a load of the bundle that a seat issues: that bundle comes first (R59). -/
def CoreSt.filling (x : CoreSt) (k : SeatId) : Bool := x.fill.any fun f => f.seat = k && f.load.isSome

/-- The first pending cause of a seat is taken. -/
def State.takePending (s : State) (c : CoreId) (k : SeatId) : State :=
  match (s.seat c k).pend with
  | [] => s
  | a :: r => s.takeAsync c k a r

/-- An F_STEPGAP at a seat, or the service of the request that takes its place (R94): the gap count is cleared. -/
def State.takeGap (s : State) (c : CoreId) (k : SeatId) : State :=
  let q := s.seat c k
  let s := s.setSeat c k { q with gap := 0 }
  if (s.core c).asked k then { s.serve c k with last := .trapped 30 7 }
  else s.takePrecise c k ⟨30, 7, fStepgap, BitVec.ofNat 64 q.stepNo.toNat, none⟩

/-- What fetch gives: the bits of the bundle with the place they come from, a cause, or a place on another device or at the host that has
to answer. -/
inductive Fetched where
  | bundle (b : BitVec 256) (l : List Seg)
  | fault (p : PCause)
  | wait (l : List Seg)

/-- The bundle at the pc, or the fetch cause (R84, R159): a failed translation, or memory with poison or an error, whether it lies here
or is answered by another device or the host. -/
def State.fetch (s : State) (c : CoreId) (k : SeatId) : Fetched :=
  let q := s.seat c k
  match s.span (s.whoSeat c k) .fetch (bits q.pc 56 0) 32 with
  | .bad f => .fault ⟨0, 7, f.code, q.pc, some f⟩
  | .ok l =>
    let bus (f : Option XFault) : Fetched := .fault ⟨0, 7, fBus, q.pc, f⟩
    match if isFar l then ((s.core c).fillOf k q.pc).code.join else some FarAns.none with
    | none => .wait l
    | some a =>
      if a.err.isSome then bus (some ⟨fBus, 10, 0, bits q.pc 56 0, 0, .fetch, !q.plv, farPa l⟩)
      else
        let b := farFill a (farParts l 0) (s.nearBytes l)
        if b.any Prod.snd then bus none else .bundle (BitVec.ofNat 256 (leNat (b.map Prod.fst))) l

/-- A core that has asked another device or the host for a bundle issues nothing until the answer comes (R59, R84). -/
def State.askCode (s : State) (c : CoreId) (k : SeatId) (l : List Seg) : State :=
  let f := (s.core c).fillOf k (s.seat c k).pc
  (if f.code.isSome then s else s.askFar l).modCore c fun x => { x with freeze := true, fill := some { f with code := some (f.code.getD none) } }

/-- The header wait of a bundle is met (R21, R36). -/
def SeatSt.waitMet (q : SeatSt) (l : Latch) : Bool := l.ws = 0 || q.sem l.ws != 0

/-- The seat as the syllables of the bundle see it: the header's semaphore consumed, and the rows that its wait orders
defined, but for those a V syllable has spoilt. -/
def SeatSt.header (q : SeatSt) (l : Latch) : SeatSt :=
  if l.ws = 0 then q
  else
    let q := { q with und := q.und.filter fun u => u.bad || !orders q.sigs l.ws u }
    if l.wk then q else q.setSem l.ws (q.sem l.ws - 1)

/-- Rows that a V syllable has spoilt become undefined for good when a header wait orders their command (R115). -/
def State.settle (s : State) (c : CoreId) (k : SeatId) (l : Latch) : State :=
  if l.ws = 0 then s
  else
    let q := s.seat c k
    let done := q.und.filter fun u => u.bad && orders q.sigs l.ws u
    let rows := (done.filter fun u => u.wr && !u.gran).flatMap fun u => (List.range (u.hi - u.lo)).map fun i => q.phys (u.lo + i)
    let grows := (done.filter fun u => u.wr && u.gran).flatMap fun u => (List.range (u.hi - u.lo)).map (u.lo + ·)
    let s := s.setSeat c k { q with
      und := q.und.filter fun u => !(u.bad && orders q.sigs l.ws u), sigs := q.sigs.filter fun t => t.1 != l.ws }
    s.modCore c fun x =>
      { x with
        vrf := rows.foldl (fun v p => v.put p ⟨Config.freeRow p s.free, Config.freeTags p s.free⟩) x.vrf
        gran := grows.foldl (fun v p => v.put p ⟨Config.freeRow (2048 + p) s.free, Config.freeTags (2048 + p) s.free⟩) x.gran }

/-- What a bundle did not take effect with: the seat's semaphores and its undefined rows stand as before the header. -/
def State.restore (s : State) (c : CoreId) (k : SeatId) (q : SeatSt) : State :=
  s.modSeat c k fun r => if r.billet = q.billet then { r with w := q.w, und := q.und, spoils := [] } else r

/-- The instruction writes lc, ls or le (R86). -/
def writesLoop : Instr → Bool
  | .loopImm _ _ | .loopReg _ _ | .lcloseX _ _ => true
  | .crwReg cr _ | .crwImm cr _ => 0x010 ≤ cr.toNat && cr.toNat ≤ 0x012
  | _ => false

/-- The instruction is a STEP. -/
def isStep : Instr → Bool
  | .stepImm _ | .stepReg _ => true
  | _ => false

/-- An S-syllable instruction whose effect changes at once what the others read: it takes effect last. -/
def closing : Instr → Bool
  | .trap _ | .eret | .ends | .crwReg _ _ | .crwImm _ _ | .stepImm _ | .stepReg _ | .loopImm _ _ | .loopReg _ _
  | .lclose _ _ | .lcloseX _ _ | .trig => true
  | _ => false

/-- The syllables of a bundle in the order in which they take effect: NOPs are left out. -/
def Latch.order (l : Latch) : List Instr :=
  (if closing l.s then [l.a, l.v, l.x, l.s] else [l.s, l.a, l.v, l.x]).filter (· != .nop)

/-- lc and pc after a bundle: the pc a control instruction chose, else the back-edge under lc, ls and le as they stood at its
issue, else the next bundle (R82, R86). -/
def SeatSt.nextPc (q : SeatSt) (pc : Word) (quiet : Bool) : BitVec 32 × Word :=
  match q.npc with
  | some a => (q.lc, a)
  | none =>
    if quiet && q.lc != 0 && pc = q.le then (q.lc - 1, if q.lc = 1 then q.le + 32 else q.ls)
    else (q.lc, pc + 32)

/-- The bundle has issued: back-edge and pc, gap, replay count; its instance has started (R86, R94, R250, R320). The commit of a bundle
ends its persistence count; that of a handler, whose bundles run with ACT set, does not (R252). What a wait acquires beyond the core
acts on UO lines (R287, R296). -/
def State.commit (s : State) (c : CoreId) (k : SeatId) (l : Latch) (moved act : Bool) : State :=
  let s := s.modCore c fun x => { x with fill := none }
  let s := if l.ws = 0 then s else s.acquire c k l.ws
  let q := (s.seat c k).spoilAll
  let (lc, pc) := if moved then (q.lc, q.pc) else q.nextPc l.pc (!writesLoop l.s)
  let s := s.setSeat c k { q with
    lc := lc, pc := pc, npc := none, gap := if isStep l.s then 0 else q.gap + 1, rcount := 0, hold := none,
    pcount := if act then q.pcount else 0, pseven := if act then q.pseven else 0, grant := false, started := true }
  let s := s.modInst (coreDie c) (bInst q.billet) fun i => { i with started := i.started.getD s.cyc |> some }
  if isStep l.s then
    let s := s.modCore c fun x => { x with swp := true }
    if (s.core c).asked k then s.serve c k else s
  else s

/-- The persistence count of a bundle after one more late verdict on it: a handler's bundles neither add to it nor break it
(R252). -/
def SeatSt.persist (q : SeatSt) (top : Bool) : SeatSt :=
  if q.act then q
  else
    let n := if q.pbun = q.pc then q.pcount else 0
    { q with pbun := q.pc, pcount := n + 1, pseven := if top && 64 ≤ n then (if q.pbun = q.pc then q.pseven else 0) + 1 else
        if n = 0 then 0 else q.pseven }

/-- A late verdict on the cycle in which the bundle would issue (R245, R250): nothing of it takes effect and it issues again
5 ck later, or at the limit F_REPLAY is raised. -/
def State.replay (s : State) (c : CoreId) (k : SeatId) (inj : Bool) : State :=
  let x := s.core c
  let q := x.seatAt k
  let cons := q.rcount + 1
  let limit := bits q.mlim 2 0
  let x := { x with
    late := none
    mrc := x.mrc.put 0 ((x.mrc.val 0 0) + 1)
    mlast := BitVec.ofNat 64 (s.cyc % 2 ^ 48 + inj.toNat * 2 ^ 51 + k.toNat * 2 ^ 52 + (min cons 7) * 2 ^ 54)
    wcnt := if inj then x.wcnt else min (x.wcnt + 1) (2 ^ 24 - 1)
    injDone := if inj then x.injDone + 1 else x.injDone
    stall := 4 }
  let q := { q.persist (7 ≤ s.colLevel c) with hold := none, grant := false }
  if q.rcount = limit then
    let s := s.setCore c { x.setSeat k { q with rcount := 0 } with auto := min 7 (x.auto + 1), wrep := true }
    let s := s.takePrecise c k ⟨120, 7, fReplay, BitVec.ofNat 64 limit, none⟩
    { s with cores := (s.modCore c fun x => { x with busy := 6 }).cores }
  else s.setCore c (x.setSeat k { q with rcount := cons })

/-- What one exec answered, as an attempt. -/
def outcomeOf (r : Result) : Last :=
  match r with
  | .next t => t.last
  | _ => .issued

/-- The rank and slot of a trapped attempt. -/
def trapKey (r : Result) : Option (Nat × Nat) :=
  match outcomeOf r with
  | .trapped rk ix => some (rk, ix)
  | _ => none

/-- The attempt whose cause is taken: highest rank first, the earliest slot among equals (R159). -/
def firstTrap : List Result → Option (Nat × Nat × Result)
  | [] => none
  | r :: l =>
    match trapKey r, firstTrap l with
    | none, m => m
    | some (a, b), none => some (a, b, r)
    | some (a, b), some (a', b', r') => if a' < a || (a' = a && b' < b) then some (a', b', r') else some (a, b, r)

/-- The last attempt that is held. -/
def lastHeld : List Result → Option Result
  | [] => none
  | r :: l => match lastHeld l with
    | some h => some h
    | none => if outcomeOf r = .held then some r else none

/-- The first answer that is no next state. -/
def firstStop : List Result → Option Result
  | [] => none
  | .next _ :: l => firstStop l
  | r :: _ => some r

/-- The late verdict that the cycle of a bundle meets: none of its own while GUARD is 7 (R259), and none where the bundle's load has
been sent, for its cycle has had its verdict (R248). -/
def CoreSt.verdict (x : CoreSt) (k : SeatId) : Option Bool :=
  match x.late with
  | some inj => if (inj || x.guard != 7) && !x.filling k then some inj else none
  | none => none

/-- What a bundle sends outward stands at the boundary of the domain until the verdict on its cycle: it crosses 2 ck after that
(R248). -/
def State.boundary (t : State) (n : Nat) : State :=
  { t with out := t.out.take n, held := t.held ++ (t.out.drop n).map fun o => (t.cyc + 2, Held.out o) }

/-- A bundle runs with a given meaning of instructions. Every syllable is tried on the state that the bundle sees; a cause is
taken, or the bundle is held, or every syllable takes effect: the A, V and X syllables read registers as they stood at issue,
and what a control instruction changes at once comes last (R30, R36, R37). -/
def runBundle (ex : Instr → State → Result) (l : Latch) (s : State) : Result :=
  let s := { s with latch := none, sure := false }
  match s.cur with
  | none => .next { s with last := .idle }
  | some (c, k) =>
    let q := s.seat c k
    let w := s.setSeat c k (q.header l)
    let is := l.order
    let rs := is.map fun i => ex i w
    match firstStop rs with
    | some r => r
    | none =>
      match firstTrap rs with
      | some (_, _, .next t) => .next ((t.restore c k q).noIssue c)
      | some (_, _, r) => r
      | none =>
        match lastHeld rs with
        | some (.next t) =>
          let u := t.restore c k q
          if !(u.core c).freeze then .next (u.noIssue c)
          else match if (u.core c).filling k then (s.core c).verdict k else none with
            | some inj => .next { s.replay c k inj with last := .held }
            | none => .next (u.boundary s.out.length)
        | some r => r
        | none =>
          match (s.core c).verdict k with
          | some inj => .next { s.replay c k inj with last := .held }
          | none =>
            let step (r : Result × Bool) (i : Instr) : Result × Bool :=
              match r.1 with
              | .next t => let o := ex i { t with sure := true }; (o, r.2 || outcomeOf o = .moved)
              | o => (o, r.2)
            let r := is.foldl step (.next w, false)
            match r.1 with
            | .next t =>
              .next ((({ (t.boundary s.out.length).commit c k l r.2 q.act with sure := false, last := .issued }).settle c k l).cycle c)
            | o => o

/-- The front of a ck of a core (R431): nothing issues in a replay's ck, in a miss freeze, or while an entry or a switch runs;
a switch point is acted on; pending causes come first, then fetch, decode and the causes of ranks 1 to 4, then the header
wait. A bundle that passes stands in `latch`. -/
def State.front (s : State) (c : CoreId) : State :=
  let s := ({ s with focus := c, latch := none, sure := false, last := .idle }).modCore c CoreSt.phase1
  let x := s.core c
  if x.stopped || s.pkg.supply then s
  else if x.stall != 0 then s.setCore c { x with stall := x.stall - 1 }
  else if x.freeze then s
  else
    let x := if x.swp then x.switchPoint else x
    let s := s.setCore c x
    if x.busy != 0 then (s.modCore c fun x => { x with busy := x.busy - 1 }).cycle c
    else
      match x.issuing with
      | none => s.cycle c
      | some k =>
        let q := x.seatAt k
        if q.pending s.cyc && !x.filling k then (s.takePending c k).noIssue c
        else match s.fetch c k with
          | .fault p => (s.takePrecise c k p).noIssue c
          | .wait l => s.askCode c k l
          | .bundle b l =>
            match decodeBundle b with
            | .bad ix opc => (s.takePrecise c k ⟨10, ix.toNat, fIllop, illopVal ix.toNat opc.toNat, none⟩).noIssue c
            | .ok h is ia iv ix =>
              let t : Latch := ⟨q.pc, h.ws, h.wk, is, ia, iv, ix⟩
              let gap : List PCause := if 4096 ≤ q.gap then [⟨30, 7, fStepgap, BitVec.ofNat 64 q.stepNo.toNat, none⟩] else []
              match firstCause (gap ++ q.tier1 is ++ q.tier1 ia ++ q.tier1 iv ++ q.tier1 ix) with
              | some p => (if p.rank = 30 then s.takeGap c k else s.takePrecise c k p).noIssue c
              | none =>
                if q.waitMet t then { s.codeLook c l with latch := some t }
                else ({ s with last := .held } : State).noIssue c

/-- A core has something to do in a ck: a seat issues, a switch point is pending, or an increment is to land. -/
def CoreSt.active (x : CoreSt) : Bool :=
  x.issuing.isSome || x.swp || x.busy != 0 || x.stall != 0 || x.seat.any fun p => !p.2.inc.isEmpty

/-- A core's ck has passed: an injection into the sequencer that met no issuing bundle is dropped (R258). -/
def CoreSt.dropLate (x : CoreSt) : CoreSt :=
  if x.late = some true then { x with late := none, injDrop := x.injDrop + 1 } else x

/-- A half of a core runs a command: RUNNING in its own queue, or of the whole array (R216). -/
def CoreSt.halfBusy (x : CoreSt) (n : Nat) : Bool := (x.queue n).any fun p => p.2.st == .running

/-- What a core does at the end of a ck: the rows of running steps whose ck has come are written (R203), egress copies drop the pins of
slots that they have taken (R343), the entries' WHY is followed (R185); and MBUSY of each half goes on (R216), and the ck in which a
background seat is ISSUING (R323). -/
def CoreSt.clock (x : CoreSt) (now : Nat) : CoreSt :=
  let x := x.landRows now
  { x with
    tiles := x.tiles.mapV fun t => t.copied now
    h0 := x.h0.mapV fun e => e.aged 0 now
    h1 := x.h1.mapV fun e => e.aged 1 now
    te := x.te.mapV fun e => e.aged 2 now
    hc0 := if x.halfBusy 0 then { x.hc0 with mbusy := x.hc0.mbusy + 1 } else x.hc0
    hc1 := if x.halfBusy 1 then { x.hc1 with mbusy := x.hc1.mbusy + 1 } else x.hc1
    bgtime := match x.issuing with
      | some k => if bClass (x.seatAt k).billet = 2 then x.bgtime + 1 else x.bgtime
      | none => x.bgtime }

/-- A column whose cores ask for less has been lowered at once (R253). -/
def State.lowerCols (s : State) : State :=
  { s with cores := s.cores.map fun p =>
      let c : CoreId := BitVec.ofNat 8 p.1
      if p.2.col = 0 then p
      else (p.1, { p.2 with col := BitVec.ofNat 3 (min p.2.col.toNat (s.columnGuard (coreDie c) (coreX c))) }) }

/-- What has stood at the domain boundary until its verdict crosses (R248). -/
def State.cross (s : State) : State :=
  if s.held.isEmpty then s
  else
    let due := s.held.filter fun p => p.1 ≤ s.cyc
    due.foldl (fun (s : State) p => s.pass p.2) { s with held := s.held.filter (fun p => s.cyc < p.1) }

/-- The next core's turn in this ck, or the next ck with the first one. -/
def State.tick (s : State) : State :=
  let s := if (s.core s.focus).late = some true then s.modCore s.focus CoreSt.dropLate else s
  let act := s.cores.filter fun p => p.2.active
  match act.find? fun p => s.focus.toNat < p.1 with
  | some p => { s with focus := BitVec.ofNat 8 p.1 }
  | none =>
    let t := s.cross.answerBars.lowerCols
    { t with cyc := s.cyc + 1, cores := t.cores.mapV fun x => x.clock s.cyc, focus := match act with
        | [] => 0
        | p :: _ => BitVec.ofNat 8 p.1 }

/-- One step under a given meaning of instructions: the next event of the agenda, once its step has come, which takes no time; else the
focus core's ck (log 1). -/
def stepWith (ex : Instr → State → Result) (s : State) : Result :=
  let event := (s.agenda.head?).filter fun p => p.1 ≤ s.free
  let s := { s with free := s.free + 1 }
  match event with
  | some p => ex p.2 { s with agenda := s.agenda.tail, latch := none, sure := false }
  | none =>
    match ex (.issueAttempt s.focus .none) s with
    | .next t =>
      match t.latch with
      | none => .next t.tick
      | some l =>
        match runBundle ex l t with
        | .next u => .next u.tick
        | o => o
    | o => o

end Sys2Proof.Machine
end

