-- ==== Sys2Proof/Machine/Num.lean ====
section
/-!
DEFINITION. Number formats and arithmetic (R136 to R149): exact dyadic values, the reading of an encoding and its rounding.
-/
namespace Sys2Proof.Machine

/-- The fields of fcr (R27). -/
structure Fcr where
  rm : Nat
  sr : Bool
  ftz : Bool
  daz : Bool
  seed : Imm32

/-- The fields of an fcr value (R27). -/
def fcrOf (w : Word) : Fcr := ⟨bits w 1 0, w.getLsbD 2, w.getLsbD 3, w.getLsbD 4, w.extractLsb' 32 32⟩

/-- An exact value: NaN, an infinity, or (−1)^neg × m × 2^e; a zero keeps its sign. -/
inductive Num where
  | nan
  | inf (neg : Bool)
  | fin (neg : Bool) (m : Nat) (e : Int)
  deriving DecidableEq, Repr

/-- The special codes of a floating format (R137, R139). -/
inductive Spec where
  | ieee | e4m3 | none
  deriving DecidableEq, Repr

/-- A floating format: its width, fraction bits, bias, code of the largest finite magnitude and special codes. -/
structure Fmt where
  w : Nat
  f : Nat
  bias : Nat
  top : Nat
  spec : Spec

/-- The floating formats of R137 and R139. -/
def fmtOf : Ty → Option Fmt
  | .f32 => some ⟨32, 23, 127, 0x7F7FFFFF, .ieee⟩
  | .bf16 => some ⟨16, 7, 127, 0x7F7F, .ieee⟩
  | .f16 => some ⟨16, 10, 15, 0x7BFF, .ieee⟩
  | .e4m3 => some ⟨8, 3, 7, 0x7E, .e4m3⟩
  | .e5m2 => some ⟨8, 2, 15, 0x7B, .ieee⟩
  | .e3m2 => some ⟨6, 2, 3, 0x1F, .none⟩
  | .e2m3 => some ⟨6, 3, 1, 0x1F, .none⟩
  | .e2m1 => some ⟨4, 1, 1, 0x7, .none⟩
  | _ => none

/-- QNaN(t) of the wide formats (R137). -/
def qnan : Ty → Nat
  | .f32 => 0x7FC00000
  | .bf16 => 0x7FC0
  | .f16 => 0x7E00
  | _ => 0

/-- An encoding of an integer type as an integer (R136). -/
def intOf (t : Ty) (x : Nat) : Int :=
  let w := t.width
  let x := x % 2 ^ w
  if t.isSigned && 2 ^ (w - 1) ≤ x then (x : Int) - 2 ^ w else x

/-- An integer as an exact value. -/
def numOfInt (v : Int) : Num := .fin (v < 0) v.natAbs 0

/-- Real(x, t) (R143): an encoding read under DAZ. -/
def real (c : Fcr) (t : Ty) (x : Nat) : Num :=
  match fmtOf t with
  | some f =>
    let x := x % 2 ^ f.w
    let neg := 2 ^ (f.w - 1) ≤ x
    let mag := x % 2 ^ (f.w - 1)
    let ex := mag / 2 ^ f.f
    let fr := mag % 2 ^ f.f
    if f.spec == .e4m3 && mag = 0x7F then .nan
    else if f.spec == .ieee && ex = 2 ^ (f.w - 1 - f.f) - 1 then (if fr = 0 then .inf neg else .nan)
    else if ex = 0 then .fin neg (if c.daz && t.isWide then 0 else fr) (1 - (f.bias : Int) - f.f)
    else .fin neg (2 ^ f.f + fr) ((ex : Int) - f.bias - f.f)
  | none =>
    match t with
    | .e8m0 => if x % 256 = 255 then .nan else .fin false 1 ((x % 256 : Nat) - 127)
    | .mxi8 => match numOfInt (intOf .i8 x) with
      | .fin n m _ => .fin n m (-6)
      | y => y
    | t => numOfInt (intOf t x)

/-! ### Exact arithmetic (R113, R149) -/

/-- Negation. -/
def Num.neg : Num → Num
  | .nan => .nan
  | .inf s => .inf !s
  | .fin s m e => .fin (!s) m e

/-- Magnitude. -/
def Num.abs : Num → Num
  | .nan => .nan
  | .inf _ => .inf false
  | .fin _ m e => .fin false m e

/-- A finite value as an integer multiple of 2^u, for u not above its exponent. -/
def scaled (neg : Bool) (m : Nat) (e u : Int) : Int :=
  let v : Int := (m * 2 ^ (e - u).toNat : Nat)
  if neg then -v else v

/-- The exact sum; an exact zero sum is +0, or −0 under RDN, unless both are zeros of one sign (R113). -/
def Num.add (rdn : Bool) : Num → Num → Num
  | .nan, _ => .nan
  | _, .nan => .nan
  | .inf a, .inf b => if a == b then .inf a else .nan
  | .inf a, _ => .inf a
  | _, .inf b => .inf b
  | .fin a m e, .fin b n k =>
    if m = 0 && n = 0 then .fin (if a == b then a else rdn) 0 0
    else if m = 0 then .fin b n k
    else if n = 0 then .fin a m e
    else
      let u := min e k
      let v := scaled a m e u + scaled b n k u
      if v = 0 then .fin rdn 0 0 else .fin (v < 0) v.natAbs u

/-- The exact product; ∞ × 0 is invalid. -/
def Num.mul : Num → Num → Num
  | .nan, _ => .nan
  | _, .nan => .nan
  | .inf a, .inf b => .inf (a != b)
  | .inf a, .fin b n _ => if n = 0 then .nan else .inf (a != b)
  | .fin a m _, .inf b => if m = 0 then .nan else .inf (a != b)
  | .fin a m e, .fin b n k => .fin (a != b) (m * n) (e + k)

/-- A value times a power of two. -/
def Num.scale (k : Int) : Num → Num
  | .fin a m e => .fin a m (e + k)
  | x => x

/-- Comparison; none when either is NaN. −0 equals +0. -/
def Num.cmp : Num → Num → Option Ordering
  | .nan, _ => none
  | _, .nan => none
  | .inf a, .inf b => some (if a == b then .eq else if a then .lt else .gt)
  | .inf a, _ => some (if a then .lt else .gt)
  | _, .inf b => some (if b then .gt else .lt)
  | .fin a m e, .fin b n k =>
    let u := min e k
    some (compare (scaled a m e u) (scaled b n k u))

/-- The value is NaN. -/
def Num.isNan : Num → Bool
  | .nan => true
  | _ => false

/-- The value is a finite zero. -/
def Num.isZero : Num → Bool
  | .fin _ 0 _ => true
  | _ => false

/-- Sign of a value; NaN has none. -/
def Num.sign : Num → Bool
  | .nan => false
  | .inf s => s
  | .fin s _ _ => s

/-- Exponent of the leading bit of a non-zero finite value. -/
def top (m : Nat) (e : Int) : Int := (m.log2 : Int) + e

/-- Square root of a natural number, rounded down: from bit n downward. -/
def isqrt (x : Nat) : Nat → Nat → Nat
  | 0, r => if (r + 1) * (r + 1) ≤ x then r + 1 else r
  | i + 1, r => let r' := r + 2 ^ (i + 1); isqrt x i (if r' * r' ≤ x then r' else r)

/-- A quotient cut at 80 bits with a last bit that stands for what was cut: it rounds to any format as the exact one. -/
def Num.div : Num → Num → Num
  | .nan, _ => .nan
  | _, .nan => .nan
  | .inf _, .inf _ => .nan
  | .inf a, .fin b _ _ => .inf (a != b)
  | .fin a _ _, .inf b => .fin (a != b) 0 0
  | .fin a m e, .fin b n k =>
    if n = 0 then (if m = 0 then .nan else .inf (a != b))
    else if m = 0 then .fin (a != b) 0 0
    else
      let h := 80 + n.log2
      let q := m * 2 ^ h / n
      .fin (a != b) (2 * q + (if m * 2 ^ h % n = 0 then 0 else 1)) (e - k - h - 1)

/-- A square root cut likewise (R117). -/
def Num.sqrt : Num → Num
  | .nan => .nan
  | .inf s => if s then .nan else .inf false
  | .fin s m e =>
    if m = 0 then .fin s 0 0
    else if s then .nan
    else
      let odd := e % 2 != 0
      let x := (if odd then 2 * m else m) * 2 ^ 160
      let e := if odd then e - 1 else e
      let r := isqrt x (x.log2 / 2 + 1) 0
      .fin false (2 * r + (if r * r = x then 0 else 1)) (e / 2 - 81)

/-! ### Rounding (R144, R145) -/

/-- Mix of R145. -/
def mix (x : Imm32) : Imm32 :=
  let x := (x ^^^ (x >>> 16)) * 0x7FEB352D
  let x := (x ^^^ (x >>> 15)) * 0x846CA68B
  x ^^^ (x >>> 16)

/-- SRHash of R145. -/
def srHash (seed lane elem step : Imm32) : Imm32 := mix (mix (mix (seed ^^^ lane) ^^^ elem) ^^^ step)

/-- The choice between lo and lo + 1 for a magnitude lo + rem / 2^sh: true takes the higher (R144). With `draw`, stochastic
rounding. -/
def roundUp (rm : Nat) (draw : Option Imm32) (neg : Bool) (lo rem sh : Nat) : Bool :=
  if rem = 0 then false
  else match draw with
    | some h => h.toNat < rem * 2 ^ 32 / 2 ^ sh
    | none =>
      match rm with
      | 0 => 2 ^ sh < 2 * rem || (2 * rem == 2 ^ sh && lo % 2 == 1)
      | 1 => false
      | 2 => !neg
      | _ => neg

/-- A magnitude m × 2^e as lo, rem and shift at the unit 2^u. -/
def cut (m : Nat) (e u : Int) : Nat × Nat × Nat :=
  let sh := (u - e).toNat
  if u ≤ e then (m * 2 ^ (e - u).toNat, 0, 0) else (m / 2 ^ sh, m % 2 ^ sh, sh)

/-- RoundTo(y, t, ·) of R144, as a code; `draw` is the hash where stochastic rounding is in force and permitted. -/
def roundTo (c : Fcr) (t : Ty) (draw : Option Imm32) (y : Num) : Nat :=
  match fmtOf t with
  | none => 0
  | some f =>
    let sg (n : Bool) (x : Nat) := x + (if n then 2 ^ (f.w - 1) else 0)
    let infty := f.top + 1
    match y with
    | .nan => if t.isWide then qnan t else 0
    | .inf n => sg n (if t.isWide then infty else f.top)
    | .fin n m e =>
      if m = 0 then sg n 0
      else
        let emin : Int := 1 - (f.bias : Int)
        let u := max (top m e) emin - f.f
        let (lo, rem, sh) := cut m e u
        let r := if roundUp c.rm draw n lo rem sh then lo + 1 else lo
        let code := ((u + f.f - emin).toNat) * 2 ^ f.f + r
        let code :=
          if f.top < code then
            if !t.isWide || c.rm = 1 || (c.rm = 2 && n) || (c.rm = 3 && !n) then f.top else infty
          else code
        sg n (if t.isWide && c.ftz && code < 2 ^ f.f then 0 else code)

/-- A finite value rounded to an integer under RM, or under mode 4, to nearest with ties away from zero (R131). -/
def roundInt (rm : Nat) (n : Bool) (m : Nat) (e : Int) : Nat :=
  let (lo, rem, sh) := cut m e 0
  if rm = 4 then (if rem != 0 && 2 ^ sh ≤ 2 * rem then lo + 1 else lo)
  else if roundUp rm none n lo rem sh then lo + 1 else lo

/-- A value clamped to a range of integers. -/
def clampI (lo hi v : Int) : Int := max lo (min hi v)

/-- Least and greatest value of an integer type (R136). -/
def tyLo (t : Ty) : Int := if t.isSigned then -(2 ^ (t.width - 1) : Int) else 0
def tyHi (t : Ty) : Int := if t.isSigned then 2 ^ (t.width - 1) - 1 else 2 ^ t.width - 1

/-- The low w bits of an integer. -/
def wrap (w : Nat) (v : Int) : Nat := (v % (2 ^ w : Int)).toNat

/-- A floating value converted to an integer type: rounded under RM and clamped (R130). -/
def numToInt (rm : Nat) (t : Ty) (y : Num) : Int :=
  match y with
  | .nan => 0
  | .inf n => if n then tyLo t else tyHi t
  | .fin n m e =>
    let v : Int := roundInt rm n m e
    clampI (tyLo t) (tyHi t) (if n then -v else v)

/-! ### Special functions (R117) -/

/-- The special functions that are evaluated to a bound. -/
inductive Spf where
  | rcp | rsq | ex2 | lg2 | tnh | lgs | sin | cos
  deriving DecidableEq, Repr

/-- Number of the function, to tell free values apart. -/
def Spf.code : Spf → Nat
  | .rcp => 0
  | .rsq => 1
  | .ex2 => 2
  | .lg2 => 3
  | .tnh => 4
  | .lgs => 5
  | .sin => 6
  | .cos => 7

/-- π and ln 2 with 320 fraction bits, cut. -/
def piFix : Nat := 0x3243f6a8885a308d313198a2e03707344a4093822299f31d0082efa98ec4e6c89452821e638d01377
def ln2Fix : Nat := 0xb17217f7d1cf79abc9e3b39803f2f6af40f343267298b62d8a0d175b8baafa2be7b876206debac98

/-- The sum of x^k / k! from term t on: every term, every second with alternating sign (R117's series). -/
def expSer (x : Nat) : Nat → Nat → Nat → Nat
  | 0, _, _ => 0
  | n + 1, k, t => t + expSer x n (k + 1) (t * x / 2 ^ 320 / k)

/-- The alternating series of sine and cosine in steps of two. -/
def trigSer (x2 : Nat) : Nat → Nat → Nat → Nat × Nat
  | 0, _, _ => (0, 0)
  | n + 1, k, t => let (a, b) := trigSer x2 n (k + 2) (t * x2 / 2 ^ 320 / (k * (k + 1))); (t + b, a)

/-- 2^r with 320 fraction bits, for a fraction r with 320 bits. -/
def exp2Fix (r : Nat) : Nat := expSer (r * ln2Fix / 2 ^ 320) 72 1 (2 ^ 320)

/-- Bits of log2 of x in [1, 2), x with 160 fraction bits. -/
def log2Ser (x : Nat) : Nat → Nat → Nat
  | 0, r => r
  | n + 1, r =>
    let y := x * x / 2 ^ 160
    if 2 ^ 161 ≤ y then log2Ser (y / 2) n (2 * r + 1) else log2Ser y n (2 * r)

/-- A finite value with 320 fraction bits, rounded toward −∞, as an integer. -/
def fixed (n : Bool) (m : Nat) (e : Int) : Int :=
  let v := scaled n m e (min e (-320))
  v / 2 ^ (-320 - min e (-320)).toNat

/-- 2^v for v with 320 fraction bits, as a mantissa and an exponent. -/
def exp2Num (v : Int) : Nat × Int := (exp2Fix (v % 2 ^ 320).toNat, v / 2 ^ 320 - 320)

/-- An enclosing value of a special function from below in magnitude, where no exact or special case applies: sign, mantissa
and exponent. -/
def spfNear (f : Spf) (n : Bool) (m : Nat) (e : Int) : Bool × Nat × Int :=
  match f with
  | .rcp => (n, 2 ^ (m.log2 + 100) / m, -e - (m.log2 + 100 : Nat))
  | .rsq =>
    let m' := if e % 2 != 0 then 2 * m else m
    let e' := if e % 2 != 0 then e - 1 else e
    let x := 2 ^ (2 * (m'.log2 + 100)) / m'
    (false, isqrt x (x.log2 / 2 + 1) 0, -(e' / 2) - (m'.log2 + 100 : Nat))
  | .ex2 => let (a, b) := exp2Num (fixed n m e); (false, a, b)
  | .lg2 =>
    let k := top m e
    let fr := log2Ser (m * 2 ^ 160 / 2 ^ m.log2) 140 0
    let v : Int := k * 2 ^ 140 + fr
    (v < 0, (if v < 0 then (-v).toNat - 1 else v.toNat), -140)
  | .tnh =>
    if top m e < -20 then (n, m * 2 ^ 40 - 1, e - 40)
    else
      let x := (fixed false m e).toNat
      let v : Int := (2 * x * 2 ^ 320 / ln2Fix : Nat)
      let (a, b) := exp2Num v
      let s := 2 ^ ((b + 320).toNat)
      let p := a * s
      (n, (p - 2 ^ 320) * 2 ^ 320 / (p + 2 ^ 320), -320)
  | .lgs =>
    let x := fixed false m e
    let v : Int := x * 2 ^ 320 / ln2Fix
    let (a, b) := exp2Num v
    let p := a * 2 ^ ((b + 320).toNat)
    (false, (if n then 2 ^ 640 / (p + 2 ^ 320) else p * 2 ^ 320 / (p + 2 ^ 320)), -320)
  | .sin =>
    let r := (fixed false m e) % 2 ^ 321
    let neg := 2 ^ 320 ≤ r
    let r := (r % 2 ^ 320).toNat
    let r := if 2 ^ 319 < r then 2 ^ 320 - r else r
    let x := r * piFix / 2 ^ 320
    let (a, b) := trigSer (x * x / 2 ^ 320) 48 2 x
    (n != neg, a - b, -320)
  | .cos =>
    let r := ((fixed false m e) % 2 ^ 321).toNat
    let r := if 2 ^ 320 < r then 2 ^ 321 - r else r
    let neg := 2 ^ 319 < r
    let r := if neg then 2 ^ 320 - r else r
    let x := (2 ^ 319 - r) * piFix / 2 ^ 320
    let (a, b) := trigSer (x * x / 2 ^ 320) 48 2 x
    (neg, a - b, -320)

/-- An FP32 result within the bound of the function around a value from below: which of the codes within the bound it is, the
specification leaves open; an overflow of a reciprocal is infinity (R117). -/
def spfPick (f : Spf) (key : Nat) (n : Bool) (m : Nat) (e : Int) : Nat :=
  let lo := roundTo ⟨1, false, false, false, 0⟩ .f32 none (.fin false m e)
  let d := (Config.special f.code (BitVec.ofNat 32 key)).toNat % (if f == .rcp then 2 else 4)
  let code :=
    if m = 0 || top m e < -149 then 0
    else if f == .rcp then (if 128 ≤ top m e then 0x7F800000 else lo + d)
    else if d = 0 then lo - 1
    else if d = 3 && (lo + 1) % 2 ^ 23 = 0 then lo + 1
    else lo + d - 1
  (if 0x7F800000 < code then 0x7F800000 else code) + (if n then 2 ^ 31 else 0)

/-- A finite value is an integer. -/
def isInt (m : Nat) (e : Int) : Bool := 0 ≤ e || m % 2 ^ (-e).toNat = 0

/-- A finite value is an integer and one half. -/
def isHalf (m : Nat) (e : Int) : Bool := !isInt m e && isInt m (e + 1)

/-- An exact FP32 code of ±2^k with a normal result, if there is one. -/
def pow2Code (n : Bool) (k : Int) : Option Nat :=
  if -126 ≤ k && k ≤ 127 then some ((k + 127).toNat * 2 ^ 23 + (if n then 2 ^ 31 else 0)) else none

/-- FP32 result of a special function (R117): special inputs and exact cases as the table gives them, and otherwise some code
within the bound. -/
def spf (f : Spf) (y : Num) : Nat :=
  let one := 0x3F800000
  let infty := 0x7F800000
  let sg (n : Bool) (x : Nat) := x + (if n then 2 ^ 31 else 0)
  match y with
  | .nan => qnan .f32
  | .inf n =>
    match f with
    | .rcp => sg n 0
    | .rsq => if n then qnan .f32 else 0
    | .ex2 => if n then 0 else infty
    | .lg2 => if n then qnan .f32 else infty
    | .tnh => sg n one
    | .lgs => if n then 0 else one
    | .sin => qnan .f32
    | .cos => qnan .f32
  | .fin n m e =>
    let p2 := isPow2 m
    let k := top m e
    let near := spfNear f n m e
    let key := roundTo ⟨0, false, false, false, 0⟩ .f32 none y
    let rest := spfPick f key near.1 near.2.1 near.2.2
    if m = 0 then
      match f with
      | .rcp => sg n infty
      | .rsq => sg n infty
      | .ex2 => one
      | .lg2 => sg true infty
      | .tnh => sg n 0
      | .lgs => 0x3F000000
      | .sin => sg n 0
      | .cos => one
    else match f with
      | .rcp => if p2 then (pow2Code n (-k)).getD rest else rest
      | .rsq => if n then qnan .f32 else if p2 && k % 2 = 0 then (pow2Code false (-(k / 2))).getD rest else rest
      | .ex2 =>
        if !n && 7 ≤ k then infty
        else if n && 9 ≤ k then 0
        else if isInt m e then (pow2Code false (fixed n m e / 2 ^ 320)).getD rest
        else rest
      | .lg2 =>
        if n then qnan .f32
        else if p2 then roundTo ⟨0, false, false, false, 0⟩ .f32 none (numOfInt k)
        else rest
      | .tnh => if (Num.fin false (10 * m) e).cmp (.fin false 91 0) != some .lt then sg n one else rest
      | .lgs => if 8 ≤ k then (if n then 0 else spfPick f key false (2 ^ 60 - 1) (-60)) else rest
      | .sin => if isInt m e then sg n 0 else if isHalf m e then sg (n != ((fixed false m e / 2 ^ 320) % 2 != 0)) one else rest
      | .cos =>
        if isInt m e then sg ((fixed false m e / 2 ^ 320) % 2 != 0) one else if isHalf m e then 0 else rest

/-- A special function at type t: for .bf16 and .f16 the FP32 value is rounded once more under RNE; FTZ acts on the
result (R117). -/
def spfAt (c : Fcr) (t : Ty) (f : Spf) (x : Nat) : Nat :=
  let r := spf f (real c t x)
  let z : Fcr := ⟨0, false, c.ftz, false, 0⟩
  roundTo z t none (real ⟨0, false, false, false, 0⟩ .f32 r)

end Sys2Proof.Machine
end

