-- ==== Sys2Proof/Machine/Flags.lean ====
section
/-!
DEFINITION. The conditions of the compares (R119), the signed and unsigned conditions of the scalar instructions (R78, R82),
and the tag rules (R76, R111, R126).
-/
namespace Sys2Proof.Machine

/-- COND of VCMP (R119): apart from .ne and .uno a NaN operand makes the condition false. -/
def condF (c : Nat) (a b : Num) : Bool :=
  match c, a.cmp b with
  | 0, some o => o == .eq
  | 1, some o => o != .eq
  | 1, none => true
  | 2, some o => o == .lt
  | 3, some o => o != .gt
  | 4, some o => o == .gt
  | 5, some o => o != .lt
  | 6, o => o.isSome
  | 7, o => o.isNone
  | _, _ => false

/-- COND of VICMP (R119). -/
def condI (c : Nat) (a b : Int) : Bool :=
  match c with
  | 0 => a == b
  | 1 => a != b
  | 2 => a < b
  | 3 => a ≤ b
  | 4 => b < a
  | 5 => b ≤ a
  | _ => false

/-- A truth value as the result of a comparison. -/
def flagWord (b : Bool) : Word := if b then 1 else 0

/-- A result and the OR of the tags of its sources (R76). -/
def tag2 (f : Word → Word → Word) (a b : Word × Bool) : Word × Bool := (f a.1 b.1, a.2 || b.2)

/-- A result of one source with its tag. -/
def tag1 (f : Word → Word) (a : Word × Bool) : Word × Bool := (f a.1, a.2)

/-- The tags of sectors under the lanes of a row, where every lane is written (R126, R128). -/
def sectorOr (w : Nat) (l : List Bool) : BitVec 32 :=
  let n := 256 / w
  sectorBits fun j => ((l.drop (j * n)).take n).any id

end Sys2Proof.Machine
end

