-- ==== Sys2Proof/Machine/Address.lean ====
section
/-!
DEFINITION. Address registers and modifiers (R98).
-/
namespace Sys2Proof.Machine

/-- An AR instruction that writes an a register with bound 1 (R98). -/
def arith (s : State) (i : Instr) (ad : AReg) (v : At → Word × Bool) : Result :=
  attempt s i fun e => e.plan [] (e.fly 1 (.a ad (v e).1 (v e).2))

/-- Meaning of AADD: the sum, tags joined (R98). -/
def execAadd (ad aa : AReg) (sb : SReg) (s : State) : Result :=
  arith s (.aadd ad aa sb) ad fun e => tag2 (· + ·) (e.aGet aa) (e.sGet sb)

/-- Meaning of AADDI (R98). -/
def execAaddi (ad aa : AReg) (imm : Imm32) (s : State) : Result :=
  arith s (.aaddi ad aa imm) ad fun e => tag1 (fun a => a + simm imm) (e.aGet aa)

/-- Meaning of AMOV (R98). -/
def execAmov (ad : AReg) (sb : SReg) (s : State) : Result := arith s (.amov ad sb) ad fun e => e.sGet sb

/-- Meaning of AGET of an a register (R98). -/
def execAgetA (sb : SReg) (aa : AReg) (s : State) : Result :=
  attempt s (.agetA sb aa) fun e => e.plan [] (e.fly 1 (.s sb (e.aGet aa).1 (e.aGet aa).2))

/-- Meaning of AGET of a modifier: tag clear (R98). -/
def execAgetM (sb : SReg) (md : MReg) (s : State) : Result :=
  attempt s (.agetM sb md) fun e => e.plan [] (e.fly 1 (.s sb (e.mGet md) false))

/-- Meaning of AMODS: any value is stored, its reserved bits dropped; a poisoned one faults (R98, R19, R6). -/
def execAmods (md : MReg) (sb : SReg) (s : State) : Result :=
  attempt s (.amods md sb) fun e => e.plan (e.poisS 1 sb) (e.fly 1 (.m md ((e.sGet sb).1 &&& ~~~0xC)))

end Sys2Proof.Machine
end

