-- ==== Sys2Proof/Machine/Control.lean ====
section
/-!
DEFINITION. Branches, jumps, loops and the predicate and queue branches of the S syllable (R82 to R89).
-/
namespace Sys2Proof.Machine

/-- The pc that the bundle will continue at is chosen (R82). -/
def At.goto (e : At) (s : State) (a : Word) : State := s.modSeat e.c e.k fun q => { q with npc := some a }

/-- Target of a branch: pc + OFF32 × 32 (R82). -/
def At.target (e : At) (off : Imm32) : Word := e.q.pc + simm off * 32

/-- A branch on a condition; a poisoned condition raises F_POISON (R76, R82). -/
def branch (s : State) (i : Instr) (sa sb : SReg) (off : Imm32) (cond : Word → Word → Bool) : Result :=
  attempt s i fun e =>
    e.plan (e.poisS 0 sa ++ e.poisS 0 sb)
      (if cond (e.sGet sa).1 (e.sGet sb).1 then e.goto e.s (e.target off) else e.s)

/-- Meaning of BR: always taken (R82). -/
def execBr (off : Imm32) (s : State) : Result := attempt s (.br off) fun e => e.plan [] (e.goto e.s (e.target off))

/-- Meaning of BEQ (R82). -/
def execBeq (sa sb : SReg) (off : Imm32) (s : State) : Result := branch s (.beq sa sb off) sa sb off fun a b => a == b
/-- Meaning of BNE (R82). -/
def execBne (sa sb : SReg) (off : Imm32) (s : State) : Result := branch s (.bne sa sb off) sa sb off fun a b => a != b
/-- Meaning of BLT: signed (R82). -/
def execBlt (sa sb : SReg) (off : Imm32) (s : State) : Result := branch s (.blt sa sb off) sa sb off fun a b => a.slt b
/-- Meaning of BGE: signed (R82). -/
def execBge (sa sb : SReg) (off : Imm32) (s : State) : Result := branch s (.bge sa sb off) sa sb off fun a b => !a.slt b
/-- Meaning of BLTN: unsigned (R82). -/
def execBltn (sa sb : SReg) (off : Imm32) (s : State) : Result := branch s (.bltn sa sb off) sa sb off fun a b => a.ult b
/-- Meaning of BGEN: unsigned (R82). -/
def execBgen (sa sb : SReg) (off : Imm32) (s : State) : Result := branch s (.bgen sa sb off) sa sb off fun a b => !a.ult b

/-- Meaning of JAL: the link is pc + 32, tag clear, bound 1 (R82). -/
def execJal (sd : SReg) (off : Imm32) (s : State) : Result :=
  attempt s (.jal sd off) fun e => e.plan [] (e.goto (e.fly 1 (.s sd (e.q.pc + 32) false)) (e.target off))

/-- Meaning of JALR: to sA + simm, which must be a multiple of 32 (R83). -/
def execJalr (sd sa : SReg) (imm : Imm32) (s : State) : Result :=
  attempt s (.jalr sd sa imm) fun e =>
    let t := (e.sGet sa).1 + simm imm
    e.plan (e.poisS 0 sa ++ (if t.toNat % 32 = 0 then [] else [⟨70, 0, fAlign, t, none⟩]))
      (e.goto (e.fly 1 (.s sd (e.q.pc + 32) false)) t)

/-- The loop registers set for n turns of a body that ends at distance d; no turn skips the body (R85). -/
def At.loop (e : At) (n : BitVec 32) (d : Bits20) : State :=
  let le := e.q.pc + BitVec.ofNat 64 (32 * d.toNat)
  let s := e.s.modSeat e.c e.k fun q => { q with ls := e.q.pc + 32, le := le, lc := n }
  if n = 0 then e.goto s (le + 32) else s

/-- Meaning of LOOP with an immediate count (R85). -/
def execLoopImm (cnt dist : Bits20) (s : State) : Result :=
  attempt s (.loopImm cnt dist) fun e => e.plan [] (e.loop (cnt.zeroExtend 32) dist)

/-- Meaning of LOOP with a count in sA: bits 31:0 (R85). -/
def execLoopReg (sa : SReg) (dist : Bits20) (s : State) : Result :=
  attempt s (.loopReg sa dist) fun e => e.plan (e.poisS 0 sa) (e.loop ((e.sGet sa).1.setWidth 32) dist)

/-- The rotation bases lowered (R87). -/
def At.rotate (e : At) (vstep : Bits6) (pstep : Bits3) : State :=
  e.s.modSeat e.c e.k fun q => { q with vrb := q.vrb - vstep, prb := q.prb - pstep }

/-- Meaning of LCLOSE (R87). -/
def execLclose (vstep : Bits6) (pstep : Bits3) (s : State) : Result :=
  attempt s (.lclose vstep pstep) fun e => e.plan [] (e.rotate vstep pstep)

/-- Meaning of LCLOSE.x: the loop is closed at once (R87). -/
def execLcloseX (vstep : Bits6) (pstep : Bits3) (s : State) : Result :=
  attempt s (.lcloseX vstep pstep) fun e =>
    e.plan [] (e.goto ((e.rotate vstep pstep).modSeat e.c e.k fun q => { q with lc := 0 }) (e.q.le + 32))

/-- Lanes that a lane-type code of a predicate branch tests (R46, R88). -/
def ltLanes (lt : Bits2) : Nat := 128 * 2 ^ lt.toNat

/-- Meaning of BPANY: taken if any bit below the lane count is set (R88). -/
def execBpany (pn : PReg) (lt : Bits2) (off : Imm32) (s : State) : Result :=
  attempt s (.bpany pn lt off) fun e =>
    e.plan [] (if (e.pGet pn).toNat % 2 ^ ltLanes lt != 0 then e.goto e.s (e.target off) else e.s)

/-- Meaning of BPALL: taken if all of them are set (R88). -/
def execBpall (pn : PReg) (lt : Bits2) (off : Imm32) (s : State) : Result :=
  attempt s (.bpall pn lt off) fun e =>
    e.plan [] (if (e.pGet pn).toNat % 2 ^ ltLanes lt = 2 ^ ltLanes lt - 1 then e.goto e.s (e.target off) else e.s)

/-- Meaning of BQS: taken when the queue has at least sB free entries for the seat (R89, R178). -/
def execBqs (sa sb : SReg) (off : Imm32) (s : State) : Result :=
  attempt s (.bqs sa sb off) fun e =>
    let q := (e.sGet sa).1.toNat
    let pois := e.poisS 0 sa ++ e.poisS 0 sb
    let ill : List PCause := if pois.isEmpty && 2 < q then [⟨61, 0, fIllop, illopVal 0 0x3D, none⟩] else []
    let free := quota e.q.billet q - inUse (e.x.queue q) e.k
    e.plan (pois ++ ill) (if (e.sGet sb).1.toNat ≤ free then e.goto e.s (e.target off) else e.s)

end Sys2Proof.Machine
end

