-- ==== Sys2Proof/Machine/Block.lean ====
section
/-!
DEFINITION. The parameter blocks of engine commands: their fields and limits (R198, R200, R230, R231), and the addresses of a
step (R199).
-/
namespace Sys2Proof.Machine

/-! ### Level records (R198, R199) -/

/-- A 32-bit field read as signed. -/
def sField (b : List Byte) (o : Nat) : Int := (BitVec.ofNat 32 (field b o 4)).toInt

/-- CNT of a level. -/
def lvCnt (b : List Byte) (l : Nat) : Nat := field b (32 + 24 * l) 2

/-- Levels in use. -/
def blkLev (b : List Byte) : Nat := field b 5 1

/-- NSTEP: the product of CNT over the levels in use (R199). -/
def blkSteps (b : List Byte) : Nat := (List.range (blkLev b)).foldl (fun n l => n * lvCnt b l) 1

/-- Steps of the levels below a level. -/
def lvBelow (b : List Byte) (l : Nat) : Nat := (List.range l).foldl (fun n i => n * lvCnt b i) 1

/-- Loop index of a level at a step (R199). -/
def lvIndex (b : List Byte) (l s : Nat) : Nat := if lvCnt b l = 0 then 0 else s / lvBelow b l % lvCnt b l

/-- Which stride of a level record: 0 DA, 1 DB, 2 DC, 3 DSA, 4 DSB. -/
def lvStride (b : List Byte) (l which : Nat) : Int := sField b (32 + 24 * l + 4 + 4 * which)

/-- Sum of loop index times stride over the levels (R199). -/
def blkOff (b : List Byte) (which s : Nat) : Int :=
  (List.range (blkLev b)).foldl (fun (a : Int) l => a + (lvIndex b l s : Int) * lvStride b l which) 0

/-- A step's address from a 32-bit base field: two's complement, read as unsigned (R199). -/
def addr32 (b : List Byte) (base which s : Nat) : Nat :=
  (((field b base 4 : Int) + blkOff b which s) % 2 ^ 32).toNat

/-- A step's address from a 64-bit base field. -/
def addr64 (b : List Byte) (base which s : Nat) : Nat :=
  (((field b base 8 : Int) + blkOff b which s) % 2 ^ 64).toNat

/-! ### Limits (R198, R200, R230, R231) -/

/-- The ranges of zero bytes among given offsets: the first byte that is not zero. -/
def firstNonZero (b : List Byte) : List (Nat × Nat) → Option Nat
  | [] => none
  | (o, n) :: r =>
    match (List.range n).find? fun i => (b.getD (o + i) 0) != 0 with
    | some i => some (o + i)
    | none => firstNonZero b r

/-- Bad fields of the level records (R198): a count of 0, a non-zero unused field, or a record above NLEV that is not zero. The
strides in use are listed by number. -/
def lvBad (b : List Byte) (used : List Nat) : List Nat :=
  (List.range 6).flatMap fun l =>
    let o := 32 + 24 * l
    if l < blkLev b then
      (if lvCnt b l = 0 then [o] else []) ++ (if field b (o + 2) 2 != 0 then [o + 2] else [])
        ++ (List.range 5).filterMap fun i =>
          if !used.contains i && field b (o + 4 + 4 * i) 4 != 0 then some (o + 4 + 4 * i) else none
    else match firstNonZero b [(o, 24)] with
      | some x => [if x < o + 2 then o else if x < o + 4 then o + 2 else o + 4 + (x - o - 4) / 4 * 4]
      | none => []

/-- A list of tests: the offsets of the fields that fail. -/
def failing (l : List (Bool × Nat)) : List Nat := l.filterMap fun p => if p.1 then some p.2 else none

/-- An A type code of the array: .bf16, or a microscaling type (R198). -/
def atyOk (c : Nat) : Bool := c = 1 || (3 ≤ c && c ≤ 8)

/-- Offsets of the offending fields of a tensor-operator block for a command (R198, R200); for a WLOAD of elements a BBASE that is not
a multiple of 64 is one (R213, log 73), and so are a DSA of an MMAD that is not a multiple of 512 and QMX with an output type without
scales (R199, R200, log 83). -/
def matBad (opc q : Nat) (b : List Byte) : List Nat :=
  let kind := field b 0 1
  let want := if opc = 0x04 then 2 else if opc = 0x06 then 3 else 1
  let fl := field b 3 1
  let f (i : Nat) := fl.testBit i
  let mma := want = 1
  let mmad := opc = 0x02
  let mepi := want = 2
  let wl := want = 3
  let aty := field b 1 1
  let bty := field b 2 1
  let nlev := blkLev b
  let nz (o n : Nat) : Bool := field b o n != 0
  if kind != want then [0]
  else
    failing [
      (mma && !atyOk aty, 1), (mepi && !(aty ≤ 8 || aty = 10), 1), (wl && aty != 0, 1),
      (mepi && f 6 && !(3 ≤ aty && aty ≤ 8), 1), (mepi && aty = 8 && !f 6, 1),
      (mma && !((bty = 1 && aty = 1) || (3 ≤ bty && bty ≤ 8 && aty != 1)), 2), (!mma && bty != 0, 2),
      (f 0 && !mma, 3), (f 1 && !mma, 3), (f 1 && mmad, 3), (f 2 && (wl || q = 2), 3), (f 3 && !mmad, 3),
      ((f 4 || f 5 || f 6) && !mepi, 3), (f 7 && !wl, 3),
      (!mma && nz 4 1, 4), (64 ≤ field b 4 1, 4),
      (nlev = 0 || 6 < nlev, 5),
      (if mepi then 3 < field b 6 1 else nz 6 1, 6), (nz 7 1, 7),
      (!mma && nz 8 4, 8), (mepi && nz 12 4, 12), (!mepi && field b 12 4 % 8 != 0, 12),
      (wl && !f 7 && field b 12 4 % 64 != 0, 12),
      (wl && nz 16 4, 16), (!mma && nz 20 4, 20), (mma && field b 20 4 % 512 != 0, 20),
      (!mma && nz 24 4, 24), (mma && field b 24 4 % 4 != 0, 24), (nz 28 4, 28)]
    ++ lvBad b (if wl then [0, 1] else if mepi then [0, 2, 3] else [0, 1, 2, 3, 4])
    ++ (if mmad then (List.range nlev).filterMap fun l =>
          if lvStride b l 3 % 512 != 0 then some (32 + 24 * l + 16) else none else [])
    ++ failing [
      (!mepi && nz 176 4, 176), (!mepi && nz 180 4, 180), (!mmad && nz 184 4, 184), (!mmad && nz 188 4, 188), (field b 188 4 % 64 != 0, 188), (!mmad && nz 192 4, 192), (!mmad && nz 196 4, 196),
      (field b 196 4 % 512 != 0, 196), (!mmad && nz 200 4, 200), (!mepi && nz 204 4, 204), (!mepi && nz 208 4, 208),
      (field b 208 4 % 512 != 0, 208), (nz 212 4, 212), (field b 216 8 % 32 != 0, 216), (!wl && nz 224 8, 224),
      (field b 224 8 % 64 != 0, 224)]
    ++ (match firstNonZero b [(232, 24)] with
      | some _ => [232]
      | none => [])
    ++ (if blkSteps b ≤ 2 ^ 32 - 1 then [] else [32])

/-- Offsets of the offending fields of a transfer block (R230, R231). `n` is the rectangle's core count. -/
def xferBad (opc n : Nat) (b : List Byte) : List Nat :=
  let want := opc - 0x10 + 4
  let tx := want = 4
  let drain := want = 6
  let mc := want = 7
  let fl := field b 3 1
  let sk := fl.testBit 0
  let dk := fl.testBit 1
  let nz (o n : Nat) : Bool := field b o n != 0
  let rlen := field b 8 4
  let nlev := blkLev b
  let mask := field b 176 8
  if field b 0 1 != want then [0]
  else
    failing [
      (if tx || drain then 6 < field b 1 1 else nz 1 1, 1), (nz 2 1, 2),
      (fl / 8 != 0 || (!tx && (sk || dk)) || (fl.testBit 2 && !drain) || (sk && dk), 3), (nz 4 1, 4),
      (nlev = 0 || 6 < nlev, 5), (nz 6 2, 6),
      (rlen % 64 != 0 || rlen = 0 || 16384 < rlen || (!tx && rlen % 1024 != 0), 8), (nz 12 4, 12),
      (!drain && field b 16 8 % 64 != 0, 16), ((tx || drain) && field b 24 8 % 64 != 0, 24)]
    ++ lvBad b [0, 1]
    ++ failing [(!mc && nz 176 8, 176), (mc && (mask = 0 || 2 ^ n ≤ mask), 176), (!mc && nz 184 8, 184),
      (field b 184 8 % 64 != 0, 184)]
    ++ (match firstNonZero b [(192, 24)] with
      | some _ => [192]
      | none => [])
    ++ failing [(field b 216 8 % 32 != 0, 216)]
    ++ (match firstNonZero b [(224, 32)] with
      | some _ => [224]
      | none => [])
    ++ (if blkSteps b ≤ 2 ^ 32 - 1 then [] else [32])

/-- Opcode of a transfer command (R229). -/
def isXfer (opc : Nat) : Bool := 0x10 ≤ opc && opc ≤ 0x13

/-- The lowest offset of an offending field of a block, if there is one (R200, R231; log 13). -/
def blkBad (opc q cores : Nat) (b : List Byte) : Option Nat :=
  match if isXfer opc then xferBad opc cores b else matBad opc q b with
  | [] => none
  | o :: r => some (r.foldl min o)

/-! ### Ranges of a step -/

/-- Bits of an element of a type code (R41). -/
def tyBits : Nat → Nat
  | 0 => 32
  | 1 => 16
  | 2 => 16
  | 3 => 8
  | 4 => 8
  | 5 => 6
  | 6 => 6
  | 7 => 4
  | _ => 8

/-- Flag i of a block. -/
def blkFlag (b : List Byte) (i : Nat) : Bool := (field b 3 1).testBit i

/-- Columns of a command (R193). -/
def colsOf (q : Nat) : Nat := if q = 2 then 256 else 128

/-- A range of the machine that a step names: kind, first place and length, the block's base field for its address, and whether the
step writes it. Kinds: 0 granary rows, 1 window rows, 2 slice bytes, 3 scale-slice bytes, 4 memory bytes. -/
structure Rng where
  kind : Nat
  lo : Nat
  len : Nat
  base : Nat
  wr : Bool
  deriving DecidableEq, Repr

/-- Window rows that hold window bytes. -/
def winBytes (lo n base : Nat) (wr : Bool) : Rng := ⟨1, lo / 1024, (lo + n - 1) / 1024 + 1 - lo / 1024, base, wr⟩

/-- Window byte address of the delta mask of a step (R199). -/
def maskAddr (b : List Byte) (s : Nat) : Nat :=
  (((field b 188 4 : Int) + ((addr32 b 20 3 s : Int) - field b 20 4) / 8) % 2 ^ 32).toNat

/-- What step s of a matrix command names, apart from memory (R201). -/
def matRanges (opc q : Nat) (zrow zrows : Nat) (b : List Byte) (s : Nat) : List Rng :=
  let src := if blkFlag b 0 then 1 else 0
  let na := tyBits (field b 1 1)
  let nb := tyBits (field b 2 1)
  let nc := colsOf q
  match opc with
  | 0x03 => [⟨1, zrow + 128 * s, min 128 (zrows - 128 * s), 0, true⟩]
  | 0x04 =>
    [⟨1, addr32 b 16 2 s, 128, 16, false⟩] ++ (if blkFlag b 4 then [⟨1, field b 180 4, 1, 180, false⟩] else [])
      ++ [⟨0, addr32 b 204 0 s, 16 * nc * na / 1024, 204, true⟩]
      ++ (if blkFlag b 6 then [winBytes (addr32 b 208 3 s) (512 * (nc / 128)) 208 true] else [])
  | 0x06 =>
    let n := if q = 2 then 64 else 128
    [⟨if blkFlag b 7 then 3 else 2, addr32 b 12 1 s, n, 12, true⟩]
  | _ =>
    let mx := field b 1 1 != 1
    [⟨src, addr32 b 8 0 s, 2 * na, 8, false⟩, ⟨2, addr32 b 12 1 s, 16 * nb, 12, false⟩,
      ⟨1, addr32 b 16 2 s, 128, 16, true⟩]
      ++ (if mx then [winBytes (addr32 b 20 3 s) 512 20 false, ⟨3, addr32 b 24 4 s, 4, 24, false⟩] else [])
      ++ (if opc = 0x02 then
          (if blkFlag b 3 then []
            else [winBytes (maskAddr b s) 64 188 false])
          ++ [⟨src, addr32 b 192 0 s, 2 * na, 192, false⟩]
          ++ (if mx then [winBytes (addr32 b 196 3 s) 512 196 false] else [])
          ++ [⟨1, addr32 b 200 2 s, 128, 200, false⟩]
        else [])

/-- What step s of a transfer names (R232): source, then destination. -/
def xferRanges (opc : Nat) (b : List Byte) (s : Nat) : List Rng :=
  let n := field b 8 4
  let src := addr64 b 16 0 s
  let dst := addr64 b 24 1 s
  let side (kind a base : Nat) (wr : Bool) : Rng :=
    if kind = 1 then { winBytes a n base wr with kind := 1 }
    else if kind = 0 then ⟨0, a, n / 1024, base, wr⟩ else ⟨4, a, n, base, wr⟩
  match opc with
  | 0x10 => [side (if blkFlag b 0 then 1 else 4) src 16 false, side (if blkFlag b 1 then 1 else 4) dst 24 true]
  | 0x11 => [side 4 src 16 false, side 0 dst 24 true]
  | 0x12 => [side 0 src 16 false, side 4 dst 24 true]
  | _ => [side 4 src 16 false, side 0 dst 24 true]

/-- What a step of an entry names. -/
def Entry.ranges (e : Entry) (b : List Byte) (s : Nat) : List Rng :=
  if isXfer e.opc.toNat then xferRanges e.opc.toNat b s else matRanges e.opc.toNat e.q.toNat e.zrow e.zrows b s

/-- Slots of a range of granary rows. -/
def slotsOf (r : Rng) : List Nat :=
  if r.kind = 0 && r.len != 0 then (List.range ((r.lo + r.len - 1) / 16 + 1 - r.lo / 16)).map (· + r.lo / 16) else []

/-- Slots that ranges name, rising. -/
def slotList (l : List Rng) : List Nat := l.foldl (fun a r => (slotsOf r).foldl insertNat a) []

/-- Slots that a step reads. -/
def readSlots (l : List Rng) : List Nat := slotList (l.filter fun r => !r.wr)
/-- Slots that a step writes. -/
def writeSlots (l : List Rng) : List Nat := slotList (l.filter fun r => r.wr)

/-- Rows that bundles and a command must not reach without order: the window rows that its steps read or write (R115), and the
granary rows that an MEPI writes (R223, true). Each once: whether of the granary, first row, row past the last, whether written. -/
def Entry.rows (e : Entry) (b : List Byte) : List (Bool × Nat × Nat × Bool) :=
  ((List.range e.nstep.toNat).flatMap fun s =>
    ((e.ranges b s).filter fun r => r.kind = 1 || (r.kind = 0 && e.opc = 0x04)).map fun r =>
      (decide (r.kind = 0), r.lo, r.lo + r.len, r.wr)).eraseDups

end Sys2Proof.Machine
end

