-- ==== Sys2Proof/Machine/EngineCmd.lean ====
section
/-!
DEFINITION. The commands of the matrix and transfer engines as their bundle enqueues them (R178, R179, R194, R197, R212, R229),
and the overflow event queue (R214, R215).
-/
namespace Sys2Proof.Machine

/-- What an engine command enqueues: its opcode and Q field, tokens, address, stamp and slack, and an MZERO's rows. -/
structure Cmd where
  opc : Nat
  q : Nat
  wt : SemR
  sg : SemR
  ss : SReg
  slk : Bits8
  pba : Word
  zrow : Nat
  zrows : Nat
  zlh : Bool

/-- Q field of a matrix command (R48). -/
def matQ (q : MatQ) : Nat := q.code.toNat

/-- Queues that a command enters (R194). -/
def Cmd.queues (d : Cmd) : List Nat := if isXfer d.opc then [2] else if d.q = 2 then [0, 1] else [d.q]

/-- Free entries of a queue. -/
def freeIx (t : Tab Entry) (n : Nat) : List Nat := (List.range (capacity n)).filter fun i => (t.find i).isNone

/-- The entry that a command takes in a queue: the FREE one of lowest index (R353). -/
def pickIx (t : Tab Entry) (n : Nat) : Nat := (freeIx t n).headD 0

/-- A queue has room for a command of the seat (R178). -/
def At.room (e : At) (n : Nat) : Bool :=
  inUse (e.x.queue n) e.k < quota e.q.billet n && !(freeIx (e.x.queue n) n).isEmpty

/-- Window rows for which a fixed-latency result is in flight: no bundle that issues now could read it (R54, R399). -/
def SeatSt.inFlight (q : SeatSt) : List Nat := q.fly.filterMap fun f => match f.w with
  | .row p _ _ _ _ => some (p - bWbase q.billet)
  | _ => none

/-- The entry of a command in a queue (R179); NSTEP of an MZERO, which has no block to read, is known at once (log 14). -/
def At.entry (e : At) (d : Cmd) (n : Nat) : Entry :=
  { st := .queued, seat := e.k, opc := BitVec.ofNat 8 d.opc, q := BitVec.ofNat 2 d.q, wt := d.wt, sg := d.sg, slk := d.slk,
    seq := e.q.seqOf n, stepc := 0,
    nstep := if d.opc = 0x03 then BitVec.ofNat 32 ((d.zrows + 127) / 128) else 0,
    pba := BitVec.ofNat 57 d.pba.toNat, fcr := e.q.fcr, stamped := d.ss != 0, stamp := if d.ss = 0 then 0 else (e.sGet d.ss).1,
    bpois := 0, fcode := 0, fval := 0, enq := e.s.cyc, since := e.s.cyc, pace := false, token := false, stampOk := false, gateAt := 0,
    ch0 := false, ch1 := false, lreq := none, leave := false, blk := if d.opc = 0x03 then some [] else none, rdAt := 0,
    zrow := d.zrow, zrows := d.zrows, zlh := d.zlh, again := false, start := none, busy := false, run := .zero, ahead := [], chk := none,
    fail := none, lwf := none, buf := [], far := none, wout := [], tail := [], redo := (0, 0), dst := [], pins := [], drop := false, whyNo := 0, whyAt := e.s.cyc, late := 0, lateAt := 0, flush := false, held := [],
    fog := e.q.inFlight, asked := false, segs := [], recs := [] }

/-- The rows that R115 confines of a command, by its parameter block as it stands; none where the block cannot be read or is
malformed. -/
def State.peek (s : State) (c : CoreId) (k : SeatId) (e : Entry) : Option (List (Bool × Nat × Nat × Bool)) :=
  if e.opc = 0x03 then some (e.rows [])
  else (s.rdVa (s.whoSeat c k) e.pba.toNat 256).bind fun b =>
    if (blkBad e.opc.toNat e.q.toNat ((s.seat c k).rw * (s.seat c k).rh) b).isSome then none
    else some (({ e with nstep := BitVec.ofNat 32 (blkSteps b) } : Entry).rows b)

/-- Rows of a command that no header wait has ordered yet (R115). -/
def undOf (n : Nat) (seq : Bits16) (alt : Option Nat) (l : List (Bool × Nat × Nat × Bool)) : List Und :=
  l.map fun r => { q := n, seq := seq.toNat, gran := r.1, alt := alt, lo := r.2.1, hi := r.2.2.1, wr := r.2.2.2, bad := false, unk := false }

/-- Rows of a command as they are confined from its enqueue on: until its block is read, any row of the window and, for an MEPI, of the
granary where the block does not tell them yet (R115, R223, log 77). -/
def undAt (n : Nat) (e : Entry) (w : Nat) (alt : Option Nat) : Option (List (Bool × Nat × Nat × Bool)) → List Und
  | some l => undOf n e.seq alt l
  | none => (undOf n e.seq alt ((false, 0, w, true) :: if e.opc = 0x04 then [(true, 0, 4096, true)] else [])).map fun u =>
      { u with unk := true }

/-- Granary rows that an MEPI writes and that one enqueued before it in the other half writes too, where a test does not tell that the two
are ordered, are undefined (R223). -/
def SeatSt.raceGran (q : SeatSt) (n seq : Nat) (ok : Und → Bool) : SeatSt :=
  let own (u : Und) : Bool := u.q = n && u.seq = seq
  let race (u : Und) : Bool := u.gran && u.wr && u.alt.isNone && !u.unk
  let hit := ((q.und.takeWhile fun u => !own u).filter fun u => race u && u.q != n && !ok u).flatMap fun u =>
    (q.und.filter fun v => own v && race v && v.lo < u.hi && u.lo < v.hi).flatMap fun v =>
      [{ u with lo := max u.lo v.lo, hi := min u.hi v.hi, bad := true }, { v with lo := max u.lo v.lo, hi := min u.hi v.hi, bad := true }]
  { q with und := q.und ++ hit }

/-- The state after a command has been enqueued (R178, R179, R194). -/
def At.enqueue (e : At) (d : Cmd) : State :=
  let s := d.queues.foldl (fun (s : State) n =>
    s.modCore e.c fun x =>
      let x := x.setQueue n ((x.queue n).put (pickIx (x.queue n) n) (e.entry d n))
      x.setSeat e.k ((x.seatAt e.k).seqNext n)) e.s
  let n := d.queues.headD 0
  let alt := if d.queues.length = 2 then some (e.q.seqOf 1).toNat else none
  let s := s.modCore e.c fun x => x.promote e.s.cyc
  s.modSeat e.c e.k fun q =>
    let q := { q with und := q.und ++ undAt n (e.entry d n) (bW q.billet) alt (e.s.peek e.c e.k (e.entry d n)) }
    if d.wt = 0 then q.raceGran n (e.q.seqOf n).toNat fun _ => false else q

/-- A command's attempt: the stamp's poison, the quotas, and the enqueue (R178, R197). -/
def At.command (e : At) (d : Cmd) (pre post : List PCause) : Plan :=
  let pois := if d.ss = 0 then [] else e.poisS 3 d.ss
  e.planH (pre ++ pois ++ post) (!d.queues.all e.room) (e.enqueue d)

/-- A command with a parameter block (R197, R229). -/
def blockCmd (s : State) (i : Instr) (opc q : Nat) (a : EngArgs) : Result :=
  attempt s i fun e =>
    let x := (e.aGet a.ap).1
    e.command ⟨opc, q, a.wt, a.sg, a.ss, a.slk, x, 0, 0, false⟩ (e.poisA 3 a.ap)
      (if x.toNat % 256 = 0 then [] else [⟨70, 3, fAlign, x, none⟩])

/-- Meaning of MMA (R197). -/
def execMma (q : MatQ) (e : EngArgs) (s : State) : Result := blockCmd s (.mma q e) 0x01 (matQ q) e
/-- Meaning of MMAD (R197, R207). -/
def execMmad (q : MatQ) (e : EngArgs) (s : State) : Result := blockCmd s (.mmad q e) 0x02 (matQ q) e
/-- Meaning of MEPI (R197, R210). -/
def execMepi (q : MatQ) (e : EngArgs) (s : State) : Result := blockCmd s (.mepi q e) 0x04 (matQ q) e
/-- Meaning of WLOAD (R197, R213). -/
def execWload (q : MatQ) (e : EngArgs) (s : State) : Result := blockCmd s (.wload q e) 0x06 (matQ q) e
/-- Meaning of TXFER (R229). -/
def execTxfer (e : EngArgs) (s : State) : Result := blockCmd s (.txfer e) 0x10 0 e
/-- Meaning of TFILL (R229). -/
def execTfill (e : EngArgs) (s : State) : Result := blockCmd s (.tfill e) 0x11 0 e
/-- Meaning of TDRAIN (R229). -/
def execTdrain (e : EngArgs) (s : State) : Result := blockCmd s (.tdrain e) 0x12 0 e
/-- Meaning of TMCAST (R229, R236). -/
def execTmcast (e : EngArgs) (s : State) : Result := blockCmd s (.tmcast e) 0x13 0 e

/-- Meaning of MZERO: no parameter block (R212). -/
def execMzero (q : MatQ) (row rowsm1 : Bits11) (lh : Bool) (wt sg : SemR) (ss : SReg) (slk : Bits8) (s : State) : Result :=
  attempt s (.mzero q row rowsm1 lh wt sg ss slk) fun e =>
    e.command ⟨0x03, matQ q, wt, sg, ss, slk, 0, row.toNat, rowsm1.toNat + 1, lh⟩ [] []

/-- Seat of an overflow event (R214). -/
def evSeat (w : Word) : SeatId := w.extractLsb' 12 2

/-- Meaning of OVPOP: the seat's oldest event is removed and its lost-event bit cleared (R215). -/
def execOvpop (sd : SReg) (s : State) : Result :=
  attempt s (.ovpop sd) fun e =>
    let ev := e.x.ovq.find? fun w => evSeat w = e.k
    let v := setBits (match ev with
      | some w => setBits w 15 15 1
      | none => 0) 14 14 e.q.olost.toNat
    e.plan [] ((e.fly 3 (.s sd v false)).modCore e.c fun x =>
      let x := { x with ovq := match ev with
        | some w => x.ovq.erase w
        | none => x.ovq }
      x.setSeat e.k { x.seatAt e.k with olost := false })

end Sys2Proof.Machine
end

