-- ==== Sys2Proof/Machine/Access.lean ====
section
/-!
DEFINITION. What the memory accesses of a strand share (R100 to R103, R164, R175, R366, R408): reading and writing a
translated range whose pages may lie on another device, miss freezes, imprecise failures, and tile rows.
-/
namespace Sys2Proof.Machine

/-! ### Bytes that engine commands may see late (R296, R297) -/

/-- What a byte may read as for an engine command of a seat, besides what memory holds: what it held before stores of the strand
that nothing orders before the command (R297). -/
def SeatSt.olds (q : SeatSt) (pa : Nat) : List Byte := (q.recent.filter fun r => r.pa = pa).map Recent.old

/-- A byte as an engine command of a seat reads it: where a store of the strand is not ordered before the command, either what the
byte held or what was stored, which is open (R297). -/
def State.engByte (s : State) (q : SeatSt) (kid pa : Nat) : Byte :=
  let l := q.olds pa
  l.getD (Config.freeNat (1000 + pa) s.free % (l.length + 1)) (s.rdB kid pa)

/-- Bytes that a seat has stored to are no longer open for its engine commands: a write has gone over them, or a store to them has
been performed (R283). -/
def SeatSt.forget (q : SeatSt) (l : List (Nat × Nat)) : SeatSt :=
  if q.recent.isEmpty then q
  else { q with recent := q.recent.filter fun r => !l.any fun g => g.1 ≤ r.pa && r.pa < g.1 + g.2 }

/-- The bytes of a range as a bundle of a seat is about to store to them (R297). -/
def State.record (s : State) (c : CoreId) (k : SeatId) (l : List Seg) : State :=
  let new := (l.filter fun g => isHbm g.xl.pa).flatMap fun g =>
    (List.range g.len).map fun i => (⟨g.xl.pa + i, s.rdB g.xl.kid (g.xl.pa + i), false, s.cyc⟩ : Recent)
  s.modSeat c k fun q => { q with recent := q.recent ++ new }

/-- A scope of .cl or wider (R8, R42). -/
def scpWide (p : Scope) : Bool := 2 ≤ p.code.toNat

/-- A translation that no TLB of the core or its cluster holds (R279). -/
def Who.walks (w : Who) (va n : Nat) : Bool :=
  (pieces (n / 4096 + 2) va n).any fun p => (tlbHit w p.1).isNone

/-- Data of a load that the L1D does not hold (R59, R175). -/
def CoreSt.missing (x : CoreSt) (l : List Seg) : Bool :=
  ((linesOf l).any fun p => (x.l1.find p.1).isNone) || anySeg (l.filter fun g => g.len != 0) fun y => !cachedX y

/-! ### The order of a strand's accesses (R284 to R290) -/

/-- A number for a byte of memory that two accesses share only where they meet in one location. -/
def State.locOf (s : State) (pa : Nat) : Nat :=
  if isFab pa then
    let t := s.fabTarget pa
    (t.1.toNat + 1) * 2 ^ 64 + t.2.toNat
  else pa

/-- Locations of a range. -/
def State.locs (s : State) (l : List Seg) : List (Nat × Nat) := l.map fun g => (s.locOf g.xl.pa, g.len)

/-- Two lists of locations meet. -/
def meets (a b : List (Nat × Nat)) : Bool := a.any fun p => b.any fun q => p.1 < q.1 + q.2 && q.1 < p.1 + p.2

/-- A load, or a store or atomic, of the strand. -/
def VKind.isLoad : VKind → Bool
  | .load | .lds => true
  | _ => false
def VKind.isStore : VKind → Bool
  | .store | .atomic => true
  | _ => false
/-- An access to memory. -/
def VKind.isMem (k : VKind) : Bool := k.isLoad || k.isStore

/-- A result that another device or the host still owes. -/
def Vres.owed (v : Vres) : Bool := v.remote && !v.ready

/-- An access that has not been performed yet: it waits for others, or for its answer (R283). -/
def Vres.isOpen (v : Vres) : Bool := v.todo.isSome || (v.owed && v.kind.isMem)

/-- An access, or the effect of a release, waits until an earlier one of the strand has been performed: an acquire holds all that
follow it; a release waits for every access, and an acquire for it; accesses to SO pages keep their order; and accesses that meet
in a location do (R284, R285, R288, R290, R292). A SIG is a release: it waits for every access (R187, R296). -/
def Vres.holds (v a : Vres) : Bool :=
  v.isOpen && match a.todo with
    | some (.inc _ _) => v.kind.isMem
    | _ => v.acq || (a.rel && v.kind.isMem) || (a.so && v.so) || (a.acq && v.rel) || meets v.loc a.loc

/-- Numbers of the results of a seat that have to be performed before an access. -/
def SeatSt.blockers (q : SeatSt) (a : Vres) : List Nat := (q.vres.filter fun v => v.holds a).map Vres.id

/-- The result of an access to a range: its locations, and what SO pages make it (R286, R288). -/
def Vres.over (v : Vres) (s : State) (l : List Seg) : Vres :=
  let so := anySeg l fun x => x.kind == 1
  { v with loc := s.locs l, so := so, acq := v.acq || (so && !v.kind.isStore) || (so && v.kind == .atomic),
           rel := v.rel || (so && v.kind.isStore), wide := v.wide || so }

/-- An access of n bytes at an effective address, translated and checked (R102). -/
def At.span (e : At) (acc : AccKind) (ea : Word) (n : Nat) : Span := e.s.span (e.s.whoSeat e.c e.k) acc (vaOf ea) n

/-- Trap value of a failed access: the lowest faulting address, or for F_BUS the address of the access (R102). -/
def faultVal (f : XFault) (ea : Word) : Word := if f.code = fBus then BitVec.ofNat 64 (vaOf ea) else BitVec.ofNat 64 f.va

/-- The precise cause of a failed access of the A syllable. -/
def accCause (f : XFault) (ea : Word) : PCause := { xCause 1 f with tval := faultVal f ea }

/-- A failed access that is delivered imprecisely: its answer is outstanding and will bring the cause; the fault is recorded
when it is detected (R102, R164, R371). -/
def At.failed (e : At) (s : State) (f : XFault) (ea : Word) (v : Vres) : State :=
  let s := s.recordFault (e.s.whoSeat e.c e.k) e.c e.k 0 (bInst e.q.billet) f
  e.vresOn s { v with bad := some (f.code, faultVal f ea), ready := true }

/-- A value widened to 64 bits: the key of a load's result holds its size code, and 4 more if it is sign-extended (R104). -/
def widen (key : Nat) (d : Nat) : Word :=
  let w := 8 * 2 ^ (key % 4)
  let v := d % 2 ^ w
  if 4 ≤ key && 2 ^ (w - 1) ≤ v then BitVec.ofNat 64 (v + (2 ^ 64 - 2 ^ w)) else BitVec.ofNat 64 v

/-- An outstanding result of a scalar (R55). -/
def scalarRes (kind : VKind) (rt : SReg) (bad : Bool) (sem : SemR) (ea : Word) (ck key : Nat) : Vres :=
  { Vres.none with kind := kind, dest := if rt = 0 then .none else .s rt, tags := if bad then 1 else 0, sem := sem,
                   addr := BitVec.ofNat 64 (vaOf ea), ck := ck, key := key }

/-- Tags of the sectors in which a result writes a lane. -/
def Vres.touched (v : Vres) : BitVec 32 :=
  match v.dest with
  | .row _ m _ => sectorBits fun j => bits m (256 * j + 255) (256 * j) != 0
  | _ => 1

/-- A result that failed: 0 with its tags set (R164). -/
def Vres.failed (v : Vres) : Vres := { v with data := 0, tags := v.touched, ready := true }

/-- A result with the bytes that it delivers: a scalar widened, its tag set if a byte is poisoned; or a row, with the tags of the
sectors in which an active byte is (R104, R105). -/
def Vres.given (v : Vres) (b : List (Byte × Bool)) : Vres :=
  match v.dest with
  | .row _ m _ =>
    { v with
      data := BitVec.ofNat 8192 (leNat (b.map Prod.fst))
      tags := sectorBits fun j => (List.range 32).any fun i => (b.getD (32 * j + i) (0, false)).2 && m.getLsbD (256 * j + 8 * i)
      ready := true }
  | _ => { v with data := (widen v.key (leNat (b.map Prod.fst))).zeroExtend 8192, tags := if b.any Prod.snd then 1 else 0, ready := true }

/-- The write with which a result lands. -/
def Vres.write (v : Vres) : Option Write :=
  match v.dest with
  | .none => Option.none
  | .s n => some (.s n (v.data.setWidth 64) (v.tags.getLsbD 0))
  | .row p m f => some (.row p m v.data f v.tags)

/-! ### Loads and stores of a bundle (R59, R102, R104, R105) -/

/-- Bytes put into a buffer from an offset. -/
def putAt {α : Type} (b : List α) (o : Nat) (l : List α) : List α := b.take o ++ l ++ b.drop (o + l.length)

/-- Bytes of the buffer of a load's result. -/
def Vres.bytes (v : Vres) : Nat := if 8 ≤ v.key then 1024 else 2 ^ (v.key % 4)

/-- A part, from its offset, that a speculative row load does not get: the one at the address that a failed answer names, else each part
on another device or at the host (R105). -/
def Vres.lost (v : Vres) (l : List (Nat × Seg)) (a : FarAns) (o : Nat) (g : Seg) : Bool :=
  let far (x : Xl) : Bool := isFab x.pa || isHost x.pa
  let named (o : Nat) (g : Seg) : Bool := far g.xl && v.addr.toNat + o ≤ a.addr.toNat && a.addr.toNat < v.addr.toNat + o + g.len
  v.kind == .lds && a.err.isSome && far g.xl && (named o g || !l.any fun p => named p.1 p.2)

/-- The buffer that a load fills from its parts: those on another device come, one after the other, in the answer. Bytes that
no part gives are 0, poisoned for a speculative load (R104, R105). -/
def State.gather (s : State) (v : Vres) (l : List (Nat × Seg)) (a : FarAns) : List (Byte × Bool) :=
  (l.foldl (fun (p : Nat × List (Byte × Bool)) g =>
    if v.lost l a g.1 g.2 then (p.1 + (if isFab g.2.xl.pa then g.2.len else 0), p.2)
    else if isFab g.2.xl.pa then
      (p.1 + g.2.len, putAt p.2 g.1 ((List.range g.2.len).map fun i =>
        let b := farByte a (p.1 + i)
        (b.1, b.2 || g.2.xl.por)))
    else (p.1, putAt p.2 g.1 (s.nearBytes [g.2]))) (0, List.replicate v.bytes (0, v.kind == .lds))).2

/-- A load's result with what its answer brings: bytes, or 0 with its tags where it failed; a speculative row load loses the parts that
failed and no others (R104, R105, R164). -/
def State.landed (s : State) (v : Vres) (l : List (Nat × Seg)) (a : FarAns) : Vres :=
  if a.err.isSome && !(v.kind == .lds && v.key = 8) then v.failed else v.given (s.gather v l a)

/-- The cause that a failed answer to an access brings: its value is the address of the access, or that of the lane that failed where the
row is gathered (R102, R105). A speculative load raises none for F_BUS, and a speculative row load none at all (R104, R105). -/
def Vres.cause (v : Vres) (a : FarAns) : Option (Bits16 × Word) :=
  if v.kind == .lds && (v.key = 8 || a.err == some .bus) then Option.none
  else farFault { a with addr := if v.key = 9 then a.addr else 0 } v.addr.toNat

/-- The answer that the bundle's load has, if the core froze for it. -/
def At.answer (e : At) : Option FarAns := (e.x.fillOf e.k e.q.pc).load.join

/-- The state of a bundle that waits for its load: the requests have left, and the core is frozen (R59). -/
def At.await (e : At) (l : List Seg) (ask : Bool) : State :=
  let f := e.x.fillOf e.k e.q.pc
  let s := if ask && f.load.isNone then
      (e.s.askFar l).modCore e.c fun x => { x with fill := some { f with load := some none } }
    else e.s
  s.modCore e.c fun x => { x with freeze := true }

/-- A strand's look-ups for a load of a range. -/
def At.look (e : At) (s : State) (l : List Seg) : State := s.l1Segs e.c (bL1w e.q.billet) false l

/-- What a load without a token does once its data is known: it takes effect, and the core freezes until the data is present
(R59, R279); what the access did not get imprecisely becomes pending (R164). -/
def At.landLoad (e : At) (fly : State → Write → State) (v : Vres) (l : List (Nat × Seg)) (walk : Bool) : State :=
  let segs := l.map Prod.snd
  let a := e.answer.getD FarAns.none
  let bad := v.cause a
  let v := e.s.landed v l a
  let s := match v.write with
    | some w => fly e.s w
    | Option.none => e.s
  let s := match bad with
    | some p => s.pendCause e.c e.k ⟨p.1, 4, 0, p.2, 0⟩
    | Option.none => s
  let miss := (e.x.missing segs || walk) && e.answer.isNone
  ((e.look s segs).modCore e.c fun x => { x with freeze := x.freeze || miss }).uoAct e.c e.k false (v.acq && v.wide)

/-- A load (R59, R102, R104, R105): without a token its bundle waits, frozen, for what has to be performed before it and for what
another device or the host gives, whose error response is a precise F_BUS; with a token it is outstanding. -/
def At.load (e : At) (pre : List PCause) (post : State → State) (fly : State → Write → State) (v : Vres) (l : List (Nat × Seg))
    (walk : Bool) : Plan :=
  let segs := l.map Prod.snd
  let v := v.over e.s segs
  let wait := e.q.blockers v
  if v.sem = 0 then
    if !wait.isEmpty then ⟨pre, true, e.await segs false, e.s, false⟩
    else if isFar segs && e.answer.isNone then ⟨pre, true, e.await segs true, e.s, false⟩
    else
      let bus := (e.answer.bind v.cause).filter fun p => p.1 == fBus
      e.plan (pre ++ bus.toList.map fun p =>
          ⟨100, 1, fBus, p.2, some ⟨fBus, 10, 0, p.2.toNat, 0, .read, !e.q.plv, farPa segs⟩⟩)
        (post (e.landLoad fly v l walk))
  else if !wait.isEmpty then e.plan pre (post (e.vresOn e.s { v with after := wait, todo := some (.load l) }))
  else if isFar segs then
    e.plan pre (post (e.vresOn (e.look (e.s.askFar segs) segs) { v with remote := true, ready := false, todo := some (.load l) }))
  else
    e.plan pre (post ((e.vresOn (e.look e.s segs) (e.s.landed v l FarAns.none)).uoAct e.c e.k false
      (v.acq && v.wide)))

/-- A store performed: its bytes are written here or leave for another device (R105, R175, R283). -/
def State.storeParts (s : State) (c : CoreId) (k : SeatId) (l : List (Seg × List Byte)) : State :=
  let mask := bL1w (s.seat c k).billet
  l.foldl (fun (s : State) p => ((s.record c k [p.1]).wrSegs [p.1] p.2).l1Segs c mask true [p.1]) s

/-- A store (R102, R104, R105): what has to be performed before it holds its effect, not its bundle (R284, R290). -/
def At.store (e : At) (pre : List PCause) (post : State → State) (v : Vres) (l : List (Seg × List Byte)) : Plan :=
  let segs := l.map Prod.fst
  let v := v.over e.s segs
  let wait := e.q.blockers v
  if !wait.isEmpty then e.plan pre (post (e.vresOn e.s { v with after := wait, todo := some (.store l) }))
  else
    let s := (e.s.uoAct e.c e.k (v.rel && v.wide) false).storeParts e.c e.k l
    if remote segs then e.plan pre (post (e.vresOn s { v with remote := true, ready := false }))
    else e.plan pre (post (if v.sem = 0 then s else e.vresOn s v))

/-- The runs of bytes present in a list, each with its offset. -/
def runsOf : List (Option Byte) → Nat → List (Nat × List Byte)
  | [], _ => []
  | none :: r, i => runsOf r (i + 1)
  | some v :: r, i => match runsOf r (i + 1) with
    | (j, l) :: m => if j = i + 1 then (i, v :: l) :: m else (i, [v]) :: (j, l) :: m
    | [] => [(i, [v])]

/-- The segments of a range with their offsets. -/
def offsets : List Seg → Nat → List (Nat × Seg)
  | [], _ => []
  | g :: r, o => (o, g) :: offsets r (o + g.len)

/-- The segments of a range with their bytes. -/
def withBytes : List Seg → List Byte → List (Seg × List Byte)
  | [], _ => []
  | g :: r, b => (g, b.take g.len) :: withBytes r (b.drop g.len)

/-! ### Rows in memory (R105) -/

/-- A page's part of a row access: its bytes from an offset, and its translation. -/
structure Part where
  off : Nat
  len : Nat
  va : Nat
  tr : Tr

/-- The 1,024 bytes at an effective address, cut at pages and translated; a part that no active lane touches is not looked at. -/
def At.parts (e : At) (acc : AccKind) (ea : Word) (touched : Nat → Bool) : List Part :=
  let w := e.s.whoSeat e.c e.k
  let rec go : List (Nat × Nat) → Nat → List Part
    | [], _ => []
    | (va, n) :: r, off =>
      let rest := go r (off + n)
      if (List.range n).any fun i => touched (off + i) then ⟨off, n, va, e.s.xlate w acc va⟩ :: rest else rest
  go (pieces 3 (vaOf ea) 1024) 0

/-- The lowest failed part, at the lowest byte that an active lane touches. -/
def firstBad (touched : Nat → Bool) : List Part → Option XFault
  | [] => none
  | p :: r => match p.tr with
    | .bad f =>
      let i := ((List.range p.len).find? fun i => touched (p.off + i)).getD 0
      some { f with va := p.va + i }
    | .ok _ => firstBad touched r

/-- The part of an access that fails translation, at the lowest byte; else that with an error response (R102, R159). -/
def worstBad (touched : Nat → Bool) (l : List Part) : Option XFault :=
  match firstBad touched (l.filter fun p => match p.tr with
    | .bad f => !f.bus
    | .ok _ => true) with
  | some f => some f
  | none => firstBad touched l

/-- The parts that are granted. -/
def Part.xl? (p : Part) : Option Xl :=
  match p.tr with
  | .ok x => some x
  | .bad _ => none

/-- The runs of bytes of granted parts that a test takes, with their offsets in the row (R105). -/
def runParts (l : List Part) (touched : Nat → Bool) : List (Nat × Seg) :=
  l.flatMap fun p => match p.xl? with
    | none => []
    | some x => (runsOf ((List.range p.len).map fun i => if touched (p.off + i) then some (0 : Byte) else none) 0).map fun r =>
        (p.off + r.1, ⟨{ x with pa := x.pa + r.1 }, r.2.length⟩)

/-! ### Granary rows (R107, R218, R219) -/

/-- A row of the granary. -/
def CoreSt.granRow (x : CoreSt) (a : Nat) : Row := x.gran.val .zero a

/-- F_TILE for a slot not granted to the seat (R164, R219). -/
def CoreSt.grantErr (x : CoreSt) (k : SeatId) (n : Nat) : Option Nat :=
  match (x.tile n).owner with
  | none => some (n + 3 * 2 ^ 8)
  | some o => if o = k then none else some (n + 2 ^ 8)

/-- F_TILE for a slot that a bundle names: not granted, or granted and EMPTY (R107, R431). -/
def CoreSt.tileErr (x : CoreSt) (k : SeatId) (syl n : Nat) : List PCause :=
  match x.grantErr k n with
  | some v => [⟨90, syl, fTile, BitVec.ofNat 64 v, none⟩]
  | none => if (x.tile n).st == .empty then [⟨90, syl, fTile, BitVec.ofNat 64 (n + 2 * 2 ^ 8), none⟩] else []

end Sys2Proof.Machine
end

