-- ==== Sys2Proof/Machine/Semaphore.lean ====
section
/-!
DEFINITION. The semaphore and queue instructions of the X syllable (R187 to R190), and the view of an entry (R179).
-/
namespace Sys2Proof.Machine

/-- The state after an increment that lands in phase 1 of the next ck (R182, R187): it releases at .co the accesses before it, so that it
waits for a store that has not been performed yet, and engine commands that it orders see every store before it (R296, R297). -/
def At.signal (e : At) (sem : SemR) (n : Nat) : State :=
  let v := { Vres.none with ck := e.s.cyc, todo := some (.inc sem n) }
  let wait := e.q.blockers v
  if n = 0 then e.s
  else if !wait.isEmpty then e.vresOn e.s { v with after := wait }
  else e.s.modSeat e.c e.k fun q =>
    { q with inc := q.inc ++ [(sem, n)], recent := q.recent.map fun r => { r with sig := true } }

/-- Meaning of SIG with an immediate (R187). -/
def execSigImm (sem : SemR) (amt : Bits8) (s : State) : Result :=
  attempt s (.sigImm sem amt) fun e => e.plan [] (e.signal sem amt.toNat)

/-- Meaning of SIG with a count in sA, at most 255 (R187). -/
def execSigReg (sem : SemR) (sa : SReg) (s : State) : Result :=
  attempt s (.sigReg sem sa) fun e => e.plan (e.poisS 3 sa) (e.signal sem (min (e.sGet sa).1.toNat 255))

/-- Meaning of SWAIT: held until the semaphore reaches the count, which it consumes and acquires (R188, R296). -/
def execSwait (sem : SemR) (amt : Bits8) (s : State) : Result :=
  attempt s (.swait sem amt) fun e =>
    e.planH [] ((e.q.sem sem).ult amt) ((e.s.acquire e.c e.k sem).modSeat e.c e.k fun q => q.setSem sem (q.sem sem - amt))

/-- Meaning of SEMR of a semaphore (R189). -/
def execSemrSem (sd : SReg) (sem : SemR) (s : State) : Result :=
  attempt s (.semrSem sd sem) fun e => e.plan [] (e.fly 3 (.s sd ((e.q.sem sem).zeroExtend 64) false))

/-- Meaning of SEMR.ovf: the bits returned are cleared (R189). -/
def execSemrOvf (sd : SReg) (s : State) : Result :=
  attempt s (.semrOvf sd) fun e =>
    e.plan [] ((e.fly 3 (.s sd (e.q.ovf.zeroExtend 64) false)).modSeat e.c e.k fun q => { q with ovf := 0 })

/-- Code of an entry's state (R179). -/
def entCode : EntState → Nat
  | .free => 0
  | .queued => 1
  | .head => 2
  | .selected => 3
  | .running => 4
  | .faulted => 5

/-- Word `n` of an entry's view (R179). -/
def Entry.word (e : Entry) (n : Nat) : Word :=
  match n with
  | 0 => BitVec.ofNat 64 (entCode e.st + e.seat.toNat * 2 ^ 4 + e.stamped.toNat * 2 ^ 7 + e.opc.toNat * 2 ^ 8
      + e.q.toNat * 2 ^ 16 + e.wt.toNat * 2 ^ 20 + e.sg.toNat * 2 ^ 24 + e.slk.toNat * 2 ^ 32 + e.seq.toNat * 2 ^ 48)
  | 1 => BitVec.ofNat 64 (e.stepc.toNat + e.nstep.toNat * 2 ^ 32)
  | 2 => e.pba.zeroExtend 64
  | 3 => e.fcr
  | 4 => e.stamp
  | 5 => e.bpois
  | 6 => e.fcode.zeroExtend 64
  | _ => e.fval

/-- What a seat sees of a queue's entry: another seat's shows FOREIGN alone (R179), and so does one that a killed strand of the seat
has left (log 72). -/
def entView (t : Tab Entry) (k : SeatId) (ix word : Nat) : Word :=
  match t.find ix with
  | none => 0
  | some e => if e.seat = k && !e.drop then e.word word else if word = 0 then BitVec.ofNat 64 (2 ^ 6) else 0

/-- Meaning of SEMR.ent: an index past the capacity reads 0 (R189). -/
def execSemrEnt (sd sa : SReg) (q : EngQ) (word : Bits3) (s : State) : Result :=
  attempt s (.semrEnt sd sa q word) fun e =>
    let ix := (e.sGet sa).1.toNat % 64
    let v := if capacity (engNo q) ≤ ix then 0 else entView (e.x.queue (engNo q)) e.k ix word.toNat
    e.plan (e.poisS 3 sa) (e.fly 3 (.s sd v false))

/-- Meaning of SEMR.cfg: PACE, quota and CNT (R189). -/
def execSemrCfg (sd : SReg) (q : EngQ) (s : State) : Result :=
  attempt s (.semrCfg sd q) fun e =>
    let n := engNo q
    let v := pace e.q.billet n + quota e.q.billet n * 2 ^ 16 + inUse (e.x.queue n) e.k * 2 ^ 24
    e.plan [] (e.fly 3 (.s sd (BitVec.ofNat 64 v) false))

/-- Entries of a seat in a queue, by index. -/
def CoreSt.mine (x : CoreSt) (n : Nat) (k : SeatId) : Tab Entry :=
  (x.queue n).filter fun p => p.2.seat == k && !p.2.drop

/-- Meaning of EQFLUSH.d: held while a step of such an entry runs; then every entry of the seat in the queue is FREE (R190). -/
def execEqflushD (q : EngQ) (s : State) : Result :=
  attempt s (.eqflushD q) fun e =>
    let n := engNo q
    let l := e.x.mine n e.k
    let busy (p : Nat × Entry) : Bool := p.2.st == .running && p.2.busy
    let mark (s : State) (p : Nat × Entry) := s.modCore e.c fun x => x.modEnt n p.1 fun f => { f with flush := true }
    { causes := [], held := l.any busy, wait := (l.filter busy).foldl mark e.s,
      eff := (l.foldl (fun (s : State) p => s.discard e.c n p.1) e.s).modSeat e.c e.k fun r => r.setPace n none,
      moved := false }

/-- The oldest FAULTED entry of a seat in a queue. -/
def oldestFaulted (l : Tab Entry) : Option (Nat × Entry) :=
  l.foldl (fun (m : Option (Nat × Entry)) p =>
    if p.2.st == .faulted then match m with
      | none => some p
      | some r => if p.2.enq < r.2.enq then some p else some r
    else m) none

/-- Rows of a resumed command whose block has not been read are confined again (R115). -/
def State.undAgain (s : State) (c : CoreId) (n : Nat) (e : Entry) : State :=
  let mate := ((s.core c).mateIx n e).bind fun j => (((s.core c).queue (1 - n)).find j).map Entry.seq
  let m := if e.whole && n != 2 then 0 else n
  let e0 := { e with seq := if n = 1 then mate.getD e.seq else e.seq }
  let alt := mate.map fun m => (if n = 1 then e.seq else m).toNat
  if e.blk.isSome || (s.seat c e.seat).und.any (fun u => u.q = m && u.seq = e0.seq.toNat) then s
  else s.modSeat c e.seat fun q => { q with und := q.und ++ undAt m e0 (bW q.billet) alt (s.peek c e.seat e) }

/-- A FAULTED entry resumed with a stamp, or unstamped (R180, R190); a TMCAST that has no step left to run becomes FREE with its
token (R237). -/
def State.resumeEnt (s : State) (c : CoreId) (n ix : Nat) (stamp : Word) : State :=
  match ((s.core c).queue n).find ix with
  | none => s
  | some f =>
    if f.blk.isSome && f.nstep.toNat ≤ f.stepc.toNat then
      (s.modSeat c f.seat fun r =>
        { r with inc := if f.sg = 0 then r.inc else r.inc ++ [(f.sg, 1)], sigs := r.sigs ++ [(f.sg, n, f.seq.toNat)] }).discard c n ix
    else (s.undAgain c n f).modCore c fun x =>
      (x.modEnt n ix fun f =>
        { f with st := .queued, stamp := stamp, stamped := stamp != 0, fcode := 0, fval := 0, since := s.cyc, stampOk := false, again := true,
                 asked := false }).promote s.cyc

/-- Meaning of EQFLUSH.r: the seat's oldest FAULTED entry of the queue resumes with the stamp in sB (R190). -/
def execEqflushR (q : EngQ) (sb : SReg) (s : State) : Result :=
  attempt s (.eqflushR q sb) fun e =>
    let n := engNo q
    e.plan (e.poisS 3 sb) (match oldestFaulted (e.x.mine n e.k) with
      | none => e.s
      | some p => e.s.resumeEnt e.c n p.1 (e.sGet sb).1)

end Sys2Proof.Machine
end

