-- ==== Sys2Proof/Machine/EvEngine.lean ====
section
/-!
DEFINITION. The gates of an engine queue's entries (R180 to R184), the governor's leave (R186) and the reading of a parameter
block (R200). An event whose condition does not hold changes nothing.
-/
namespace Sys2Proof.Machine

/-- An entry of a core's queue. -/
def CoreSt.ent (x : CoreSt) (n : Nat) (ix : EntIdx) : Option Entry := (x.queue n).find ix.toNat

/-- An event on an entry: nothing where there is none. -/
def onEnt (core : CoreId) (n : Nat) (ix : EntIdx) (s : State) (f : Entry → State) : Result :=
  match (s.core core).ent n ix with
  | none => .next s
  | some e => .next (f e)

/-- An event on an entry whose seat is not being saved: a checkpoint lets the running step end and starts nothing (R180). -/
def onLive (core : CoreId) (n : Nat) (ix : EntIdx) (s : State) (f : Entry → State) : Result :=
  onEnt core n ix s fun e => if (s.seat core e.seat).st == .out then s else f e

/-- The first CYC at which a stamped entry that has not reached RUNNING misses its stamp (R184). -/
def Entry.missAt (e : Entry) : Nat := max (e.stamp.toNat + e.slk.toNat + 1) e.since

/-- The entry misses its stamp in a ck: no gate of it opens from then on (R184). -/
def Entry.missed (e : Entry) (now : Nat) : Bool :=
  e.stamped && (e.st == .queued || e.st == .head || e.st == .selected) && e.missAt ≤ now

/-- The entry is at HEAD, in a ck after that of its enqueue or its last resume, and has not missed its stamp (R180, R184, R400). -/
def Entry.atHead (e : Entry) (now : Nat) : Bool := e.st == .head && e.since < now && !e.drop && !e.missed now

/-- The pacing condition of a queue (R180, R183). -/
def SeatSt.paceMet (q : SeatSt) (n now : Nat) : Bool :=
  match q.paceAt n with
  | none => true
  | some t => pace q.billet n ≤ now - t

/-- Meaning of PACING_OPEN: a whole-array command needs the pacing of both queues (R180, R183, R194). -/
def execPacingOpen (core : CoreId) (q : EngQ) (idx : EntIdx) (s : State) : Result :=
  onLive core (engNo q) idx s fun e =>
    let n := engNo q
    if e.atHead s.cyc && !e.pace && (e.queues n).all fun m => (s.seat core e.seat).paceMet m s.cyc then
      s.modCore core fun x => x.modEnt n idx.toNat fun e => ({ e with pace := true, gateAt := s.cyc } : Entry).aged n s.cyc
    else s

/-- The entry's wait token may be tested in the third phase of a ck: that lies after its enqueue or last resume, its pacing has opened by
then, and its stamp is not missed in it (R180, R182, R184). -/
def Entry.testable (e : Entry) (t : Nat) : Bool :=
  e.st == .head && !e.drop && e.pace && !e.token && e.wt != 0 && e.since < t && e.gateAt ≤ t && !e.missed t

/-- The token phase tests an entry of a queue: an event of a ck before the core's bundle stands in the third phase of the ck before it.
The seat's entries are tested in the order H0, H1, transfer: one of an earlier queue that could still take a token of the semaphore comes
first, and none of a later queue has taken one in that phase (R180, R182). -/
def State.tokenTurn (s : State) (c : CoreId) (e : Entry) (n : Nat) : Bool :=
  e.testable (s.cyc - 1)
    && (List.range 3).all fun m =>
      if m ≤ n then m = n || !((s.core c).mine m e.seat).any fun p => p.2.testable (s.cyc - 1) && p.2.wt = e.wt && !e.isMate p.2
      else (s.core c).tokAt.val 0 (4 * e.seat.toNat + m) != s.cyc

/-- Meaning of WAIT_TOKEN_CONSUME: consumed once, also by a whole-array command (R180, R182, R194). A command's rows that one before it in
the other half writes too are ordered by the tokens that have landed (R223). -/
def execWaitTokenConsume (core : CoreId) (q : EngQ) (idx : EntIdx) (s : State) : Result :=
  onLive core (engNo q) idx s fun e =>
    let n := engNo q
    let v := (s.seat core e.seat).sem e.wt
    let opened (s : State) (t : Nat) := s.modCore core fun x => x.modEnt n idx.toNat fun e =>
      ({ e with token := true, gateAt := max e.gateAt t } : Entry).aged n (max e.gateAt t)
    if e.wt = 0 then (if e.atHead s.cyc && e.pace && !e.token then opened s 0 else s)
    else if v = 0 || !s.tokenTurn core e n then s
    else opened (((s.acquire core e.seat e.wt).modSeat core e.seat fun r =>
        (r.setSem e.wt (v - 1)).raceGran n e.seq.toNat (orders r.sigs e.wt)).modCore core fun x =>
      { x with tokAt := x.tokAt.put (4 * e.seat.toNat + n) s.cyc }) (s.cyc - 1)

/-- ck before a stamp at which its gate opens (R180). -/
def stampLead (n : Nat) : Nat := if n = 2 then 16 else 8

/-- Meaning of STAMP_GATE_OPEN (R180). -/
def execStampGateOpen (core : CoreId) (q : EngQ) (idx : EntIdx) (s : State) : Result :=
  onLive core (engNo q) idx s fun e =>
    let n := engNo q
    if e.atHead s.cyc && e.pace && e.token && !e.stampOk && (!e.stamped || e.stamp.toNat ≤ s.cyc + stampLead n) then
      s.modCore core fun x => x.modEnt n idx.toNat fun e =>
        let t := if !e.stamped || e.stamp.toNat ≤ e.gateAt + stampLead n then e.gateAt else s.cyc
        ({ e with stampOk := true, gateAt := t } : Entry).aged n t
    else s

/-- An entry holds the unit of a queue: chosen, running, or reserved by the half (R181, R194). -/
def Entry.holds (e : Entry) (n : Nat) : Bool :=
  e.st == .selected || e.st == .running || (e.st == .head && (if n = 0 then e.ch0 else e.ch1))

/-- An entry that the unit may choose: HEAD with pacing, token and stamp open (R181). -/
def Entry.eligible (e : Entry) (now : Nat) : Bool := e.atHead now && e.pace && e.token && e.stampOk

/-- The first of two candidates: CLASS, then enqueue, then seat (R181). -/
def CoreSt.before (x : CoreSt) (a b : Nat × Entry) : Bool :=
  let key (p : Nat × Entry) : Nat := (bClass (x.seatAt p.2.seat).billet * 2 ^ 64 + p.2.enq) * 4 + p.2.seat.toNat
  key a < key b

/-- The candidate that the unit of a queue chooses (R181). -/
def CoreSt.choice (x : CoreSt) (n now : Nat) : Option (Nat × Entry) :=
  ((x.queue n).filter fun p => p.2.eligible now && (x.seatAt p.2.seat).st != .out).foldl (fun m p => match m with
    | none => some p
    | some r => if x.before p r then some p else some r) none

/-- A strand as its engine commands access memory: a resumed command walks afresh (R372). -/
def State.whoEng (s : State) (c : CoreId) (e : Entry) : Who :=
  let w := s.whoSeat c e.seat
  if e.again then { w with tlb := [] } else w

/-- Every access of the strand before a command's bundle has been performed: the read of its parameter block is ordered after them
(R297). -/
def State.blockMay (s : State) (c : CoreId) (e : Entry) : Bool :=
  !(s.seat c e.seat).vres.any fun v => v.isOpen && v.kind.isMem && v.ck ≤ e.enq

/-- The read of a parameter block begins: requests leave for the parts of it that lie on another device (R200). -/
def State.askBlock (s : State) (c : CoreId) (n ix : Nat) (e : Entry) : State :=
  if e.blk.isSome || e.asked || !s.blockMay c e then s
  else match s.span (s.whoEng c e) .read e.pba.toNat 256 with
    | .ok l => if isFar l then (s.askFar l).modCore c fun x => x.modEnt n ix fun e => { e with asked := true } else s
    | .bad _ => s

/-- Meaning of UNIT_CHOICE, in a ck after the one in which the unit's last command ended (R260): a whole-array command is
SELECTED once both halves have chosen it. A matrix command requests leave at once, and so does a transfer whose block was read
before it was resumed. The choice falls in the ck in which the last gate opened, if the unit was free (R180, R181, R186, R194,
R260). -/
def execUnitChoice (core : CoreId) (q : EngQ) (s : State) : Result :=
  let n := engNo q
  let x := s.core core
  .next <|
    if ((x.queue n).any fun p => p.2.holds n) || s.cyc ≤ x.unitAt.val 0 n then s
    else match x.choice n s.cyc with
      | none => s
      | some (ix, e) =>
        let half := n != 2 && e.whole && !(if n = 0 then e.ch1 else e.ch0)
        let at0 := if e.gateAt + 1 = s.cyc && x.unitAt.val 0 n < e.gateAt && e.since < e.gateAt then e.gateAt else s.cyc
        let t := s.modCore core fun x => x.modEnt n ix fun e =>
          let e := { e with ch0 := e.ch0 || n = 0, ch1 := e.ch1 || n = 1 }
          if half then e.aged n at0
          else ({ e with st := .selected, rdAt := at0
                         lreq := if n = 2 && e.units 2 = 0 then none else some at0 } : Entry).aged n at0
        if half then t else t.askBlock core n ix e

/-- A request for leave: core, queue, index, its order among the column's, and its units (R186). -/
structure LeaveReq where
  core : CoreId
  n : Nat
  ix : Nat
  key : Nat
  units : Nat

/-- The commands of a column's cores in the queues in which they request leave: a whole-array command once. -/
def State.columnEnts (s : State) (d : DieId) (col : Nat) : List (CoreId × Nat × Nat × Entry) :=
  (List.range 8).flatMap fun y =>
    let c := mkCore d col y
    [0, 1, 2].flatMap fun n =>
      (((s.core c).queue n).filter fun p => !(n = 1 && p.2.whole)).map fun p => (c, n, p.1, p.2)

/-- Leave granted in a column. -/
def State.granted (s : State) (d : DieId) (col : Nat) : Nat :=
  sum ((s.columnEnts d col).map fun p => if p.2.2.2.leave then p.2.2.2.units p.2.1 else 0)

/-- Requests pending in a column, each with its place in the order: CLASS, request, y, then whole-array, H0, H1, transfer. -/
def State.leaveReqs (s : State) (d : DieId) (col : Nat) : List LeaveReq :=
  (s.columnEnts d col).filterMap fun p =>
    let (c, n, ix, e) := p
    match e.lreq with
    | none => none
    | some t =>
      if e.leave || e.missed s.cyc then none
      else
        let cls := bClass (s.seat c e.seat).billet
        some ⟨c, n, ix, ((cls * 2 ^ 64 + t) * 8 + coreY c) * 4 + (if e.whole && n != 2 then 0 else n + 1), e.units n⟩

/-- The first request of a column. -/
def firstReq (l : List LeaveReq) : Option LeaveReq :=
  l.foldl (fun m r => match m with
    | none => some r
    | some a => if r.key < a.key then some r else some a) none

/-- Budget of a column: 48 units unless the steward has set it (R186). -/
def State.budgetOf (s : State) (d : DieId) (col : Nat) : Nat := (s.die d).lb.val 48 col

/-- Meaning of LEAVE_GRANT: the first request alone, 8 ck after it was made, while the budget has room (R186). -/
def execLeaveGrant (die : DieId) (col : Bits3) (s : State) : Result :=
  .next <| match firstReq (s.leaveReqs die col.toNat) with
    | none => s
    | some r =>
      match ((s.core r.core).queue r.n).find r.ix with
      | none => s
      | some e =>
        if e.lreq.getD s.cyc + 8 ≤ s.cyc && s.granted die col.toNat + r.units ≤ s.budgetOf die col.toNat then
          s.modCore r.core fun x => x.modEnt r.n r.ix fun e => ({ e with leave := true } : Entry).aged r.n s.cyc
        else s

/-- A failed access of an engine recorded in the function's fault queue (R371). -/
def State.engRecord (s : State) (c : CoreId) (n : Nat) (e : Entry) (f : XFault) : State :=
  s.recordFault (s.whoSeat c e.seat) c e.seat (e.src n).toNat (bInst (s.seat c e.seat).billet) f

/-- An error response to an access of an engine recorded in the function's fault queue (R376). -/
def State.engAnswer (s : State) (c : CoreId) (n : Nat) (e : Entry) (a : FarAns) (acc : AccKind) (va : Nat) (l : List Seg) : State :=
  if a.err == some .bus then s.engRecord c n e ⟨fBus, 10, 0, va, 0, acc, !(s.seat c e.seat).plv, farPa l⟩ else s

/-- Rows of a command, now that its block has been read. Where the block could not be read at the enqueue they take the place of every
row, and bundles that have written one of them have raced with the command; where it has been written since, its rows join those that it
had, and what it writes is undefined (R115, R180). -/
def SeatSt.addUnd (q : SeatSt) (n : Nat) (e : Entry) (alt : Option Nat) (b : List Byte) : SeatSt :=
  let own (u : Und) : Bool := u.q = n && u.seq = e.seq.toNat
  let l := undOf n e.seq alt (e.rows b)
  let within (u v : Und) : Bool := u.gran == v.gran && v.lo ≤ u.lo && u.hi ≤ v.hi
  if q.und.any fun u => own u && u.unk then
    let hit := q.und.filter fun u => own u && u.bad && u.hi = u.lo + 1 && l.any (within u)
    { q with und := (q.und.filter fun u => !own u) ++ (l.map fun u => { u with bad := !hit.isEmpty })
        ++ hit.map fun u => { u with unk := false } }
  else
    let new := l.filter fun u => !q.und.any fun v => own v && v.gran == u.gran && v.lo = u.lo && v.hi = u.hi && v.wr == u.wr
    if new.isEmpty then q else { q with und := q.und ++ l.map fun u => { u with bad := true } }

/-- Meaning of PARAM_BLOCK_READ_DONE: the block is read and tested once, or the entry faults; a transfer that needs leave
requests it. The read waits for the strand's accesses before the command's bundle; what another device or the host has to give is asked
for then, and `ent` is its answer (R186, R200, R231, R297, R376). -/
def execParamBlockReadDone (core : CoreId) (q : EngQ) (ent : EntAns) (s : State) : Result :=
  onLive core (engNo q) ent.1 s fun e =>
    let n := engNo q
    let ix := ent.1.toNat
    let r := s.seat core e.seat
    if e.st != .selected || e.blk.isSome || e.missed s.cyc || !s.blockMay core e then s
    else match s.span (s.whoEng core e) .read e.pba.toNat 256 with
      | .bad f => (s.engRecord core n e f).engFault core n ix f.code (BitVec.ofNat 64 f.va)
      | .ok l =>
        if isFar l && !e.asked then s.askBlock core n ix e
        else
          let b := (farFill ent.2 (farParts l 0) (s.nearBytes l)).map Prod.fst
          match if isFar l then farFault ent.2 e.pba.toNat else none with
          | some v => (s.engAnswer core n e ent.2 .read v.2.toNat l).engFault core n ix v.1 v.2
          | none => match blkBad e.opc.toNat e.q.toNat (r.rw * r.rh) b with
            | some o => s.engFault core n ix fBus (BitVec.ofNat 64 (e.pba.toNat + o))
            | none =>
              let mate := ((s.core core).mateIx n e).bind fun j => (((s.core core).queue (1 - n)).find j).map Entry.seq
              let e0 := { e with nstep := BitVec.ofNat 32 (blkSteps b), seq := if n = 1 then mate.getD e.seq else e.seq }
              let alt := mate.map fun m => (if n = 1 then e.seq else m).toNat
              let s := s.modCore core fun x => x.modEnt n ix fun e =>
                let e := { e with blk := some b, nstep := BitVec.ofNat 32 (blkSteps b) }
                ({ e with lreq := if n = 2 && e.units 2 != 0 then some s.cyc else e.lreq } : Entry).aged n s.cyc
              s.modSeat core e.seat fun r => r.addUnd (if e.whole && n != 2 then 0 else n) e0 alt b

/-- Reason of a missed stamp (R184). -/
def Entry.missReason (e : Entry) (n : Nat) : Nat :=
  if e.st == .queued || !e.pace then 3
  else if !e.token then 1
  else if e.st == .head then 3
  else if (e.units n != 0 && !e.leave) || e.blk.isNone then 2
  else 1

/-- Meaning of STAMP_MISS: the first CYC past STAMP + SLK at which the entry does not run (R184, R256). -/
def execStampMiss (core : CoreId) (q : EngQ) (idx : EntIdx) (s : State) : Result :=
  onLive core (engNo q) idx s fun e =>
    let n := engNo q
    let c := e.missAt
    if e.missed s.cyc && !e.drop then
      s.engFault core n idx.toNat fSmiss
        (BitVec.ofNat 64 ((c - e.stamp.toNat) % 2 ^ 32 + e.missReason n * 2 ^ 32))
    else s

end Sys2Proof.Machine
end

