-- ==== Sys2Proof/Machine/Lanes.lean ====
section
/-!
DEFINITION. Lane operations shared by the V syllable (R110 to R113, R116, R118).
-/
namespace Sys2Proof.Machine

/-- A V-syllable instruction that writes active lanes of a row with a base bound (R57, R111). -/
def lanes (s : State) (i : Instr) (vd : VReg) (lat : Nat) (src : List VSrc) (g : Guard) (ty : Ty)
    (f : At → Nat → Nat × Bool) : Result :=
  attempt s i fun e => e.plan [] (e.put (lat + raise src) vd ty.width (lanesOf ty (e.active g) (f e)))

/-- The fcr that an instruction captures (R110). -/
def At.fcr (e : At) : Fcr := fcrOf e.q.fcr

/-- A floating result of exact operands, rounded once under RM; any NaN gives QNaN (R113, R116). -/
def floatLane (c : Fcr) (t : Ty) (f : List Num → Num) (l : List (Nat × Bool)) : Nat × Bool :=
  let v := l.map fun p => real c t p.1
  (roundTo c t none (f v), l.any Prod.snd)

/-- RM is RDN: exact zero sums are −0 (R113). -/
def Fcr.rdn (c : Fcr) : Bool := c.rm == 3

/-- One source lane. -/
def lane1 (a : Opnd) (w k : Nat) : List (Nat × Bool) := [(a.el w k, a.tg w k)]
/-- Two source lanes. -/
def lane2 (a b : Opnd) (w k : Nat) : List (Nat × Bool) := [(a.el w k, a.tg w k), (b.el w k, b.tg w k)]
/-- Three source lanes. -/
def lane3 (a b c : Opnd) (w k : Nat) : List (Nat × Bool) := [(a.el w k, a.tg w k), (b.el w k, b.tg w k), (c.el w k, c.tg w k)]

/-- Two-source floating arithmetic. -/
def float2 (s : State) (i : Instr) (vd : VReg) (a b : VSrc) (g : Guard) (ty : Ty) (lat : Nat) (f : Fcr → Num → Num → Num) : Result :=
  lanes s i vd lat [a, b] g ty fun e =>
    let c := e.fcr
    let x := e.opnd a
    let y := e.opnd b
    fun k => floatLane c ty (fun l => match l with
      | [p, q] => f c p q
      | _ => .nan) (lane2 x y ty.width k)

/-- Three-source floating arithmetic: one rounding of the exact result. -/
def float3 (s : State) (i : Instr) (vd : VReg) (a b d : VSrc) (g : Guard) (ty : Ty) (f : Fcr → Num → Num → Num → Num) : Result :=
  lanes s i vd 4 [a, b, d] g ty fun e =>
    let c := e.fcr
    let x := e.opnd a
    let y := e.opnd b
    let z := e.opnd d
    fun k => floatLane c ty (fun l => match l with
      | [p, q, r] => f c p q r
      | _ => .nan) (lane3 x y z ty.width k)

/-- Encoding of an input after DAZ (R116). -/
def dazCode (c : Fcr) (t : Ty) (x : Nat) : Nat :=
  match real c t x with
  | .fin n 0 _ => if n then 2 ^ (t.width - 1) else 0
  | _ => x % 2 ^ t.width

/-- The order of VMIN and VMAX: −0 below +0 (R116). -/
def belowF (a b : Num) : Bool :=
  match a.cmp b with
  | some .lt => true
  | some .eq => a.sign && !b.sign
  | _ => false

/-- The lesser of two encodings, or the greater; NaN gives QNaN (R116). -/
def minmaxF (c : Fcr) (t : Ty) (greater : Bool) (a b : Nat) : Nat :=
  let x := real c t a
  let y := real c t b
  if x.isNan || y.isNan then qnan t
  else if belowF x y != greater then dazCode c t a
  else if belowF y x != greater then dazCode c t b
  else dazCode c t a

/-- Lesser or greater in lanes. -/
def minmax (s : State) (i : Instr) (vd : VReg) (a b : VSrc) (g : Guard) (ty : Ty) (greater : Bool) : Result :=
  lanes s i vd 4 [a, b] g ty fun e =>
    let c := e.fcr
    let x := e.opnd a
    let y := e.opnd b
    let w := ty.width
    fun k => (minmaxF c ty greater (x.el w k) (y.el w k), x.tg w k || y.tg w k)

/-- A bit operation on one source. -/
def bits1 (s : State) (i : Instr) (vd : VReg) (a : VSrc) (g : Guard) (ty : Ty) (lat : Nat) (f : Nat → Nat) : Result :=
  lanes s i vd lat [a] g ty fun e =>
    let x := e.opnd a
    let w := ty.width
    fun k => (f (x.el w k), x.tg w k)

/-- A bit operation on two sources. -/
def bits2 (s : State) (i : Instr) (vd : VReg) (a b : VSrc) (g : Guard) (ty : Ty) (lat : Nat) (f : Nat → Nat → Nat) : Result :=
  lanes s i vd lat [a, b] g ty fun e =>
    let x := e.opnd a
    let y := e.opnd b
    let w := ty.width
    fun k => (f (x.el w k) (y.el w k), x.tg w k || y.tg w k)

/-- An integer result wrapped to the width, or clamped to the type's range (R118). -/
def fitInt (t : Ty) (sat : Bool) (v : Int) : Nat := wrap t.width (if sat then clampI (tyLo t) (tyHi t) v else v)

/-- Two-source integer arithmetic: exact, then wrapped or clamped (R118). -/
def int2 (s : State) (i : Instr) (vd : VReg) (a b : VSrc) (sat : Bool) (g : Guard) (ty : Ty) (lat : Nat)
    (f : Int → Int → Int) : Result :=
  bits2 s i vd a b g ty lat fun x y => fitInt ty sat (f (intOf ty x) (intOf ty y))

/-- A special function in lanes (R117). -/
def special (s : State) (i : Instr) (vd : VReg) (a : VSrc) (g : Guard) (ty : Ty) (f : Spf) : Result :=
  lanes s i vd 10 [a] g ty fun e =>
    let c := e.fcr
    let x := e.opnd a
    let w := ty.width
    fun k => (spfAt c ty f (x.el w k), x.tg w k)

end Sys2Proof.Machine
end

