-- ==== Sys2Proof/Machine/VecReduce.lean ====
section
/-!
DEFINITION. Reductions and scans over the fixed tree, conversions, roundings, microscaling and delta masks (R127 to R135).
-/
namespace Sys2Proof.Machine

/-! ### Reductions and scans (R127, R128) -/

/-- A node of the tree: empty, or a value with the tags of the active lanes under it. -/
abbrev Node (α : Type) := Option (α × Bool)

/-- comb of two nodes (R127). -/
def comb {α : Type} (f : α → α → α) : Node α → Node α → Node α
  | none, y => y
  | x, none => x
  | some (x, t), some (y, u) => some (f x y, t || u)

/-- The level above a level of the tree. -/
def nextLevel {α : Type} (f : α → α → α) : List (Node α) → List (Node α)
  | x :: y :: r => comb f x y :: nextLevel f r
  | l => l

/-- The levels of the tree from the leaves up, n of them above the leaves. -/
def treeLevels {α : Type} (f : α → α → α) : Nat → List (Node α) → List (List (Node α))
  | 0, l => [l]
  | n + 1, l => l :: treeLevels f n (nextLevel f l)

/-- The combination of the active lanes below a lane number, from whole nodes of the tree, from the left (R128). -/
def scanTo {α : Type} (f : α → α → α) (lv : List (List (Node α))) (n : Nat) : Node α :=
  ((List.range lv.length).reverse.foldl (fun (p : Node α × Nat) l =>
    if n.testBit l then (comb f p.1 (((lv.getD l []).getD (p.2 / 2 ^ l) none)), p.2 + 2 ^ l) else p) (none, 0)).1

/-- What an operation of VRED and VSCAN combines: its leaves, its nodes, and the conversion of a node for t (R128). -/
structure Reduce (α : Type) where
  leaf : Nat → α
  op : α → α → α
  out : α → Nat
  empty : Nat

/-- Floating .add: FP32 sums, rounded at each node (R128). -/
def addF (c : Fcr) (t : Ty) : Reduce Num :=
  { leaf := real c t
    op := fun x y => real ⟨0, false, false, false, 0⟩ .f32 (roundTo c .f32 none (x.add c.rdn y))
    out := roundTo c t none
    empty := 0 }

/-- Encoding of an infinity of a wide type. -/
def infOf (t : Ty) (neg : Bool) : Nat := roundTo ⟨0, false, false, false, 0⟩ t none (.inf neg)

/-- The operations on encodings; a floating leaf of .min and .max is read as VMIN and VMAX read it, a NaN as QNaN(t) and a
subnormal under DAZ (R113, R128, R138). -/
def opE (c : Fcr) (t : Ty) (op : RedOp) : Reduce Nat :=
  let w := t.width
  let ones := 2 ^ w - 1
  let ints (f : Int → Int → Int) (x y : Nat) : Nat := fitInt t false (f (intOf t x) (intOf t y))
  let lone (hi : Bool) (x : Nat) : Nat := if t.isWide then minmaxF c t hi x x else x
  match op with
  | .add => ⟨id, ints (· + ·), id, 0⟩
  | .min => ⟨lone false, if t.isWide then minmaxF c t false else ints min, id, if t.isWide then infOf t false else wrap w (tyHi t)⟩
  | .max => ⟨lone true, if t.isWide then minmaxF c t true else ints max, id, if t.isWide then infOf t true else wrap w (tyLo t)⟩
  | .and => ⟨id, fun x y => x &&& y, id, ones⟩
  | .or => ⟨id, fun x y => x ||| y, id, 0⟩
  | .xor => ⟨id, fun x y => x ^^^ y, id, 0⟩

/-- The levels of the tree of an operand. -/
def levelsOf {α : Type} (r : Reduce α) (x : Opnd) (t : Ty) (act : Nat → Bool) : List (List (Node α)) :=
  treeLevels r.op t.lanes.log2
    ((List.range t.lanes).map fun k => if act k then some (r.leaf (x.el t.width k), x.tg t.width k) else none)

/-- Value and tag of a node for t. -/
def nodeOut {α : Type} (r : Reduce α) : Node α → Nat × Bool
  | none => (r.empty, false)
  | some (v, t) => (r.out v, t)

/-- The root of a tree. -/
def rootOut {α : Type} (r : Reduce α) (lv : List (List (Node α))) : Nat × Bool :=
  nodeOut r ((lv.getLastD []).headD none)

/-- Root of VRED (R128). -/
def redRoot (c : Fcr) (t : Ty) (op : RedOp) (x : Opnd) (act : Nat → Bool) : Nat × Bool :=
  if t.isWide && op == .add then rootOut (addF c t) (levelsOf (addF c t) x t act)
  else rootOut (opE c t op) (levelsOf (opE c t op) x t act)

/-- Lane k of VSCAN (R128). -/
def scanLane (c : Fcr) (t : Ty) (op : RedOp) (x : Opnd) (act : Nat → Bool) : Nat → Nat × Bool :=
  if t.isWide && op == .add then
    let r := addF c t
    let lv := levelsOf r x t act
    fun k => nodeOut r (scanTo r.op lv (k + 1))
  else
    let r := opE c t op
    let lv := levelsOf r x t act
    fun k => nodeOut r (scanTo r.op lv (k + 1))

/-- Meaning of VRED: the root in lane 0, zero in the others, every lane written (R128). -/
def execVred (vd : VReg) (a : VSrc) (op : RedOp) (g : Guard) (ty : Ty) (s : State) : Result :=
  attempt s (.vred vd a op g ty) fun e =>
    let r := redRoot e.fcr ty op (e.opnd a) (e.active g)
    e.plan [] (e.put (12 + raise [a]) vd ty.width (some r :: List.replicate (ty.lanes - 1) (some (0, false))))

/-- Meaning of VSCAN (R128). -/
def execVscan (vd : VReg) (a : VSrc) (op : RedOp) (g : Guard) (ty : Ty) (s : State) : Result :=
  lanes s (.vscan vd a op g ty) vd 12 [a] g ty fun e => scanLane e.fcr ty op (e.opnd a) (e.active g)

/-! ### Conversions (R129 to R131) -/

/-- The hash of a stochastic rounding in the V syllable (R145). -/
def At.draw (e : At) (lane : Nat) : Imm32 := srHash e.fcr.seed (BitVec.ofNat 32 lane) 0 e.q.stepNo

/-- A type to which a conversion may round stochastically (R130). -/
def mayDraw (t : Ty) : Bool := t != .f32

/-- A lane converted (R130). -/
def convert (c : Fcr) (td ts : Ty) (sat : Bool) (draw : Imm32) (x : Nat) : Nat :=
  if ts.isInt && td.isInt then fitInt td sat (intOf ts x)
  else if td.isInt then wrap td.width (numToInt c.rm td (real c ts x))
  else roundTo c td (if c.sr && mayDraw td then some draw else none) (real c ts x)

/-- Source lane of a destination lane, where it is written (R129). -/
def cvtSource (td ts : Ty) (part k : Nat) : Option Nat :=
  let ws := ts.laneWidth
  let wd := td.laneWidth
  if ws < wd then some (part * td.lanes + k)
  else if wd < ws then
    if part * ts.lanes ≤ k && k < part * ts.lanes + ts.lanes then some (k - part * ts.lanes) else none
  else some k

/-- Meaning of VCVT: the listed lanes, where the guard is active at td (R129). -/
def execVcvt (vd : VReg) (a : VSrc) (g : Guard) (td ts : Ty) (part : Bits3) (sat : Bool) (s : State) : Result :=
  attempt s (.vcvt vd a g td ts part sat) fun e =>
    let c := e.fcr
    let x := e.opnd a
    let act := e.active g
    let w := ts.laneWidth
    let l := (List.range td.lanes).map fun k =>
      match cvtSource td ts part.toNat k with
      | some j => if act k then some (convert c td ts sat (e.draw k) (x.el w j), x.tg w j) else none
      | none => none
    e.plan [] (e.put (4 + raise [a]) vd td.laneWidth l)

/-- Rounding mode of VRND: 4 is to nearest with ties away from zero, 5 the captured RM (R131). -/
def rndMode (c : Fcr) (mode : Nat) : Nat := if mode = 5 then c.rm else mode

/-- A value rounded to an integral value of its type (R131). -/
def rndLane (c : Fcr) (t : Ty) (mode x : Nat) : Nat :=
  let k : Fcr := ⟨0, false, false, false, 0⟩
  match real c t x with
  | .nan => qnan t
  | .inf n => roundTo k t none (.inf n)
  | .fin n m e => roundTo k t none (.fin n (roundInt (rndMode c mode) n m e) 0)

/-- Meaning of VRND (R131). -/
def execVrnd (vd : VReg) (a : VSrc) (mode : Bits3) (g : Guard) (ty : Ty) (s : State) : Result :=
  lanes s (.vrnd vd a mode g ty) vd 4 [a] g ty fun e =>
    let c := e.fcr
    let x := e.opnd a
    let w := ty.width
    fun k => (rndLane c ty mode.toNat (x.el w k), x.tg w k)

/-! ### Microscaling (R132 to R134) -/

/-- emax of an element type (R133). -/
def mxEmax : Ty → Int
  | .e4m3 => 8
  | .e5m2 => 15
  | .e3m2 => 4
  | .e2m3 => 2
  | .e2m1 => 2
  | _ => 0

/-- Largest magnitude of a list of values: NaN left out, an infinity counted as the largest finite FP32 (R133). -/
def amaxOf (l : List Num) : Num :=
  l.foldl (fun a y => match y with
    | .nan => a
    | .inf _ => .fin false (2 ^ 24 - 1) 104
    | y => if a.cmp y.abs = some .lt then y.abs else a) (.fin false 0 0)

/-- E of a block (R133). -/
def blockScale (te : Ty) (l : List Num) : Nat :=
  match amaxOf l with
  | .fin _ m e => if m = 0 then 0 else (min 254 (max 0 (top m e - mxEmax te + 127))).toNat
  | _ => 0

/-- y × 64 rounded to an integer and clamped: code and whether the clamp acted (R133, R145). -/
def mxi8Code (c : Fcr) (draw : Option Imm32) (y : Num) : Nat × Bool :=
  match y with
  | .nan => (0, true)
  | .inf n => (if n then 0x80 else 0x7F, true)
  | .fin n m e =>
    let (lo, rem, sh) := cut m (e + 6) 0
    let r : Int := if roundUp c.rm draw n lo rem sh then lo + 1 else lo
    let v := if n then -r else r
    (wrap 8 (clampI (-128) 127 v), v < -128 || 127 < v)

/-- A magnitude rounds beyond the largest finite one of its type (R144). -/
def overflows (c : Fcr) (t : Ty) (draw : Option Imm32) (y : Num) : Bool :=
  match fmtOf t, y with
  | some f, .fin n m e =>
    if m = 0 then false
    else
      let emin : Int := 1 - (f.bias : Int)
      let u := max (top m e) emin - f.f
      let (lo, rem, sh) := cut m e u
      let r := if roundUp c.rm draw n lo rem sh then lo + 1 else lo
      f.top < ((u + f.f - emin).toNat) * 2 ^ f.f + r
  | _, _ => false

/-- The code of an element of a block with scale E, and whether it saturates (R133). -/
def mxElem (c : Fcr) (te : Ty) (sc : Nat) (draw : Option Imm32) (a : Num) : Nat × Bool :=
  let y := a.scale (127 - (sc : Int))
  match a with
  | .nan => (0, true)
  | _ =>
    if te == .mxi8 then mxi8Code c draw y
    else (roundTo c te draw y, overflows c te draw y || (match a with
      | .inf _ => true
      | _ => false))

/-- A block quantised: scale, packed codes, and whether an element saturated. -/
structure Block where
  sc : Nat
  code : Nat
  sat : Bool

/-- Block j of VQMX. -/
def quantBlock (c : Fcr) (te : Ty) (x : Opnd) (draw : Nat → Option Imm32) (j : Nat) : Block :=
  let v := (List.range 32).map fun i => real c .f32 (x.el 32 (32 * j + i))
  let sc := blockScale te v
  let l := (v.zip (List.range 32)).map fun p => mxElem c te sc (draw (32 * j + p.2)) p.1
  ⟨sc, l.foldr (fun p r => p.1 + r * 2 ^ te.width) 0, l.any Prod.snd⟩

/-- The tags of the sectors that block j reads. -/
def blockTag (x : Opnd) (j : Nat) : Bool := (List.range 4).any fun i => x.tg 256 (4 * j + i)

/-- Tag of each sector of a packed row: the blocks that have bytes in it (R133). -/
def packTags (n part : Nat) (x : Opnd) : BitVec 32 :=
  sectorBits fun sct => (List.range 8).any fun j =>
    let lo := part * 32 * n + j * 4 * n
    lo < 32 * sct + 32 && 32 * sct < lo + 4 * n && blockTag x j

/-- Meaning of VQMX (R132, R133). -/
def execVqmx (vd : VReg) (a : VSrc) (te : Ty) (sS : SReg) (part : Bits3) (s : State) : Result :=
  attempt s (.vqmx vd a te sS part) fun e =>
    let c := e.fcr
    let x := e.opnd a
    let n := te.width
    let p := part.toNat
    let bs := (List.range 8).map (quantBlock c te x fun k => if c.sr then some (e.draw k) else none)
    let data := bs.foldr (fun b r => b.code + r * 2 ^ (32 * n)) 0 * 2 ^ (p * 256 * n)
    let mask := (2 ^ (256 * n) - 1) * 2 ^ (p * 256 * n)
    let full := sectorBits fun j => p * 32 * n ≤ 32 * j && 32 * j + 32 ≤ p * 32 * n + 32 * n
    let w := Write.row (e.q.phys (e.q.winRow vd)) (BitVec.ofNat 8192 mask) (BitVec.ofNat 8192 data) full (packTags n p x)
    let scales := BitVec.ofNat 64 (bs.foldr (fun b r => b.sc + r * 256) 0)
    let ev := (bs.zip (List.range 8)).filterMap fun b =>
      if b.1.sat then some (ovEvent (8 * p + b.2) 0 e.k 0 e.q.stepNo.toNat) else none
    let lat := 4 + raise [a]
    e.plan [] (e.flyRow (e.fly lat (.s sS scales ((List.range 8).any (blockTag x)))) lat vd w ev)

/-- The value of element i of block j of a packed row, as an integer field. -/
def mxField (x : Opnd) (n part j i : Nat) : Nat :=
  (x.row.d.toNat >>> (8 * (part * 32 * n + j * 4 * n) + i * n)) % 2 ^ n

/-- Tag of the sectors that hold element i of block j (R134). -/
def mxFieldTag (x : Opnd) (n part j i : Nat) : Bool :=
  let lo := 8 * (part * 32 * n + j * 4 * n) + i * n
  x.row.t.getLsbD (lo / 256) || x.row.t.getLsbD ((lo + n - 1) / 256)

/-- An element dequantised (R134). -/
def dequant (c : Fcr) (te : Ty) (sc code : Nat) : Nat :=
  if sc = 255 then 0
  else match real c te code with
    | .fin n m e => roundTo c .f32 none ((Num.fin n m e).scale ((sc : Int) - 127))
    | _ => 0

/-- Meaning of VDQMX: every FP32 lane (R134). -/
def execVdqmx (vd : VReg) (a : RowSrc) (te : Ty) (sS : SReg) (part : Bits3) (s : State) : Result :=
  attempt s (.vdqmx vd a te sS part) fun e =>
    let c := e.fcr
    let x := e.opndR a
    let (sv, st) := e.sGet sS
    let n := te.width
    let p := part.toNat
    let l := (List.range 256).map fun k =>
      some (dequant c te (bits sv (8 * (k / 32) + 7) (8 * (k / 32))) (mxField x n p (k / 32) (k % 32)),
        mxFieldTag x n p (k / 32) (k % 32) || st)
    e.plan [] (e.put (4 + raiseR a) vd 32 l)

/-! ### Delta masks (R135) -/

/-- A value as VDELT compares it: signed codes of .i8 and .mxi8, special codes of the narrow formats as zero. -/
def deltaVal (c : Fcr) (t : Ty) (x : Nat) : Num :=
  match t with
  | .i8 | .mxi8 => numOfInt (intOf .i8 x)
  | .e4m3 | .e5m2 => match real c t x with
    | .fin n m e => .fin n m e
    | _ => .fin false 0 0
  | t => real c t x

/-- What one block has found: whether it is forced, and the largest difference. -/
def deltaBlock (c : Fcr) (t : Ty) (x y : Opnd) (act : Nat → Bool) (j : Nat) : Bool × Num :=
  (List.range 32).foldl (fun (p : Bool × Num) i =>
    let k := 32 * j + i
    if act k then
      let d := (deltaVal c t (x.el t.width k)).add false (deltaVal c t (y.el t.width k)).neg
      (p.1 || x.tg t.width k || y.tg t.width k || d.isNan, if p.2.cmp d.abs = some .lt then d.abs else p.2)
    else p) (false, .fin false 0 0)

/-- Bit j of a delta mask. -/
def deltaBit (c : Fcr) (t : Ty) (th : Num) (x y : Opnd) (act : Nat → Bool) (j : Nat) : Bool :=
  let b := deltaBlock c t x y act j
  b.1 || th.isNan || b.2.cmp th == some .gt || b.2.cmp th == some .eq

/-- Meaning of VDELT (R135). -/
def execVdelt (vd : VReg) (a b : VSrc) (sc : SReg) (slot : Slot) (g : Guard) (ty : Ty) (s : State) : Result :=
  attempt s (.vdelt vd a b sc slot g ty) fun e =>
    let c := e.fcr
    let x := e.opnd a
    let y := e.opnd b
    let act := e.active g
    let v : Nat := (e.sGet sc).1.toNat % 2 ^ 32
    let th := if ty == .i8 || ty == .mxi8 then numOfInt (v : Int) else real c .f32 v
    let m := (List.range (ty.lanes / 32)).foldr (fun j r => (deltaBit c ty th x y act j).toNat + 2 * r) 0
    e.plan [] (e.put (6 + raise [a, b]) vd 32
      ((List.range 256).map fun k => if k = slot.toNat then some (m, false) else none))

end Sys2Proof.Machine
end

