-- ==== Sys2Proof/Machine/MatStep.lean ====
section
/-!
DEFINITION. What a step of the matrix engine computes and writes (R148, R149, R192 to R213).
-/
namespace Sys2Proof.Machine

/-! ### Operands -/

/-- A row that two agents have written without order, or that a bundle has written while a command used it (R115, R223). -/
def SeatSt.raced (q : SeatSt) (gran : Bool) (i : Nat) : Bool :=
  q.und.any fun u => u.bad && u.wr && u.gran == gran && u.lo ≤ i && i < u.hi

/-- A window row as a command reads it: undefined where a result for it was in flight at the command's enqueue (R399), while a result of a
bundle for it is on its way, of fixed or of variable latency (R31, R59, R115), and where it is raced. -/
def CoreSt.engRow (x : CoreSt) (e : Entry) (free i : Nat) : Row :=
  let q := x.seatAt e.seat
  let p := q.phys i
  if e.fog.contains i || q.raced false i || (q.fly.any fun f => f.w.code = 128 + p) || q.vres.any fun v => match v.dest with
      | .row r _ _ => r = p
      | _ => false
  then ⟨Config.freeRow p free, Config.freeTags p free⟩ else x.row p

/-- A row of the granary as a step reads it (R223). -/
def CoreSt.engGran (x : CoreSt) (e : Entry) (free i : Nat) : Row :=
  if (x.seatAt e.seat).raced true i then ⟨Config.freeRow (2048 + i) free, Config.freeTags (2048 + i) free⟩ else x.granRow i

/-- A row of the register file with what a unit's running steps are still to write into it before a CYC: what the next step of the command
reads there (R203, R204). -/
def CoreSt.soonRow (x : CoreSt) (unit phys at0 : Nat) (r : Row) : Row :=
  x.ewr.foldl (fun (r : Row) w =>
    if w.n = unit && !w.gran && w.row = phys && w.at0 < at0 then r.merge w.mask w.data w.full w.tags else r) r

/-- A window row as a step of a command reads it in a ck, behind what the command's earlier steps write until then (R203). -/
def CoreSt.rowAt (x : CoreSt) (e : Entry) (free unit at0 i : Nat) : Row :=
  x.soonRow unit ((x.seatAt e.seat).phys i) at0 (x.engRow e free i)

/-- Rows of a tile from a base as a step reads them in a ck: the granary's, or the seat's window's (R198, R203). -/
def CoreSt.tileRows (x : CoreSt) (e : Entry) (free unit : Nat) (win : Bool) (base at0 i : Nat) : Row :=
  if win then x.rowAt e free unit at0 (base + i) else x.engGran e free (base + i)

/-- n bits of a tile from a bit offset; an element may lie in two rows. -/
def tileBits (f : Nat → Row) (bit n : Nat) : Nat :=
  let i := bit / 8192
  (((f i).d.toNat + (f (i + 1)).d.toNat * 2 ^ 8192) >>> (bit % 8192)) % 2 ^ n

/-- A tag among the sectors that n bits of a tile reach. -/
def tileTag (f : Nat → Row) (bit n : Nat) : Bool :=
  (List.range ((bit + n - 1) / 256 + 1 - bit / 256)).any fun j =>
    let sct := bit / 256 + j
    (f (sct / 32)).t.getLsbD (sct % 32)

/-- n bits of a slice from a bit offset (R192): granules of 64 bytes, `per` of them to a slice. -/
def sliceBits (t : Tab Gran) (per c bit n : Nat) : Nat :=
  let g (i : Nat) : Nat := (t.val ⟨0, false⟩ (c * per + i)).d.toNat
  ((g (bit / 512) + g (bit / 512 + 1) * 2 ^ 512) >>> (bit % 512)) % 2 ^ n

/-- Poison among the granules that n bits of a slice reach (R196). -/
def slicePois (t : Tab Gran) (per c bit n : Nat) : Bool :=
  (List.range ((bit + n - 1) / 512 + 1 - bit / 512)).any fun j => (t.val ⟨0, false⟩ (c * per + bit / 512 + j)).p

/-- Element type of an A or B type code (R41, R198). -/
def tyOfCode : Nat → Ty
  | 0 => .f32
  | 1 => .bf16
  | 2 => .f16
  | 3 => .e4m3
  | 4 => .e5m2
  | 5 => .e3m2
  | 6 => .e2m3
  | 7 => .e2m1
  | 10 => .i8
  | _ => .mxi8

/-- Thirty-two elements of an operand with their scale, as a step reads them (R148): the values, whether the block is read as
zero in some part, the codes, and its data poison. -/
structure OpBlock where
  val : List Num
  zero : Bool
  codes : List Nat
  sc : Nat
  bad : Bool

/-- A block from its codes and its scale; .bf16 has none (R148, R149). -/
def mkBlock (c : Fcr) (t : Ty) (codes : List Nat) (sc : Nat) (bad : Bool) : OpBlock :=
  if t == .bf16 then ⟨codes.map (real c t), false, codes, sc, bad⟩
  else
    let v := codes.map (real c t)
    let odd (y : Num) : Bool := match y with
      | .fin _ _ _ => false
      | _ => true
    ⟨v.map fun y => if sc = 255 || odd y then .fin false 0 0 else y.scale ((sc : Int) - 127), sc = 255 || v.any odd, codes, sc, bad⟩

/-- Row r of an A tile: four blocks along K with their scales, which lie at a window byte address (R202); scales are read at the step's
start, and the row in its own ck (R203). -/
def aRow (c : Fcr) (t : Ty) (f sc : Nat → Row) (sa r : Nat) : List OpBlock :=
  let n := t.width
  (List.range 4).map fun b =>
    let codes := (List.range 32).map fun i => tileBits f ((r * 128 + 32 * b + i) * n) n
    let bit := 8 * (sa + 4 * r + b)
    let mx := t != .bf16
    mkBlock c t codes (if mx then tileBits sc bit 8 else 127)
      (tileTag f ((r * 128 + 32 * b) * n) (32 * n) || (mx && tileTag sc bit 8))

/-- The chunk of a column: four blocks of its slice (R192, R205). -/
def bCol (x : CoreSt) (c : Fcr) (t : Ty) (off sb col : Nat) : List OpBlock :=
  let n := t.width
  let mx := t != .bf16
  let bad := slicePois x.wel 1024 col (8 * off) (128 * n) || (mx && slicePois x.wsc 32 col (8 * sb) 32)
  (List.range 4).map fun b =>
    mkBlock c t ((List.range 32).map fun i => sliceBits x.wel 1024 col (8 * off + (32 * b + i) * n) n)
      (if mx then sliceBits x.wsc 32 col (8 * (sb + b)) 8 else 127) bad

/-! ### Bytes written into rows (R161, R205, R234) -/

/-- A row with some of its bytes written: a sector written whole takes the poison of its bytes, one written in part keeps its own
beside it. -/
def patchRow (old : Row) (f : Nat → Option (Byte × Bool)) : Row :=
  let cs := (List.range 1024).map f
  let byte (g : Byte × Bool → Nat) : Nat := leNat (cs.map fun o => match o with
    | some v => BitVec.ofNat 8 (g v)
    | none => 0)
  old.merge (BitVec.ofNat 8192 (byte fun _ => 255)) (BitVec.ofNat 8192 (byte fun v => v.1.toNat))
    (sectorBits fun j => ((cs.drop (32 * j)).take 32).all Option.isSome)
    (sectorBits fun j => ((cs.drop (32 * j)).take 32).any fun o => match o with
      | some v => v.2
      | none => false)

/-- Bytes of a list that fall into row i of a region that starts at a byte address. -/
def bytesIn (a : Nat) (l : List (Byte × Bool)) (i : Nat) : Nat → Option (Byte × Bool) := fun j =>
  let p := 1024 * i + j
  if a ≤ p && p < a + l.length then l[p - a]? else none

/-- Rows that n bytes from a byte address touch. -/
def rowsOf (a n : Nat) : List Nat := if n = 0 then [] else (List.range ((a + n - 1) / 1024 + 1 - a / 1024)).map (· + a / 1024)

/-- Bytes written into the seat's window from a window byte address. -/
def CoreSt.putWindow (x : CoreSt) (k : SeatId) (a : Nat) (l : List (Byte × Bool)) : CoreSt :=
  (rowsOf a l.length).foldl (fun (y : CoreSt) i =>
    let p := (y.seatAt k).phys i
    { y with vrf := y.vrf.put p (patchRow (y.row p) (bytesIn a l i)) }) x

/-- Bytes written into the granary from a byte address. -/
def CoreSt.putGran (x : CoreSt) (a : Nat) (l : List (Byte × Bool)) : CoreSt :=
  (rowsOf a l.length).foldl (fun (y : CoreSt) i => { y with gran := y.gran.put i (patchRow (y.granRow i) (bytesIn a l i)) }) x

/-- Bytes of rows from a byte address, each with its sector's tag. -/
def bytesFrom (f : Nat → Row) (a n : Nat) : List (Byte × Bool) :=
  (List.range n).map fun i =>
    let p := a + i
    let r := f (p / 1024)
    (BitVec.ofNat 8 (bits r.d (8 * (p % 1024) + 7) (8 * (p % 1024))), r.t.getLsbD (p % 1024 / 32))

/-! ### Sums (R149) -/

/-- The exact sum of terms: zero is −0 only where every term is a zero with its sign set, else +0, or −0 under RDN (R149). -/
def sumTerms (c : Fcr) (l : List Num) : Num :=
  match l.foldl (Num.add false) (.fin false 0 0) with
  | .fin n m e => if m = 0 then .fin (c.rdn || l.all fun y => y.isZero && y.sign) 0 0 else .fin n m e
  | y => y

/-- The accumulator after one chunk (R149). -/
def mmaLane (c : Fcr) (acc : Nat) (a b : List OpBlock) : Nat :=
  let prods := (a.zip b).flatMap fun p => (p.1.val.zip p.2.val).map fun q => q.1.mul q.2
  roundTo c .f32 none (sumTerms c (real c .f32 acc :: prods))

/-- An accumulator or snapshot lane where no block is changed (R208). -/
def keepLane (c : Fcr) (acc : Nat) : Nat := roundTo c .f32 none (real c .f32 acc)

/-- The accumulator after one delta chunk: the changed blocks alone (R208). -/
def mmadLane (c : Fcr) (acc : Nat) (a ref b : List OpBlock) (ch : List Bool) : Nat :=
  if !ch.any id then keepLane c acc
  else
    let terms := (((a.zip ref).zip b).zip ch).flatMap fun p =>
      if p.2 then ((p.1.1.1.val.zip p.1.1.2.val).zip p.1.2.val).map fun q => (q.1.1.add c.rdn q.1.2.neg).mul q.2 else []
    roundTo c .f32 none (sumTerms c (real c .f32 acc :: terms))

/-! ### Writing accumulator rows -/

/-- Lanes lane0 to lane0 + length − 1 of a physical row to be written at 32 bits in a ck, with the tags of their sectors (R193,
R205). -/
def laneWr (at0 unit : Nat) (k : SeatId) (step phys lane0 : Nat) (v : List Nat) (tags : BitVec 32) : EWr :=
  let n := v.length
  let full := sectorBits fun j => lane0 ≤ 8 * j && 8 * j + 8 ≤ lane0 + n
  { at0 := at0, n := unit, seat := k, step := step, gran := false, row := phys
    mask := BitVec.ofNat 8192 ((2 ^ (32 * n) - 1) * 2 ^ (32 * lane0))
    data := BitVec.ofNat 8192 ((packRow 32 v).toNat * 2 ^ (32 * lane0))
    full := full, tags := tags &&& full, ev := [] }

/-- Lane of an accumulator row as an encoding. -/
def laneOf (r : Row) (l : Nat) : Nat := (r.d.toNat >>> (32 * l)) % 2 ^ 32

/-- First lane of a command's columns: 128·CLANE for a half (R193). -/
def lane0Of (e : Entry) (b : List Byte) : Nat := if e.whole || !blkFlag b 2 then 0 else 128

/-- Array row of column j (R193). -/
def arrayRow (e : Entry) (j : Nat) : Nat := if e.whole then j else 128 * e.q.toNat + j

/-- Every level along K stands at index 0 (R204). -/
def firstK (b : List Byte) (s : Nat) : Bool :=
  (List.range (blkLev b)).all fun l => !(field b 4 1).testBit l || lvIndex b l s = 0

/-- Block poison noted in the entry: which operands, and how many blocks (R205). -/
def Entry.note (e : Entry) (pa pb pr : Bool) (n s : Nat) : Entry :=
  if !(pa || pb || pr) then e
  else
    let old := e.bpois
    let w := setBits old 31 16 (min 0xFFFF (bits old 31 16 + n))
    let w := w ||| BitVec.ofNat 64 (pa.toNat + pb.toNat * 2 + pr.toNat * 4)
    { e with bpois := if bits old 2 0 = 0 then setBits w 63 32 s else w }

/-- Blocks read as zero among some. -/
def zeroCount (l : List (List OpBlock)) : Nat := sum (l.map fun r => (r.filter OpBlock.zero).length)

/-- What a step does: the rows it writes, each in its ck, and the step as it runs (R203). -/
structure Done where
  wr : List EWr
  run : Run

/-- Twice the ck that a step takes for an A row, by the types of A and B (R202). -/
def rowTime (b : List Byte) : Nat := if field b 1 1 = 1 then 8 else if field b 1 1 = 7 && field b 2 1 = 7 then 1 else 2

/-- Tags of the sectors of an accumulator row after a step (R205): the incoming tag, the A row's poison, and the weight poison of
the columns under each sector. -/
def rowTags (inc : BitVec 32) (abad : Bool) (lane0 : Nat) (bbad : List Bool) : BitVec 32 :=
  sectorBits fun j => inc.getLsbD j || abad || ((bbad.drop (8 * j - lane0)).take 8).any id

/-- A step of MMA that starts at a CYC in a unit: row r is written 23 ck after it is fed, and the next step's feed starts after
128 rows (R202 to R205). -/
def mmaStep (x : CoreSt) (e : Entry) (b : List Byte) (free now unit : Nat) : Done :=
  let s := e.stepc.toNat
  let c := fcrOf e.fcr
  let ta := tyOfCode (field b 1 1)
  let tb := tyOfCode (field b 2 1)
  let nc := colsOf e.q.toNat
  let l0 := lane0Of e b
  let cb := addr32 b 16 2 s
  let q := x.seatAt e.seat
  let p2 := rowTime b
  let sc := x.rowAt e free unit now
  let as := (List.range 128).map fun r =>
    aRow c ta (x.tileRows e free unit (blkFlag b 0) (addr32 b 8 0 s) (now + 4 + p2 * r / 2)) sc (addr32 b 20 3 s) r
  let bs := (List.range nc).map fun j => bCol x c tb (addr32 b 12 1 s) (addr32 b 24 4 s) (arrayRow e j)
  let first := blkFlag b 1 && firstK b s
  let bbad := bs.map fun l => l.any OpBlock.bad
  let wr := (as.zip (List.range 128)).map fun p =>
    let old := if first then Row.zero else x.rowAt e free unit (now + 20 + p2 * p.2 / 2) (cb + p.2)
    let v := (bs.zip (List.range nc)).map fun o => mmaLane c (laneOf old (l0 + o.2)) p.1 o.1
    laneWr (now + 23 + p2 * p.2 / 2) unit e.seat s (q.phys (cb + p.2)) l0 v (rowTags old.t (p.1.any OpBlock.bad) l0 bbad)
  let na := zeroCount as
  let nb := zeroCount bs
  ⟨wr, now, 23 + p2 * 127 / 2, p2 * 64, na != 0, nb != 0, false, na + nb, 0⟩

/-- Blocks of a row that count as changed (R207). -/
def changed (c : Fcr) (t : Ty) (mode : Bool) (th : Num) (mask : Nat → Bool) (r : Nat) (a ref : List OpBlock) : List Bool :=
  ((a.zip ref).zip (List.range 4)).map fun p =>
    let x := p.1.1
    let y := p.1.2
    let rule : Bool :=
      let d := (x.codes.zip y.codes).map fun q =>
        ((deltaVal c t q.1).add false (deltaVal c t q.2).neg)
      d.any Num.isNan || th.isNan || d.any fun z => z.abs.cmp th == some .gt || z.abs.cmp th == some .eq
    let zeroHit : Bool := (Num.fin false 0 0).cmp th == some .gt || (Num.fin false 0 0).cmp th == some .eq
    x.sc != y.sc || x.bad || y.bad || (if mode then rule || zeroHit else mask (4 * r + p.2))

/-- The ck after a step's start at which row r of an MMAD step is fed, at p in half ck a row: a row with a changed block takes p ck,
the others pass eight to a ck (R209). -/
def mmadFeed (p2 : Nat) (ch : List Bool) (r : Nat) : Nat :=
  let c := ((ch.take r).filter id).length
  p2 * c / 2 + (r - c) / 8

/-- The interval of an MMAD step with Rc rows that have a changed block, at p in half ck a row, half a ck rounded up (R209, log 84). -/
def mmadTime (rc p2 : Nat) : Nat := max 16 ((p2 * rc + 1) / 2 + (128 - rc + 7) / 8)

/-- A step of MMAD that starts at a CYC in a unit (R207 to R209). Blocks count as read as zero only where they are changed, and
poison of the mask's bytes changes nothing (log 66). -/
def mmadStep (x : CoreSt) (e : Entry) (b : List Byte) (free now unit : Nat) : Done :=
  let s := e.stepc.toNat
  let c := fcrOf e.fcr
  let ta := tyOfCode (field b 1 1)
  let tb := tyOfCode (field b 2 1)
  let nc := colsOf e.q.toNat
  let l0 := lane0Of e b
  let cb := addr32 b 16 2 s
  let q := x.seatAt e.seat
  let win := blkFlag b 0
  let p2 := rowTime b
  let row := x.rowAt e free unit now
  let th := if ta == .mxi8 then numOfInt (field b 184 4 : Nat) else real c .f32 (field b 184 4)
  let ma := maskAddr b s
  let fed := (List.range 128).foldl (fun (p : Nat × List (List OpBlock × List OpBlock × List Bool)) r =>
    let t := now + 4 + p2 * p.1 / 2 + (r - p.1) / 8
    let a := aRow c ta (x.tileRows e free unit win (addr32 b 8 0 s) t) row (addr32 b 20 3 s) r
    let ref := aRow c ta (x.tileRows e free unit win (addr32 b 192 0 s) t) row (addr32 b 196 3 s) r
    let ch := changed c ta (blkFlag b 3) th (fun g => tileBits row (8 * ma + g) 1 = 1) r a ref
    (p.1 + (ch.any id).toNat, p.2 ++ [(a, ref, ch)])) (0, [])
  let as := fed.2.map fun o => o.1
  let rs := fed.2.map fun o => o.2.1
  let ch := fed.2.map fun o => o.2.2
  let bs := (List.range nc).map fun j => bCol x c tb (addr32 b 12 1 s) (addr32 b 24 4 s) (arrayRow e j)
  let first := firstK b s
  let sn := addr32 b 200 2 s
  let bbad := bs.map fun l => l.any OpBlock.bad
  let some1 := ch.map fun r => r.any id
  let wr := (((as.zip rs).zip ch).zip (List.range 128)).map fun p =>
    let i := if first then sn + p.2 else cb + p.2
    let old := x.rowAt e free unit (now + 20 + mmadFeed p2 some1 p.2) i
    let v := (bs.zip (List.range nc)).map fun o => mmadLane c (laneOf old (l0 + o.2)) p.1.1.1 p.1.1.2 o.1 p.1.2
    laneWr (now + 23 + mmadFeed p2 some1 p.2) unit e.seat s (q.phys (cb + p.2)) l0 v
      (rowTags old.t (p.1.1.1.any OpBlock.bad || p.1.1.2.any OpBlock.bad) l0 bbad)
  let used (l : List (List OpBlock)) : Nat :=
    sum ((l.zip ch).map fun p => ((p.1.zip p.2).filter fun o => o.1.zero && o.2).length)
  let anyCh := (List.range 4).map fun i => ch.any fun r => r.getD i false
  let na := used as
  let nr := used rs
  let nb := sum (bs.map fun l => ((l.zip anyCh).filter fun o => o.1.zero && o.2).length)
  ⟨wr, now, 23 + mmadFeed p2 some1 127, mmadTime ((some1.filter id).length) p2, na != 0, nb != 0, nr != 0, na + nb + nr,
    sum (ch.map fun r => (r.filter (!·)).length)⟩

/-! ### MEPI (R210, R211) -/

/-- The activation of a rounded value (R210). -/
def actOf (c : Fcr) (act y : Nat) : Nat :=
  match act with
  | 0 => y
  | 1 => if 2 ^ 31 ≤ y && !(real ⟨0, false, false, false, 0⟩ .f32 y).isNan then 0 else y
  | 2 => spfAt { c with daz := false } .f32 .tnh y
  | _ => spfAt { c with daz := false } .f32 .lgs y

/-- z of an element (R210): one rounding of x × ALPHA + bias. -/
def mepiZ (c : Fcr) (act alpha acc : Nat) (bias : Option Nat) : Nat :=
  let t := sumTerms c [(real c .f32 acc).mul (real c .f32 alpha), match bias with
    | some v => real c .f32 v
    | none => .fin false 0 0]
  actOf c act (roundTo c .f32 none t)

/-- fcr as MEPI applies it to its intermediate values: DAZ acts on the inputs alone (R146, R210). -/
def Fcr.noDaz (c : Fcr) : Fcr := { c with daz := false }

/-- An element converted without block scales, and whether it saturates (R210). -/
def mepiOut (c : Fcr) (t : Ty) (draw : Option Imm32) (z : Nat) : Nat × Bool :=
  let y := real c.noDaz .f32 z
  match t with
  | .f32 => (z, false)
  | .i8 => match y with
    | .nan => (0, true)
    | .inf n => (if n then 0x80 else 0x7F, true)
    | .fin n m e =>
      let v : Int := roundInt c.rm n m e
      let v := if n then -v else v
      (wrap 8 (clampI (-128) 127 v), v < -128 || 127 < v)
  | t =>
    if t.isWide then (roundTo c t draw y, false)
    else (roundTo c t draw y, overflows c t draw y || (match y with
      | .fin _ _ _ => false
      | _ => true))

/-- One row of an output tile: its codes, block scales and the blocks that saturate. -/
structure OutRow where
  codes : List Nat
  sc : List Nat
  sat : List Nat

/-- A row of MEPI (R210). -/
def mepiRow (c : Fcr) (t : Ty) (qmx : Bool) (step r : Nat) (z : List Nat) : OutRow :=
  let draw (j : Nat) : Option Imm32 :=
    if c.sr then some (srHash c.seed (BitVec.ofNat 32 j) (BitVec.ofNat 32 r) (BitVec.ofNat 32 step)) else none
  let nb := z.length / 32
  if qmx then
    let bl := (List.range nb).map fun b =>
      let v := ((z.drop (32 * b)).take 32).map (real c.noDaz .f32)
      let sc := blockScale t v
      (sc, (v.zip (List.range 32)).map fun p => mxElem c t sc (draw (32 * b + p.2)) p.1)
    ⟨bl.flatMap fun p => p.2.map Prod.fst, bl.map Prod.fst,
      ((bl.zip (List.range nb)).filter fun p => p.1.2.any Prod.snd).map Prod.snd⟩
  else
    let o := (z.zip (List.range z.length)).map fun p => mepiOut c t (draw p.2) p.1
    ⟨o.map Prod.fst, [], (List.range nb).filter fun b => ((o.drop (32 * b)).take 32).any Prod.snd⟩

/-- Bit offset of element (r, j) in an output tile (R211). -/
def outBit (n nc : Nat) (olay : Bool) (r j : Nat) : Nat :=
  if olay then 8 * (2048 * n * (j / 128)) + (r * 128 + j % 128) * n else r * nc * n + j * n

/-- A row of the granary, or of the register file, in which some bits are to be written in a ck. -/
def bitsWr (at0 unit : Nat) (k : SeatId) (step : Nat) (gran : Bool) (row bit n v : Nat) (tag : Bool) : EWr :=
  let sect := sectorBits fun j => bit < 256 * (j + 1) && 256 * j < bit + n
  { at0 := at0, n := unit, seat := k, step := step, gran := gran, row := row
    mask := BitVec.ofNat 8192 ((2 ^ n - 1) * 2 ^ bit), data := BitVec.ofNat 8192 (v % 2 ^ n * 2 ^ bit)
    full := sectorBits fun j => bit ≤ 256 * j && 256 * (j + 1) ≤ bit + n, tags := if tag then sect else 0, ev := [] }

/-- The sectors of an output tile that one accumulator row fills, 256 bits each (R211): bit offset in the tile, contents, tag. -/
def sectsOf (n : Nat) (cells : List (Nat × Nat × Bool)) : List (Nat × Nat × Bool) :=
  let keys := cells.foldl (fun (l : List Nat) o => insertNat (insertNat l (o.1 / 256)) ((o.1 + n - 1) / 256)) []
  keys.map fun sct =>
    let mine := cells.filter fun o => 256 * sct < o.1 + n && o.1 < 256 * sct + 256
    (256 * sct, mine.foldl (fun (a : Nat) o =>
      a ||| (if 256 * sct ≤ o.1 then o.2.1 * 2 ^ (o.1 - 256 * sct) else o.2.1 / 2 ^ (256 * sct - o.1))) 0, mine.any fun o => o.2.2)

/-- A step of MEPI that starts at a CYC in a unit: row r is written at 12 + ⌊r / 2⌋, a sector of scales with the last of the eight rows
that fill it, and the overflow events enter with the last row in rising block order (R210, R211, R214). With QMX an element's tag
follows every sector of its block, since its scale does. The events carry the SEQ of the entry on which the step runs (log 74). -/
def mepiStep (x : CoreSt) (e : Entry) (b : List Byte) (free now unit : Nat) : Done :=
  let s := e.stepc.toNat
  let c := fcrOf e.fcr
  let t := tyOfCode (field b 1 1)
  let n := t.width
  let nc := colsOf e.q.toNat
  let l0 := lane0Of e b
  let cb := addr32 b 16 2 s
  let qmx := blkFlag b 6
  let bias := if blkFlag b 4 then some (x.engRow e free (field b 180 4)) else none
  let rows := (List.range 128).map fun r => x.engRow e free (cb + r)
  let out := (rows.zip (List.range 128)).map fun p =>
    mepiRow c t qmx s p.2 ((List.range nc).map fun j =>
      mepiZ c (field b 6 1) (field b 176 4) (laneOf p.1 (l0 + j)) (bias.map fun r => laneOf r (l0 + j)))
  let bad (r : Row) (j : Nat) : Bool :=
    let one (sct : Nat) : Bool := r.t.getLsbD sct || (match bias with
      | some v => v.t.getLsbD sct
      | none => false)
    if qmx then (List.range 4).any fun i => one ((l0 + j / 32 * 32) / 8 + i) else one ((l0 + j) / 8)
  let base := addr32 b 204 0 s
  let when0 (r : Nat) : Nat := now + 12 + r / 2
  let codes := ((out.zip rows).zip (List.range 128)).flatMap fun p =>
    (sectsOf n ((p.1.1.codes.zip (List.range nc)).map fun o =>
      (outBit n nc (blkFlag b 5) p.2 o.2, o.1, bad p.1.2 o.2))).map fun o =>
        bitsWr (when0 p.2) unit e.seat s true (base + o.1 / 8192) (o.1 % 8192) 256 o.2.1 o.2.2
  let q := x.seatAt e.seat
  let scales := if !qmx then [] else (List.range (nc / 128)).flatMap fun m => (List.range 16).map fun g =>
    let mine := ((out.zip rows).drop (8 * g)).take 8
    let v := mine.flatMap fun p => (List.range 4).map fun i => BitVec.ofNat 8 (p.1.sc.getD (4 * m + i) 0)
    let a := addr32 b 208 3 s + 512 * m + 32 * g
    bitsWr (when0 (8 * g + 7)) unit e.seat s false (q.phys (a / 1024)) (8 * (a % 1024)) 256 (leNat v)
      (mine.any fun p => (List.range 4).any fun i => bad p.2 (32 * (4 * m + i)))
  let org := if e.whole then 3 else e.q.toNat + 1
  let ev := ((out.zip (List.range 128)).flatMap fun p => p.1.sat.map fun k => 8 * p.2 + k).map fun k =>
    ovEvent k org e.seat e.seq.toNat s
  let last := { bitsWr (when0 127) unit e.seat s true base 0 0 0 false with ev := ev }
  ⟨codes ++ scales ++ [last], now, 75, 64, false, false, false, 0, 0⟩

/-- A step of MZERO that starts at a CYC in a unit: +0 with clear tags, eight rows to a ck (R212). -/
def mzeroStep (x : CoreSt) (e : Entry) (now unit : Nat) : Done :=
  let s := e.stepc.toNat
  let q := x.seatAt e.seat
  let nc := colsOf e.q.toNat
  ⟨(List.range (min 128 (e.zrows - 128 * s))).map fun r =>
      laneWr (now + r / 8) unit e.seat s (q.phys (e.zrow + 128 * s + r)) (if e.whole || !e.zlh then 0 else 128)
        (List.replicate nc 0) 0,
    now, 15, 16, false, false, false, 0, 0⟩

/-- Bytes with their poison written into a slice from a byte offset: a granule that a poisoned byte reaches is poisoned, one
written whole with clean bytes is clean (R196, R213). -/
def putSlice (t : Tab Gran) (per c off : Nat) (l : List (Byte × Bool)) : Tab Gran :=
  (List.range ((off + l.length + 63) / 64 - off / 64)).foldl (fun (t : Tab Gran) i =>
    let g := off / 64 + i
    let key := c * per + g
    let old := t.val ⟨0, false⟩ key
    let cell (j : Nat) : Option (Byte × Bool) :=
      if off ≤ 64 * g + j && 64 * g + j < off + l.length then some (l.getD (64 * g + j - off) (0, false)) else none
    let cs := (List.range 64).map cell
    let d := (cs.zip (List.range 64)).map fun p => match p.1 with
      | some b => b.1
      | none => BitVec.ofNat 8 (bits old.d (8 * p.2 + 7) (8 * p.2))
    let p := cs.any (fun o => match o with
      | some b => b.2
      | none => false) || (old.p && !cs.all Option.isSome)
    t.put key ⟨BitVec.ofNat 512 (leNat d), p⟩) t

/-- A step of WLOAD: the step's bytes, cut among the slices (R213). -/
def wloadStep (x : CoreSt) (e : Entry) (b : List Byte) (src : List (Byte × Bool)) : CoreSt :=
  let s := e.stepc.toNat
  let n := if e.whole then 64 else 128
  let off := addr32 b 12 1 s
  (List.range (colsOf e.q.toNat)).foldl (fun (y : CoreSt) j =>
    let l := (src.drop (n * j)).take n
    if blkFlag b 7 then { y with wsc := putSlice y.wsc 32 (arrayRow e j) off l }
    else { y with wel := putSlice y.wel 1024 (arrayRow e j) off l }) x

end Sys2Proof.Machine
end

