-- ==== Sys2Proof/Machine/EvStep.lean ====
section
/-!
DEFINITION. The tile steps of the matrix and transfer engines (R13, R180, R201 to R213, R220 to R222, R230 to R237): the checks
at a step's start, what it waits for, what it writes, and its end.
-/
namespace Sys2Proof.Machine

/-- A failed check: code, value, and the failed translation that is recorded. -/
structure StepBad where
  code : Bits16
  val : Nat
  xf : Option XFault

/-- The first window row index at or above W among the ranges of a step (R201). -/
def firstOut (w : Nat) (l : List Rng) : Option Nat :=
  (l.filter fun r => r.kind = 1 && w < r.lo + r.len && r.len != 0).foldl (fun (m : Option Nat) r =>
    some (match m with
      | none => max r.lo w
      | some i => min i (max r.lo w))) none

/-- Memory that a step reads or writes, from its ranges. -/
def memOf (l : List Rng) : List Rng := l.filter fun r => r.kind = 4

/-- The failed translation of lowest address among accesses: kind, address and length (R201, R232). -/
def State.lowestBad (s : State) (w : Who) (l : List (AccKind × Nat × Nat)) : Option XFault :=
  (l.filterMap fun a => match s.span w a.1 a.2.1 a.2.2 with
    | .ok _ => none
    | .bad f => some f).foldl (fun (m : Option XFault) f => match m with
      | none => some f
      | some g => if f.va < g.va then some f else some g) none

/-- STPA of a block (R206). -/
def blkStpa (b : List Byte) : Nat := field b 216 8

/-- The record accesses that are checked at a step: STPA at step 0, MREC at the last step of a TMCAST (R201, R232). -/
def recAcc (e : Entry) (b : List Byte) : List (AccKind × Nat × Nat) :=
  (if e.stepc = 0 && blkStpa b != 0 then [(AccKind.write, blkStpa b, 32)] else [])
    ++ (if e.opc = 0x13 && e.stepc.toNat + 1 = e.nstep.toNat then [(AccKind.write, field b 184 8, 64)] else [])

/-- The first address that a step of WLOAD reads for a stripe outside the seat's weight grant (R195, R201). -/
def stripeBad (x : CoreSt) (e : Entry) (b : List Byte) : Option Nat :=
  if e.opc != 0x06 then none
  else
    let g := x.wgrant.val 0 e.seat.toNat
    let n := if e.whole then 64 else 128
    let off := addr32 b 12 1 e.stepc.toNat
    let src := addr64 b 224 0 e.stepc.toNat
    let ok (h i : Nat) : Bool :=
      if blkFlag b 7 then g.getLsbD (32 * h + 16) else g.getLsbD (32 * h + (off + i) / 4096)
    ((List.range (colsOf e.q.toNat)).flatMap fun j =>
      (List.range n).filterMap fun i => if ok (arrayRow e j / 128) i then none else some (src + n * j + i)).head?

/-- The address checks of a step at its start, in their order (R201, R232); a failed walk of reason 9 stands with the other failed
translations (log 85). A resumed command walks afresh (R372). -/
def State.stepBad (s : State) (c : CoreId) (e : Entry) (b : List Byte) : Option StepBad :=
  let x := s.core c
  let st := e.stepc.toNat
  let l := e.ranges b st
  let tx := isXfer e.opc.toNat
  let past (r : Rng) : Bool :=
    if r.kind = 0 then (if tx then 16 < r.lo % 16 + r.len || 4096 < r.lo + r.len else 4096 < r.lo + r.len)
    else if r.kind = 2 then 65536 < r.lo + r.len
    else if r.kind = 3 then 2048 < r.lo + r.len
    else if r.kind = 1 then tx && 2048 < r.lo + r.len
    else false
  match (l.filter past).map Rng.base with
  | o :: r => some ⟨fBus, e.pba.toNat + r.foldl min o, none⟩
  | [] =>
    match firstOut (bW (x.seatAt e.seat).billet) l with
    | some i => some ⟨fVwin, i, none⟩
    | none =>
      let slots := if e.opc = 0x13 then [] else slotList l
      let bad (n : Nat) : Option Nat := match x.grantErr e.seat n with
        | some v => some v
        | none => if tx && (x.tile n).st == .empty then some (n + 2 * 2 ^ 8) else none
      match slots.filterMap bad with
      | v :: _ => some ⟨fTile, v, none⟩
      | [] =>
        let w := s.whoEng c e
        let acc (r : Rng) : AccKind × Nat × Nat := (if r.wr then .write else .read, r.lo % 2 ^ 57, r.len)
        let mem := (memOf l).map acc
          ++ (if e.opc = 0x06 then [(AccKind.read, addr64 b 224 0 st % 2 ^ 57, 16384)] else [])
        let first := if tx then (s.lowestBad w mem).orElse fun _ => s.lowestBad w (recAcc e b)
          else s.lowestBad w (mem ++ recAcc e b)
        match first with
        | some f => some ⟨f.code, f.va, some f⟩
        | none => (stripeBad x e b).map fun a => ⟨fPerm, a % 2 ^ 57, none⟩

/-- A destination of a TMCAST for slots it has not written yet (R236): 1, or the status of its failure. -/
def State.mcastStatus (s : State) (c : CoreId) (e : Entry) (slots : List Nat) (i : Nat) : Nat :=
  let q := s.seat c e.seat
  let t := strandCore (coreDie c) q i
  let y := s.core t
  match seatIds.find? fun k => (y.seatAt k).started || (y.seatAt k).st != .empty with
  | none => 0x84
  | some _ =>
    match seatIds.find? fun k => (y.seatAt k).st != .empty && bInst (y.seatAt k).billet = bInst q.billet with
    | none => 0x84
    | some k =>
      if y.mstate == .quarantine || y.mstate == .out then 0x84
      else
        match slots.filterMap fun n => match y.grantErr k n with
          | some v => some (v / 2 ^ 8)
          | none => if (y.tile n).st == .empty then some 2 else none with
        | r :: _ => 0x80 + r
        | [] => 1

/-- Destinations of a TMCAST with their statuses at a step: every bit of DMASK, tested at the first step that writes its slots
(R236). -/
def State.mcastDst (s : State) (c : CoreId) (e : Entry) (b : List Byte) : Tab Bits8 :=
  let fresh := (writeSlots (e.ranges b e.stepc.toNat)).filter fun n => !e.held.contains n
  (List.range 64).filterMap fun i =>
    if (field b 176 8).testBit i then
      let old := e.dst.val 1 i
      some (i, if old = 1 && !fresh.isEmpty then BitVec.ofNat 8 (s.mcastStatus c e fresh i) else old)
    else none

/-- Destinations that have not failed. -/
def goodDst (t : Tab Bits8) : List Nat := (t.filter fun p => p.2 = 1).map Prod.fst

/-- A slot that a step is to fill is READY and unpinned, or is being filled by the command already (R220, R222). -/
def fillable (e : Entry) (t : Tile) (n : Nat) : Bool := e.held.contains n && t.st == .filling || (t.st == .ready && t.pins = 0)

/-- The slots for which a step waits (R201, R220 to R222, R236): a slot whose rows have been written in this ck is pinned in the next
one at the earliest (R222). -/
def State.slotWaits (s : State) (c : CoreId) (e : Entry) (b : List Byte) : List Nat :=
  let x := s.core c
  let l := e.ranges b e.stepc.toNat
  let rd := readSlots l
  let wr := writeSlots l
  match e.opc.toNat with
  | 0x10 => []
  | 0x11 => wr.filter fun n => !fillable e (x.tile n) n
  | 0x12 => rd.filter fun n =>
      !(((x.tile n).st == .ready && (x.tile n).wrAt != some s.cyc) || (e.held.contains n && (x.tile n).st == .draining))
  | 0x13 => (goodDst e.dst).flatMap fun i =>
      let y := s.core (strandCore (coreDie c) (s.seat c e.seat) i)
      wr.filter fun n => !fillable e (y.tile n) n
  | _ => (rd.filter fun n => (x.tile n).st != .ready || (x.tile n).wrAt = some s.cyc)
      ++ wr.filter fun n => (x.tile n).st != .ready || (x.tile n).pins != 0

/-- The slot that a chosen entry awaits (R185). -/
def State.slotAwaited (s : State) (c : CoreId) (e : Entry) : Nat :=
  match e.blk with
  | none => 0
  | some b => (s.slotWaits c e b).headD 0

/-- The seat's entry that stands first in a queue; a whole-array one counts there before it is HEAD in both (R185, log 82). -/
def CoreSt.headEnt (x : CoreSt) (n : Nat) (k : SeatId) : Option (Nat × Entry) :=
  (x.mine n k).find? fun p => firstOf (x.queue n) p.2

/-- Value of a wstate register (R185). -/
def State.wstate (s : State) (c : CoreId) (k : SeatId) (n : Nat) : Word :=
  let x := s.core c
  match x.headEnt n k with
  | none => 0
  | some (ix, e) =>
    let q := x.seatAt k
    let why := e.why n s.cyc
    BitVec.ofNat 64 (why + e.wt.toNat * 2 ^ 4 + e.sg.toNat * 2 ^ 8 + (if e.wt = 0 then 0 else (q.sem e.wt).toNat) * 2 ^ 16
      + ix * 2 ^ 24 + (x.mine n k).length * 2 ^ 32 + (if why = 6 then s.slotAwaited c e else 0) * 2 ^ 40
      + min 0xFFFF (if why = e.whyNo then (s.cyc - e.whyAt) / 64 else 0) * 2 ^ 48)

/-- The step that started last. -/
def Entry.newest (e : Entry) : Run := e.ahead.getLastD e.run

/-- The step that an entry may start in a ck: its first one once it is chosen, holds leave and its block, and its stamp is neither to
come nor missed, in a ck after the choice; while RUNNING the step after the last one that started, once the interval of that has passed
(R180, R184, R202, R203, R209, R400). A matrix command starts it while the running one drains. -/
def Entry.nextStep (e : Entry) (n now : Nat) : Option Nat :=
  let k := e.stepc.toNat
  if e.blk.isNone || e.drop || e.flush then none
  else if e.st == .selected then
    if e.rdAt < now && (e.units n = 0 || e.leave) && (!e.stamped || (e.stamp.toNat ≤ now && now ≤ e.stamp.toNat + e.slk.toNat))
        && k < e.nstep.toNat then some k else none
  else if e.st != .running || e.lwf.isSome || e.fail.isSome || !e.recs.isEmpty || now < e.newest.at0 + e.newest.feed then none
  else if !e.busy then (if k < e.nstep.toNat then some k else none)
  else if n != 2 && e.opc != 0x03 && e.opc != 0x06 && k + e.ahead.length + 1 < e.nstep.toNat then some (k + e.ahead.length + 1)
  else none

/-- A step begins: RUNNING, its read slots pinned; the start of step 0 is recorded for the stamp record, and for pacing unless the
command has been resumed (R180, R183, R206, R221). `e` is the entry with the step's number. -/
def State.begin' (s : State) (c : CoreId) (n ix : Nat) (e : Entry) (b : List Byte) (r : Run) : State :=
  let rd := readSlots (e.ranges b e.stepc.toNat)
  let zero := e.stepc = 0
  let s := s.modCore c fun x =>
    (x.pinAll (e.pinUnit n) true rd).modEnt n ix fun f =>
      if f.busy then { f with ahead := f.ahead ++ [r], chk := none, pins := rd.foldl insertNat f.pins }
      else { f with st := .running, busy := true, run := r, chk := none, pins := rd
                    start := if zero then some (f.start.getD s.cyc) else f.start }
  if zero && !e.again then (e.queues n).foldl (fun s m => s.modSeat c e.seat fun q => q.setPace m (some s.cyc)) s else s

/-- The checks of a step have passed: they are not made again (R232). A TMCAST leaves out the destinations that fail; their slots that
were FILLING become EMPTY with ERR (R236). -/
def State.checked (s : State) (c : CoreId) (n ix : Nat) (e : Entry) (b : List Byte) : State :=
  if e.chk = some e.stepc.toNat then s
  else
    let dst := if e.opc = 0x13 then s.mcastDst c e b else e.dst
    let lost := (e.dst.filter fun p => p.2 = 1 && dst.val 0 p.1 != 1).map Prod.fst
    let s := lost.foldl (fun (s : State) i => s.modCore (strandCore (coreDie c) (s.seat c e.seat) i) fun x =>
      e.held.foldl (fun x n => x.modTile n fun t => if t.st == .filling then t.failed else t) x) s
    s.modCore c fun x => x.modEnt n ix fun f => { f with chk := some e.stepc.toNat, dst := dst }

/-- A failed check: the entry faults, or, while the step before drains, is to fault when that has ended (R201, R203, R232). -/
def State.stepFault (s : State) (c : CoreId) (n ix : Nat) (e : Entry) (p : StepBad) : State :=
  let s := match p.xf with
    | some x => s.engRecord c n e x
    | none => s
  if e.busy then s.modCore c fun x => x.modEnt n ix fun f => { f with fail := some (p.code, BitVec.ofNat 64 p.val) }
  else s.engFault c n ix p.code (BitVec.ofNat 64 p.val)

/-- A step of an engine whose entry has a given opcode: its checks, once; what it waits for; then its effect, given the entry with
the step's number. None starts on a stopped core or after the supply-loss warning (R252, R397). -/
def tileStep (core : CoreId) (n : Nat) (idx : EntIdx) (opc : Nat) (s : State)
    (f : Entry → List Byte → State → State) : Result :=
  onLive core n idx s fun e0 =>
    match e0.nextStep n s.cyc with
    | none => s
    | some k =>
      let e := { e0 with stepc := BitVec.ofNat 32 k }
      let b := e.blk.getD []
      if e.opc.toNat != opc || (s.core core).stopped || s.pkg.supply then s
      else match if e.chk = some k then none else s.stepBad core e b with
        | some p => s.stepFault core n idx.toNat e p
        | none =>
          let s := s.checked core n idx.toNat e b
          let e := { e with dst := (((s.core core).ent n idx).getD e).dst }
          if (s.slotWaits core e b).isEmpty then f e b s else s

/-- A step of the matrix engine that computes rows: it begins, and its rows are written each in its ck (R203 to R212). -/
def rowStep (core : CoreId) (n ix : Nat) (e : Entry) (b : List Byte) (d : Done) (s : State) : State :=
  (s.begin' core n ix e b d.run).modCore core fun x => { x with ewr := x.ewr ++ d.wr }

/-- Meaning of MMA_STEP (R204). -/
def execMmaStep (core : CoreId) (q : EngQ) (idx : EntIdx) (s : State) : Result :=
  tileStep core (engNo q) idx 0x01 s fun e b s =>
    rowStep core (engNo q) idx.toNat e b (mmaStep (s.core core) e b s.free s.cyc (e.unit (engNo q))) s

/-- Meaning of MMAD_STEP (R208, R209). -/
def execMmadStep (core : CoreId) (q : EngQ) (idx : EntIdx) (s : State) : Result :=
  tileStep core (engNo q) idx 0x02 s fun e b s =>
    rowStep core (engNo q) idx.toNat e b (mmadStep (s.core core) e b s.free s.cyc (e.unit (engNo q))) s

/-- Meaning of MEPI_STEP (R210, R211, R214): its rows of a slot are written together, while no pin is held there (R222). -/
def execMepiStep (core : CoreId) (q : EngQ) (idx : EntIdx) (s : State) : Result :=
  tileStep core (engNo q) idx 0x04 s fun e b s =>
    rowStep core (engNo q) idx.toNat e b (mepiStep (s.core core) e b s.free s.cyc (e.unit (engNo q))) s

/-- Meaning of MZERO_STEP (R212). -/
def execMzeroStep (core : CoreId) (q : EngQ) (idx : EntIdx) (s : State) : Result :=
  tileStep core (engNo q) idx 0x03 s fun e b s =>
    rowStep core (engNo q) idx.toNat e b (mzeroStep (s.core core) e s.cyc (e.unit (engNo q))) s

/-! ### Steps that read memory or write it (R213, R233 to R236) -/

/-- Source bytes of a step, each with its poison; the parts still to come from another device or the host; and the state in which
they have been asked for. -/
structure Source where
  bytes : List (Byte × Bool)
  far : Option (List (Nat × Nat))
  s : State

/-- Bytes that an engine reads from memory for its seat as relaxed loads (R161, R213, R233, R297). -/
def State.engRead (s : State) (c : CoreId) (e : Entry) (va n : Nat) : Source :=
  match s.span (s.whoEng c e) .read va n with
  | .bad _ => ⟨[], none, s⟩
  | .ok l =>
    let q := s.seat c e.seat
    let d := l.flatMap fun g =>
      if isFab g.xl.pa then List.replicate g.len 0
      else (List.range g.len).map fun i => s.engByte q g.xl.kid (g.xl.pa + i)
    ⟨d.zip (s.poisBytes l), if isFar l then some (farParts l 0) else none, (s.askFar l).engLook c false l⟩

/-- Source and destination address of a transfer step in memory. -/
def srcVa (b : List Byte) (k : Nat) : Nat := addr64 b 16 0 k % 2 ^ 57
def dstVa (b : List Byte) (k : Nat) : Nat := addr64 b 24 1 k % 2 ^ 57

/-- A byte of memory has been written by a step that is repeated after a late write failure (R13). -/
def Entry.rewritten (e : Entry) (b : List Byte) (va : Nat) : Bool :=
  e.opc = 0x10 && !blkFlag b 1 && e.redo.1 ≤ e.stepc.toNat && e.stepc.toNat < e.redo.2
    && (List.range (e.redo.2 - e.redo.1)).any fun i => (va + 2 ^ 57 - dstVa b (e.redo.1 + i)) % 2 ^ 57 < field b 8 4

/-- What a transfer step reads (R233): bytes that a repeated step has already written are undefined (R13). -/
def State.xferRead (s : State) (c : CoreId) (e : Entry) (b : List Byte) : Source :=
  let x := s.core c
  let n := field b 8 4
  let a := addr64 b 16 0 e.stepc.toNat
  if e.opc = 0x12 then ⟨bytesFrom (x.engGran e s.free) (1024 * a) n, none, s⟩
  else if e.opc = 0x10 && blkFlag b 0 then ⟨bytesFrom (x.engRow e s.free) a n, none, s⟩
  else
    let r := s.engRead c e (a % 2 ^ 57) n
    { r with bytes := (r.bytes.zip (List.range r.bytes.length)).map fun p =>
        let va := (a % 2 ^ 57 + p.2) % 2 ^ 57
        if e.rewritten b va then (Config.freeByte va s.free, p.1.2) else p.1 }

/-- The destination of a transfer step is memory. -/
def Entry.toMem (e : Entry) (b : List Byte) : Bool := e.opc = 0x12 || (e.opc = 0x10 && !blkFlag b 1)

/-- Memory that a transfer step writes, as it is translated at the step's start: its writes go there, whatever becomes of the page or its
key (R232, R374). -/
def State.dstSegs (s : State) (c : CoreId) (e : Entry) (b : List Byte) : List Seg :=
  if !e.toMem b then []
  else match s.span (s.whoEng c e) .write (dstVa b e.stepc.toNat) (field b 8 4) with
    | .ok l => l
    | .bad _ => []

/-- A step that reads its source begins: it holds the bytes until its end (R213, R235). -/
def readStep (core : CoreId) (n ix : Nat) (e : Entry) (b : List Byte) (ivl : Nat) (r : Source) : State :=
  let l := r.s.dstSegs core e b
  (r.s.begin' core n ix e b { Run.zero with at0 := r.s.cyc, ivl := ivl, feed := ivl }).modCore core fun x =>
    x.modEnt n ix fun f => { f with buf := r.bytes, far := r.far, segs := l }

/-- Meaning of WLOAD_STEP: its slices are written 64 ck after its source data has arrived (R213). -/
def execWloadStep (core : CoreId) (q : EngQ) (idx : EntIdx) (s : State) : Result :=
  tileStep core (engNo q) idx 0x06 s fun e b s =>
    readStep core (engNo q) idx.toNat e b 64 (s.engRead core e (addr64 b 224 0 e.stepc.toNat % 2 ^ 57) 16384)

/-- ck that a transfer step takes to write its destination (R235). -/
def xferTime (b : List Byte) : Nat := (field b 8 4 + 1023) / 1024

/-- Slots put into FILLING or DRAINING by a command (R220). -/
def CoreSt.occupy (x : CoreSt) (st : SlotState) (holder : Bits2) (l : List Nat) : CoreSt :=
  l.foldl (fun x n => x.modTile n fun t => if t.st == .ready then { t with st := st, holder := holder } else t) x

/-- The slots that a command holds in FILLING or DRAINING noted. -/
def CoreSt.hold (x : CoreSt) (ix : Nat) (l : List Nat) : CoreSt :=
  x.modEnt 2 ix fun f => { f with held := l.foldl insertNat f.held }

/-- Meaning of TXFER_STEP (R233). -/
def execTxferStep (core : CoreId) (idx : EntIdx) (s : State) : Result :=
  tileStep core 2 idx 0x10 s fun e b s => readStep core 2 idx.toNat e b (xferTime b) (s.xferRead core e b)

/-- Meaning of TFILL_STEP (R220, R233). -/
def execTfillStep (core : CoreId) (idx : EntIdx) (s : State) : Result :=
  tileStep core 2 idx 0x11 s fun e b s =>
    let wr := writeSlots (e.ranges b e.stepc.toNat)
    (readStep core 2 idx.toNat e b (xferTime b) (s.xferRead core e b)).modCore core fun x =>
      (x.occupy .filling 1 wr).hold idx.toNat wr

/-- Meaning of TDRAIN_STEP (R220, R233, R234). -/
def execTdrainStep (core : CoreId) (idx : EntIdx) (s : State) : Result :=
  tileStep core 2 idx 0x12 s fun e b s =>
    let rd := readSlots (e.ranges b e.stepc.toNat)
    (readStep core 2 idx.toNat e b (xferTime b) (s.xferRead core e b)).modCore core fun x =>
      (x.occupy .draining 1 rd).hold idx.toNat rd

/-- Core of a strand index in the rectangle of an entry's seat. -/
def State.dstCore (s : State) (c : CoreId) (e : Entry) (i : Nat) : CoreId := strandCore (coreDie c) (s.seat c e.seat) i

/-- Meaning of TMCAST_STEP: every destination that has not failed is filled (R236). -/
def execTmcastStep (core : CoreId) (idx : EntIdx) (s : State) : Result :=
  tileStep core 2 idx 0x13 s fun e b s =>
    let wr := writeSlots (e.ranges b e.stepc.toNat)
    let s := readStep core 2 idx.toNat e b (xferTime b) (s.xferRead core e b)
    ((goodDst e.dst).foldl (fun (s : State) i => s.modCore (s.dstCore core e i) fun x =>
      x.occupy .filling (if s.dstCore core e i = core then 1 else 3) wr) s).modCore core fun x => x.hold idx.toNat wr

/-- A step's poisoned data would reach host memory: it writes nothing and faults (R161, R234). -/
def Entry.toHost (e : Entry) (d : List (Byte × Bool)) : Bool := d.any Prod.snd && anySeg e.segs fun x => isHost x.pa

/-- Bytes that a step writes to memory (R233, R287). -/
def State.putMem (s : State) (c : CoreId) (e : Entry) (d : List (Byte × Bool)) : State :=
  ((s.engLook c true e.segs).storeMarked e.segs d).modSeat c e.seat fun q => q.forget (e.segs.map fun g => (g.xl.pa, g.len))

/-- What the end of a step writes from the bytes it has read: into slices, memory, the window, or slots here and on the destination
cores (R213, R233, R236). -/
def State.putStep (s : State) (c : CoreId) (e : Entry) (b : List Byte) (d : List (Byte × Bool)) : State :=
  let a := addr64 b 24 1 e.stepc.toNat
  match e.opc.toNat with
  | 0x06 => s.modCore c fun x => wloadStep x e b d
  | 0x10 =>
    if blkFlag b 1 then s.modCore c fun x => x.putWindow e.seat a d
    else s.putMem c e d
  | 0x11 => s.modCore c fun x => x.putGran (1024 * a) d
  | 0x12 => s.putMem c e d
  | 0x13 => (goodDst e.dst).foldl (fun (s : State) i => s.modCore (s.dstCore c e i) fun x => x.putGran (1024 * a) d) s
  | _ => s

/-! ### The end of a step (R203, R206, R220, R234, R237) -/

/-- Slots of the present step that no later step of the command names in the same way. -/
def lastSlots (e : Entry) (b : List Byte) (f : List Rng → List Nat) : List Nat :=
  let s := e.stepc.toNat
  let later := (List.range (e.nstep.toNat - s - 1)).map fun i => f (e.ranges b (s + 1 + i))
  (f (e.ranges b s)).filter fun n => !later.any fun l => l.contains n

/-- Slots that leave FILLING or DRAINING (R220). -/
def State.freeSlots (s : State) (c : CoreId) (e : Entry) (b : List Byte) (l : List Nat) : State :=
  let ready (x : CoreSt) : CoreSt :=
    l.foldl (fun x n => x.modTile n fun t => if t.st == .filling then { t with st := .ready, holder := 0 } else t) x
  match e.opc.toNat with
  | 0x11 => s.modCore c ready
  | 0x13 => (goodDst e.dst).foldl (fun (s : State) i => s.modCore (s.dstCore c e i) ready) s
  | 0x12 => s.modCore c fun x => l.foldl (fun x n => x.modTile n fun t =>
      if t.st == .draining then ({ t with st := .ready, holder := 0, freeing := blkFlag b 2 } : Tile).settle else t) x
  | _ => s

/-- The slots that the end of a step gives back: those of a drain once its writes have been performed (R220, R234). -/
def State.endSlots (s : State) (c : CoreId) (ix : Nat) (e : Entry) (b : List Byte) (wout : List Nat) : State :=
  let mine := match e.opc.toNat with
    | 0x12 => lastSlots e b readSlots
    | 0x11 | 0x13 => lastSlots e b writeSlots
    | _ => []
  let all := mine.foldl insertNat e.tail
  let go := if wout.isEmpty then all else []
  if !isXfer e.opc.toNat then s
  else (s.freeSlots c e b go).modCore c fun x => x.modEnt 2 ix fun f =>
    { f with tail := if wout.isEmpty then [] else all, held := f.held.filter fun n => !go.contains n }

/-- The stamp record: CYC at the start of step 0 and at the end of the last step, with the ptime of each (R206). -/
def stampBytes (t0 t1 : Nat) (ptime : Nat → Nat) : List Byte :=
  leBytes 8 t0 ++ leBytes 8 t1 ++ leBytes 8 (ptime t0) ++ leBytes 8 (ptime t1)

/-- ptime of a CYC value under the timebase map (R345). -/
def State.ptimeAt (s : State) (t : Nat) : Nat :=
  ((s.pkg.tbbase.toNat : Int) + ((t : Int) - s.pkg.tbcyc.toNat) * s.pkg.tbrate.toNat / 2 ^ 40).toNat % 2 ^ 64

/-- A record of a command written at an address; where it is refused F_BUS is raised imprecisely and the failure recorded (R206, R237,
R371). Where another device has to perform it its address is noted (R206, R233). -/
def State.writeRec (s : State) (c : CoreId) (n ix : Nat) (e : Entry) (va : Nat) (d : List Byte) : State :=
  match s.span (s.whoEng c e) .write va d.length with
  | .ok l =>
    let s := (s.engLook c true l).wrSegs l d
    if remote l then s.modCore c fun x => x.modEnt n ix fun f => { f with recs := f.recs ++ [va] } else s
  | .bad f => (s.engRecord c n e f).pendCause c e.seat ⟨fBus, 4, 0, BitVec.ofNat 64 va, 0⟩

/-- The stamp record of a command whose last step ended in a ck (R206). -/
def State.writeStamp (s : State) (c : CoreId) (n ix : Nat) (e : Entry) (b : List Byte) (now : Nat) : State :=
  if blkStpa b = 0 then s else s.writeRec c n ix e (blkStpa b) (stampBytes (e.start.getD now) now s.ptimeAt)

/-- The writes of a command are performed at a scope that reaches beyond the core (R233, R296). -/
def Entry.farScope (e : Entry) (b : List Byte) : Bool := e.toMem b && 2 ≤ field b 1 1

/-- A transfer command ends: its token carries the release of its writes and of those of the earlier ones (R296). -/
def SeatSt.carry (q : SeatSt) (e : Entry) (b : List Byte) : SeatSt :=
  let w := if e.farScope b then q.wide ||| 1 else q.wide
  { q with wide := if isXfer e.opc.toNat && w.getLsbD 0 && e.sg != 0 then w ||| BitVec.ofNat 16 (2 ^ e.sg.toNat) else w }

/-- The signal token of a command: an increment in phase 1 of the next ck, and what header waits on it order (R115, R182). -/
def SeatSt.token (q : SeatSt) (n : Nat) (e : Entry) (mate : Option Nat) : SeatSt :=
  if e.sg = 0 then q
  else { q with
    inc := q.inc ++ [(e.sg, 1)]
    sigs := q.sigs ++ [(e.sg, n, e.seq.toNat)] ++ (match mate with
      | some m => [(e.sg, 1 - n, m)]
      | none => []) }

/-- The completion record of a TMCAST: status of each strand index (R237). -/
def mcastRecord (t : Tab Bits8) : List Byte := (List.range 64).map fun i => t.val 0 i

/-- A command all of whose writes and records have been performed: the token is signalled and the command is FREE, or FAULTED with
F_MCAST (R180, R206, R233, R237). A release beyond the core writes back UO lines first (R287, R296). -/
def State.finish (s : State) (c : CoreId) (n ix : Nat) (e : Entry) (b : List Byte) : State :=
  let bad := (e.dst.filter fun p => p.2 != 1).length
  if e.opc = 0x13 && bad != 0 then s.engFault c n ix fMcast (BitVec.ofNat 64 bad)
  else
    let mate := ((s.core c).mateIx n e).bind fun j => (((s.core c).queue (1 - n)).find j).map fun m => m.seq.toNat
    let s := if e.farScope b then s.cleanUo c e.seat else s
    (s.modSeat c e.seat fun r => (r.carry e b).token n e mate).discardAt c n ix (s.cyc - 1)

/-- All steps of a command have ended and its writes have been performed: its records are written, and where none of them lies on another
device the command is done (R206, R233, R237). -/
def State.complete (s : State) (c : CoreId) (n ix : Nat) (e : Entry) (b : List Byte) : State :=
  let s := s.writeStamp c n ix e b (s.cyc - 1)
  let s := if e.opc = 0x13 then s.writeRec c n ix e (field b 184 8) (mcastRecord e.dst) else s
  let s := s.modCore c fun x => x.modEnt n ix fun f => { f with held := [] }
  match ((s.core c).queue n).find ix with
  | some f => if f.recs.isEmpty then s.finish c n ix f b else s
  | none => s

/-- The records of a command have been performed, or one was answered with an error response, which is an imprecise F_BUS at its address
and changes nothing else (R206, R376). -/
def State.recorded (s : State) (c : CoreId) (n ix : Nat) (e : Entry) (b : List Byte) (a : FarAns) : State :=
  let va := e.recs.headD 0
  let s := match farFault a va with
    | some v => (s.engAnswer c n e a .write va []).pendCause c e.seat ⟨v.1, 4, 0, BitVec.ofNat 64 va, 0⟩
    | none => s
  (s.modCore c fun x => x.modEnt n ix fun f => { f with recs := [] }).finish c n ix e b

/-- The counters of the halves of a command at the end of a step (R216). -/
def CoreSt.countStep (x : CoreSt) (n : Nat) (e : Entry) : CoreSt :=
  let rows := if e.opc = 0x03 then min 128 (e.zrows - 128 * e.stepc.toNat) else if e.opc = 0x06 then 0 else 128
  x.count n e fun h => { h with
    mstep := h.mstep + 1, mrow := h.mrow + BitVec.ofNat 64 rows, mskip := h.mskip + BitVec.ofNat 64 e.run.skip, mpois := h.mpois + BitVec.ofNat 64 e.run.cnt }

/-- The counter goes back to the lowest step with a failed write, and the command faults (R13, R234). -/
def State.rewind (s : State) (c : CoreId) (n ix : Nat) (w : Nat × Bits16 × Word) : State :=
  (s.modCore c fun x => x.modEnt n ix fun f =>
    { f with stepc := BitVec.ofNat 32 w.1, redo := (w.1, f.stepc.toNat), wout := f.wout.filter (· < w.1) }).engFault c n ix w.2.1 w.2.2

/-- The running step of an entry has ended: the counter advances, pins and slots are given back, and what waited for the end happens: a
discard, which signals nothing; a late write failure, which every later step repeats; the fault of the step after those that have started,
in the ck after the last of them (log 87); or the end of the command (R13, R180, R190, R203). -/
def State.stepDone (s : State) (c : CoreId) (n ix : Nat) (e : Entry) (b : List Byte) (away perf : Bool) : State :=
  let k := e.stepc.toNat + 1
  let last := e.nstep.toNat ≤ k
  let wout := if perf then [] else e.wout ++ (if away && e.lwf.isNone then [k - 1] else [])
  let soon := ((List.range (max 1 e.ahead.length)).map (k + ·)).filter (· < e.nstep.toNat)
  let keep := (soon.flatMap fun i => readSlots (e.ranges b i)).foldl (fun l m => if e.pins.contains m then insertNat l m else l) []
  let s := s.modCore c fun x => ({ x.pinAll (e.pinUnit n) false (e.pins.filter fun m => !keep.contains m) with
    pers := if e.whole && n != 2 then (x.pers.del 1).del 2 else x.pers.del (n + 1)
    pers7 := if e.whole && n != 2 then (x.pers7.del 1).del 2 else x.pers7.del (n + 1) }).countStep n e
  let s := if e.lwf.isSome then s else s.endSlots c ix e b wout
  let stop := e.drop || e.flush || e.lwf.isSome || (s.seat c e.seat).st == .out
  let next := if stop then [] else e.ahead
  let s := s.modCore c fun x => (if next.isEmpty then x.abandon (e.unit n) else x).modEnt n ix fun f =>
    { f.note e.run.pa e.run.pb e.run.pr e.run.cnt (k - 1) with
      stepc := BitVec.ofNat 32 k, busy := !next.isEmpty, run := next.headD f.run, ahead := next.tail, pins := keep, late := 0, buf := []
      far := none, segs := [], wout := wout }
  if e.drop || e.flush then s.discardAt c n ix (s.cyc - 1)
  else match e.lwf, e.fail with
    | some w, _ => s.rewind c n ix w
    | none, some p => if next.isEmpty then s.engFault c n ix p.1 p.2 else s
    | none, none => if last && wout.isEmpty then s.complete c n ix (((s.core c).queue n).find ix |>.getD e) b else s

/-- A step ends without its writes: the entry faults, or is discarded where a discard waits (R164, R234). A late write failure of an
earlier step sets the counter back all the same (R13). -/
def State.stepFails (s : State) (c : CoreId) (n ix : Nat) (e : Entry) (v : Bits16 × Word) : State :=
  if e.drop || e.flush then s.discardAt c n ix (s.cyc - 1)
  else match e.lwf with
    | some w => s.rewind c n ix w
    | none => s.engFault c n ix v.1 v.2

/-- The running step of an entry has done what it does in its time: its last ck lies behind, with the 5 ck of a replay, and no row of it
is held by a pin (R203, R222, R247). -/
def CoreSt.stepOver (x : CoreSt) (n : Nat) (e : Entry) (now : Nat) : Bool :=
  e.run.at0 + e.run.ivl < now && (e.late = 0 || e.lateAt + 5 ≤ now)
    && !x.ewr.any fun w => w.n = e.unit n && w.step = e.stepc.toNat

/-- Meaning of STEP_END, in the ck after the last ck of the running step: its rows have been written; source bytes from another
device or the host come with `ent`, or the access failed and the entry faults; then the step's writes are made and it has ended. Where
every step has ended and writes or records away are outstanding, `ent` tells that they have been performed (R13, R164, R180, R203, R206,
R213, R233 to R235, R376). -/
def execStepEnd (core : CoreId) (q : EngQ) (ent : EntAns) (s : State) : Result :=
  let n := engNo q
  let ix := ent.1.toNat
  onEnt core n ent.1 s fun e =>
    let b := e.blk.getD []
    if !e.recs.isEmpty then (if ent.2.perf then s.recorded core n ix e b ent.2 else s)
    else if e.st != .running || !e.busy then
      if !ent.2.perf || e.wout.isEmpty then s
      else
        let s := (s.freeSlots core e b e.tail).modCore core fun x => x.modEnt n ix fun f =>
          { f with wout := [], tail := [], held := f.held.filter fun m => !e.tail.contains m }
        if e.st == .running && e.nstep.toNat ≤ e.stepc.toNat && !e.drop then s.complete core n ix e b else s
    else
      let s := s.modCore core fun x => x.landRows (s.cyc - 1)
      if !(s.core core).stepOver n e s.cyc then s
      else
        let src := if e.opc = 0x06 then addr64 b 224 0 e.stepc.toNat % 2 ^ 57 else srcVa b e.stepc.toNat
        match if e.far.isSome then farFault ent.2 src else none with
        | some v =>
          if v.1 = fLink && !s.linkGone e.run.at0 then s else (s.engAnswer core n e ent.2 .read v.2.toNat []).stepFails core n ix e v
        | none =>
          let d := farFill ent.2 (e.far.getD []) e.buf
          if e.toHost d then s.stepFails core n ix e (fPoison, BitVec.ofNat 64 (dstVa b e.stepc.toNat))
          else (s.putStep core e b d).stepDone core n ix e b (anySeg e.segs fun x => isFab x.pa) ent.2.perf

/-- Meaning of LATE_WRITE_FAILURE, an answer to a write of a step that has ended: the running step ends, no further one starts, and
the counter goes back to the lowest step that made a failed write; a step at or above the counter is repeated in any case (R13, R234). -/
def execLateWriteFailure (core : CoreId) (q : EngQ) (idx : EntIdx) (step : Imm32) (addr : Word) (link : Bool) (s : State) : Result :=
  let n := engNo q
  let ix := idx.toNat
  onEnt core n idx s fun e =>
    let w : Nat × Bits16 × Word := (step.toNat, if link then fLink else fBus, BitVec.ofNat 64 (bits addr 56 0))
    if e.drop || !e.wout.contains step.toNat || (link && !s.linkGone (e.start.getD 0)) then s
    else
      let s := s.engAnswer core n e { FarAns.none with err := if link then none else some .bus } .write (bits addr 56 0) []
      let again := (List.range (e.stepc.toNat - step.toNat)).flatMap fun i => readSlots (e.ranges (e.blk.getD []) (step.toNat + i))
      let s := s.modCore core fun x => x.modEnt n ix fun f =>
        { f with wout := f.wout.filter fun k => k < step.toNat, tail := f.tail.filter fun m => !again.contains m }
      if e.st == .running && e.busy then
        s.modCore core fun x => x.modEnt n ix fun f => { f with lwf := match f.lwf with
          | some v => if v.1 ≤ w.1 then some v else some w
          | none => some w }
      else if e.st != .faulted then s.rewind core n ix w
      else s.modCore core fun x => x.modEnt n ix fun f =>
        { f with stepc := BitVec.ofNat 32 (min f.stepc.toNat step.toNat), redo := (step.toNat, max f.redo.2 f.stepc.toNat) }

end Sys2Proof.Machine
end

