-- ==== Sys2Proof/Machine/QueueCmd.lean ====
section
/-!
DEFINITION. The memory queues as strands use them (R238 to R242) and pushes to another device (R421, R422).
-/
namespace Sys2Proof.Machine

/-- The role is permitted to the strand's function; the inbox of a steward takes pushes from supervisor strands of the
physical function (R238, R266). -/
def QueueSt.mayPush (u : QueueSt) (num : Nat) (q : SeatSt) : Bool :=
  u.push.getLsbD q.func.toNat && (!(0xFF0 ≤ num && num < 0xFF8) || (q.plv && q.func = 0))
def QueueSt.mayPop (u : QueueSt) (q : SeatSt) : Bool := u.pop.getLsbD q.func.toNat

/-- A cause of the X syllable. -/
def xErr (rank : Nat) (code : Bits16) (v : Nat) : PCause := ⟨rank, 3, code, BitVec.ofNat 64 v, none⟩

/-- F_QWAIT once the bounded wait has passed without a grant (R240). -/
def At.qwait (e : At) (wait : Bits20) (v : Nat) : List PCause :=
  match e.q.hold with
  | some h => if !e.q.grant && h + wait.toNat < e.s.cyc then [xErr 110 fQwait v] else []
  | none => []

/-- The request of a seat withdrawn at every queue unit. -/
def State.unreq (s : State) (c : CoreId) (k : SeatId) : State :=
  { s with dies := s.dies.mapV fun d => { d with qreq := d.qreq.filter fun r => r.remote || !(r.core == c && r.seat == k) } }

/-- The state of a held queue instruction: its request stands at the queue unit, in the order received (R240, R241). -/
def At.request (e : At) (d : DieId) (r : QReq) : State :=
  if e.q.hold.isSome then e.s
  else ((e.s.unreq e.c e.k).modDie d fun y => { y with qreq := y.qreq ++ [r] }).modSeat e.c e.k fun q =>
    { q with hold := some e.s.cyc, grant := false }

/-- The request that a bundle makes. -/
def At.qreqOf (e : At) (i : QId) (push : Bool) (cells : Nat) : QReq :=
  { core := e.c, seat := e.k, qnum := BitVec.ofNat 12 i.num, push := push, cells := cells, remote := false, dev := 0,
    ack := false, origin := 0, payload := [], pois := [], cls := 0 }

/-- An outstanding result that is a value for an s register. -/
def valueRes (kind : VKind) (sd : SReg) (v : Word) (sem : SemR) (ready : Bool) (ck key : Nat) : Vres :=
  { Vres.none with kind := kind, dest := if sd = 0 then .none else .s sd, data := v.zeroExtend 8192, sem := sem, ready := ready,
                   ck := ck, key := key }

/-- Length in the trap value of F_QLEN (R164, R240). -/
def qlenVal (i : QId) (n : Nat) : Nat := i.raw + min n (2 ^ 32 - 1) * 2 ^ 16

/-- Trap value of F_QWAIT of a local queue (R164). -/
def qwaitVal (i : QId) (u : QueueSt) : Nat := i.raw + u.head.toNat * 2 ^ 16 + u.tail.toNat * 2 ^ 40

/-- The buffer of a queue instruction meets an access of the strand that has not been performed yet: the instruction is not issued
before it (R285). -/
def At.bufferOpen (e : At) (l : List Seg) : Bool := !(e.q.blockers { Vres.none with loc := e.s.locs l }).isEmpty

/-- What a strand pushes, under its own classes (R275). -/
def At.pushBy (e : At) (wait : Bool) : PushBy := ⟨some (e.q.func, e.q.asn, (e.s.clsSeat e.c e.k).hsc), e.s.clsSeat e.c e.k, wait⟩

/-- The record reserved and written, and the result entered: the index of its first cell. An error response while the record is
written is an imprecise F_BUS (R240, R241). Where another device or the host has to give part of the payload, the record is reserved and
waits for it (R408, R419). -/
def At.pushEff (e : At) (i : QId) (u : QueueSt) (l : List Seg) (sd : SReg) (b : Word) (sem : SemR) : State :=
  let far := isFar l
  let s := (e.s.unreq e.c e.k).askSegs l
  let r := s.reserve i.die i.num u (originOf e.c e.k) (e.s.rdSegs l) (e.s.poisBytes l) (e.pushBy far)
  let s := match r.2.2 with
    | none => r.1
    | some f => (r.1.recordFault (.ofFunc u.func) e.c e.k 0 (bInst e.q.billet) f).pendCause e.c e.k
        ⟨fBus, 4, 0, BitVec.ofNat 64 f.va, 0⟩
  let v := { valueRes .qpush sd (BitVec.ofNat 64 r.2.1) sem true e.s.cyc r.2.1 with
    addr := BitVec.ofNat 64 i.raw, loc := e.s.locs l }
  e.vresOn (s.mirrorFault i.die i.num)
    (if far then { v with ready := false, todo := some (.push ⟨i.raw, i.dev, r.2.1, l, b, false, false⟩) } else v)

/-- The payload buffer of a push, of at most 65,528 bytes: its translation, or its cause, which comes before F_QLEN (R159, R240,
log 67). -/
def At.payload (e : At) (b : Word) (n : Nat) : Except PCause (List Seg) :=
  match e.span .read b (min n 65528) with
  | .bad f => .error { xCause 3 f with tval := faultVal f b }
  | .ok l => .ok l

/-- A push to a queue of this device (R240). -/
def At.pushHere (e : At) (i : QId) (sd : SReg) (b : Word) (n : Nat) (wait : Bits20) (sem : SemR) : Plan :=
  match e.s.qFind i with
  | none => e.plan [xErr 100 fBus 0] e.s
  | some u =>
    if !u.mayPush i.num e.q then e.plan [xErr 81 fPerm u.base.toNat] e.s
    else
      let len := if 65528 < n || u.rsz < recCells n then [xErr 90 fQlen (qlenVal i n)] else []
      match e.payload b n with
      | .error p => e.plan (p :: len) e.s
      | .ok l =>
        { causes := len ++ e.qwait wait (qwaitVal i u), held := !(e.q.grant && u.canPush (recCells n)) || e.bufferOpen l,
          wait := e.request i.die (e.qreqOf i true (recCells n)), eff := e.pushEff i u l sd b sem, moved := false }

/-- Credits taken toward a device (R421). -/
def State.creditsTaken (s : State) (d : Bits9) : Nat := s.pkg.cred.val 0 d.toNat

/-- A push to a queue of another device: it takes a credit and leaves (R422). Without ACK the result is 2^62 once the last flit
has been sent; with ACK the acknowledgement brings it. A payload that another device or the host has to give leaves once it is there. -/
def At.pushAway (e : At) (i : QId) (sd : SReg) (b : Word) (n : Nat) (wait : Bits20) (sem : SemR) (ack : Bool) : Plan :=
  let len := if 65528 < n then [xErr 90 fQlen (qlenVal i n)] else []
  match e.payload b n with
  | .error p => e.plan (p :: len) e.s
  | .ok l =>
    let taken := e.s.creditsTaken i.dev
    let s := (e.s.askSegs l).modPkg fun p => { p with cred := p.cred.put i.dev.toNat (taken + 1) }
    let v := { valueRes .qpush sd (BitVec.ofNat 64 (2 ^ 62)) sem (!ack) e.s.cyc i.dev.toNat with remote := true, loc := e.s.locs l }
    { causes := len ++ if 2 ≤ taken then e.qwait wait i.raw else [], held := 2 ≤ taken || e.bufferOpen l,
      wait := if e.q.hold.isSome then e.s else e.s.modSeat e.c e.k fun q => { q with hold := some e.s.cyc, grant := false },
      eff := if isFar l then
          e.vresOn s { v with ready := false, todo := some (.push ⟨i.raw, i.dev, 0, l, b, true, ack⟩) }
        else e.vresOn (s.sendPush e.c e.k i.dev i.raw ack (e.s.nearBytes l)) v,
      moved := false }

/-- F_POISON of the operands of QPUSH and QPOP, in the order sA, aB, sC (R240). -/
def At.qpois (e : At) (sa : SReg) (ab : AReg) (sc : SReg) : List PCause := e.poisS 3 sa ++ e.poisA 3 ab ++ e.poisS 3 sc

/-- A push (R240, R422). -/
def pushOf (s : State) (ins : Instr) (sd sa : SReg) (ab : AReg) (sc : SReg) (wait : Bits20) (sem : SemR) (ack : Bool) :
    Result :=
  attempt s ins fun e =>
    let pois := e.qpois sa ab sc
    let i := qidOf (e.sGet sa).1
    let b := (e.aGet ab).1
    let n := (e.sGet sc).1.toNat
    if !pois.isEmpty then e.plan pois e.s
    else if i.remote then e.pushAway i sd b n wait sem ack
    else e.pushHere i sd b n wait sem

/-- Meaning of QPUSH (R240, R422). -/
def execQpush (sd sa : SReg) (ab : AReg) (sc : SReg) (wait : Bits20) (sem : SemR) (s : State) : Result :=
  pushOf s (.qpush sd sa ab sc wait sem) sd sa ab sc wait sem false

/-- Meaning of QPUSH.a: the acknowledgement matters only to a remote queue (R240, R422). -/
def execQpushA (sd sa : SReg) (ab : AReg) (sc : SReg) (wait : Bits20) (sem : SemR) (s : State) : Result :=
  pushOf s (.qpushA sd sa ab sc wait sem) sd sa ab sc wait sem true

/-- A packet copied to a buffer by a strand: an error response is an imprecise F_BUS (R102, R240). The answer tells whether part of the
buffer lies on another device. -/
def State.copyOut (s : State) (c : CoreId) (k : SeatId) (buf : Word) (b : List (Byte × Bool)) : State × Bool :=
  let w := s.whoSeat c k
  let ps := pieces (b.length / 4096 + 2) (vaOf buf) b.length
  let o := s.putPages w ps 0 b
  let away := ps.any fun p => match s.xlate w .write p.1 with
    | .ok x => isFab x.pa
    | .bad _ => false
  (match o.2.2 with
    | none => o.1
    | some f => (o.1.recordFault w c k 0 (bInst (s.seat c k).billet) f).pendCause c k ⟨fBus, 4, 0, faultVal f buf, 0⟩, away)

/-- The packet at the head of a queue is being copied (R241). -/
def State.popTake (s : State) (i : QId) (u : QueueSt) : State :=
  s.setQueue i.die i.num { u.retire with recs := match u.retire.recs with
    | [] => []
    | r :: l => { r with taken := true } :: l }

/-- The packet at the head copied to the buffer and taken, or left where the buffer is too small. Where it has to be read from another
device or the host, or written to another device, the head advances when that has been answered (R241, R408, R419). -/
def At.popEff (e : At) (i : QId) (u : QueueSt) (b : Word) (cap : Nat) (sd : SReg) (sem : SemR) : State :=
  let s := e.s.unreq e.c e.k
  let n := u.headLen
  let v := valueRes .qpop sd (BitVec.ofNat 64 (if cap < n then 2 ^ 63 + n else n)) sem true e.s.cyc 0
  if cap < n then e.vresOn s v
  else
    let v := { v with addr := BitVec.ofNat 64 (vaOf b) }
    let late (s : State) (read : Option (List Seg)) (l : List Seg) : State :=
      e.vresOn (s.popTake i u) { v with remote := true, ready := false, todo := some (.pop ⟨i.raw, b, n, read⟩), loc := s.locs l }
    match s.headFar u with
    | some l => late (s.headLook u) (some l) l
    | none =>
      let o := (s.headLook u).copyOut e.c e.k b (s.headBytes u)
      if o.2 then late o.1 none (match e.span .write b n with
        | .ok l => l
        | .bad _ => []) else e.vresOn (o.1.popDone i) v

/-- Meaning of QPOP: a queue of another device raises F_BUS (R240, R422). -/
def execQpop (sd sa : SReg) (ab : AReg) (sc : SReg) (wait : Bits20) (sem : SemR) (s : State) : Result :=
  attempt s (.qpop sd sa ab sc wait sem) fun e =>
    let pois := e.qpois sa ab sc
    let i := qidOf (e.sGet sa).1
    let b := (e.aGet ab).1
    let cap := min (e.sGet sc).1.toNat 65528
    if !pois.isEmpty then e.plan pois e.s
    else if i.remote then e.plan [xErr 100 fBus 0] e.s
    else match e.s.qFind i with
      | none => e.plan [xErr 100 fBus 0] e.s
      | some u =>
        if !u.mayPop e.q then e.plan [xErr 81 fPerm u.base.toNat] e.s
        else
          let fault := match e.span .write b cap with
            | .bad f => if f.bus then [] else [{ xCause 3 f with tval := faultVal f b }]
            | .ok _ => []
          let clash := match e.span .write b cap with
            | .bad _ => false
            | .ok l => e.bufferOpen l
          { causes := fault ++ e.qwait wait (qwaitVal i u), held := !(e.q.grant && u.canPop) || clash,
            wait := e.request i.die (e.qreqOf i false 0), eff := e.popEff i u b cap sd sem, moved := false }

/-- What QSTAT reads (R242): 0 of a queue that is not configured or lies on another device. -/
def State.qstat (s : State) (q : SeatSt) (i : QId) (f : Nat) : Word :=
  if i.remote then 0
  else match s.qFind i with
    | none => 0
    | some u => BitVec.ofNat 64 <| match f with
      | 0 => u.head.toNat
      | 1 => u.tail.toNat
      | 2 => u.lrsz + (u.mayPush i.num q).toNat * 2 ^ 8 + (u.mayPop q).toNat * 2 ^ 9 + 2 ^ 63
      | _ => u.rsz - u.used

/-- Meaning of QSTAT (R242). -/
def execQstat (sd sa : SReg) (field : Bits2) (s : State) : Result :=
  attempt s (.qstat sd sa field) fun e =>
    e.plan (e.poisS 3 sa) (e.fly 3 (.s sd (e.s.qstat e.q (qidOf (e.sGet sa).1) field.toNat) false))

end Sys2Proof.Machine
end

