-- ==== Sys2Proof/Machine/Collective.lean ====
section
/-!
DEFINITION. The answers to variable-latency results by their key, and the joining of collectives (R424 to R426).
-/
namespace Sys2Proof.Machine

/-! ### The descriptor (R425) -/

/-- Fields of a collective descriptor. -/
def cdKind (d : List Byte) : Nat := field d 0 1
def cdTy (d : List Byte) : Option Ty := if field d 1 1 < 32 then Ty.ofCode (BitVec.ofNat 5 (field d 1 1)) else none
def cdOp (d : List Byte) : Nat := field d 2 1
def cdRoot (d : List Byte) : Nat := field d 4 4
def cdKey (d : List Byte) : Word := BitVec.ofNat 64 (field d 8 8)
def cdSrc (d : List Byte) : Nat := field d 16 8
def cdDst (d : List Byte) : Nat := field d 24 8
def cdCount (d : List Byte) : Nat := field d 32 8
def cdTmo (d : List Byte) : Nat := field d 40 4
def cdMask (d : List Byte) : Nat := field d 64 64

/-- Bytes of an element. -/
def cdBytes (d : List Byte) : Nat := ((cdTy d).map fun t => t.width / 8).getD 1

/-- Numbers of the devices set in DMASK below a number. -/
def maskBelow (m n : Nat) : Nat := ((List.range n).filter m.testBit).length

/-- Participants of a collective (R426). -/
def cdParts (d : List Byte) (lw lh : Nat) : Nat := maskBelow (cdMask d) 512 * (2 ^ lw * 2 ^ lh)

/-- A type that a kind takes. -/
def cdTyOk (kind : Nat) (t : Ty) : Bool :=
  if kind < 2 then [Ty.f32, .bf16, .i32, .n32, .i64, .n64].contains t else t.isLane

/-- The descriptor keeps to R425. -/
def cdOk (d : List Byte) (dev parts : Nat) : Bool :=
  let k := cdKind d
  match cdTy d with
  | none => false
  | some t =>
    k ≤ 3 && cdTyOk k t && (if k < 2 then cdOp d ≤ 2 else cdOp d = 0) && field d 3 1 = 0
      && (if k = 3 then cdRoot d < parts else cdRoot d = 0) && cdSrc d % 64 = 0 && cdDst d % 64 = 0
      && 1 ≤ cdCount d && cdCount d ≤ 2 ^ 28 && cdCount d * (t.width / 8) % 64 = 0 && field d 44 20 = 0
      && (cdMask d).testBit dev && field d 128 128 = 0

/-- Bytes of the source and of the destination buffer (R427). -/
def cdSrcLen (d : List Byte) (parts : Nat) : Nat := cdCount d * cdBytes d * (if cdKind d = 1 then parts else 1)
def cdDstLen (d : List Byte) (parts : Nat) : Nat := cdCount d * cdBytes d * (if cdKind d = 2 then parts else 1)

/-- Two participants agree in what R426 names. -/
def cdSame (a b : List Byte) : Bool :=
  cdKind a = cdKind b && field a 1 1 = field b 1 1 && cdOp a = cdOp b && cdRoot a = cdRoot b && cdCount a = cdCount b
    && cdTmo a = cdTmo b && cdMask a = cdMask b

/-! ### Joining -/

/-- The collective of a function's key and count. -/
def CollSt.is (x : CollSt) (f : FuncId) (key : Word) (m : Nat) : Bool := x.func == f && x.key == key && x.m == m

/-- A collective changed, or created. -/
def State.modColl (s : State) (f : FuncId) (key : Word) (m : Nat) (g : CollSt → CollSt) : State :=
  let l := s.pkg.colls
  let l := if l.any fun x => x.is f key m then l else l ++ [{ func := f, key := key, m := m, joined := [], dead := none, done := false, acks := [] }]
  s.modPkg fun p => { p with colls := l.map fun x => if x.is f key m then g x else x }

/-- A participant is told how its collective ended: 0, or bit 63 and a reason (R424). -/
def State.tellJoin (s : State) (j : Joiner) (reason : Option Nat) : State :=
  s.answer j.core j.seat .coll j.res (match reason with
    | none => 0
    | some r => BitVec.ofNat 64 (2 ^ 63 + r))

/-- Whose accesses a participant's buffers are. -/
def State.whoJoin (s : State) (j : Joiner) : Who :=
  ⟨j.func, j.asn, j.user, [], some (coreDie j.core), s.clsSeat j.core j.seat⟩

/-- Bytes of a participant's destination here have no known values (R426, R428): it was read or ended before its time. -/
def State.fogDst (s : State) (j : Joiner) : State :=
  match s.span (s.whoJoin j) .write (cdDst j.desc) (cdDstLen j.desc (cdParts j.desc j.lw j.lh)) with
  | .bad _ => s
  | .ok l =>
    let near := l.filter fun g => isHbm g.xl.pa
    s.wrSegs near ((List.range (sum (near.map Seg.len))).map fun i => Config.freeByte i s.free)

/-- A collective fails: every participant that has joined is told the reason, which later joiners are told too; for reasons 3 and 4 the
destinations have no known values (R426). -/
def State.failColl (s : State) (x : CollSt) (r : Nat) : State :=
  let s := if 3 ≤ r then x.joined.foldl State.fogDst s else s
  let s := x.joined.foldl (fun s j => s.tellJoin j (some r)) s
  s.modColl x.func x.key x.m fun y => { y with dead := some r, joined := [] }

/-- Reason for which a joining strand's descriptor or buffers fail, and the fault of a failed translation (R426). -/
def State.joinFault (s : State) (w : Who) (d : List Byte) (parts : Nat) : Option (Nat × Option XFault) :=
  if !cdOk d s.pkg.devnum.toNat parts then some (1, none)
  else match s.span w .read (cdSrc d) (cdSrcLen d parts) with
    | .bad f => some (4, some f)
    | .ok _ => match s.span w .write (cdDst d) (cdDstLen d parts) with
      | .bad f => some (4, some f)
      | .ok _ => none

/-- The source buffer of a participant as it stands here (R428). -/
def State.srcNow (s : State) (j : Joiner) : List Byte :=
  match s.span (s.whoJoin j) .read (cdSrc j.desc) (cdSrcLen j.desc (cdParts j.desc j.lw j.lh)) with
  | .bad _ => []
  | .ok l => s.rdSegs l

/-- A strand joins a collective, whose descriptor has been read. Until its token is consumed its destination has no known values, and its
source keeps those it has now (R424, R426, R428). -/
def State.joinColl (s : State) (j : Joiner) (w : Who) : State :=
  let key := cdKey j.desc
  let q := s.seat j.core j.seat
  let m := q.collN.val 0 key.toNat
  let s := s.setSeat j.core j.seat { q with collN := q.collN.put key.toNat (m + 1) }
  let s := s.modColl w.func key m id
  match s.pkg.colls.find? fun x => x.is w.func key m with
  | none => s
  | some x =>
    match x.dead with
    | some r => s.tellJoin j (some r)
    | none =>
      match s.joinFault w j.desc (cdParts j.desc j.lw j.lh) with
      | some (r, f) =>
        let s := match f with
          | none => s
          | some f => s.recordFault w j.core j.seat 0 (bInst q.billet) f
        s.failColl { x with joined := x.joined ++ [j] } r
      | none =>
        let bad := x.joined.any fun y => !(cdSame y.desc j.desc && y.lw = j.lw && y.lh = j.lh)
        if bad then s.failColl { x with joined := x.joined ++ [j] } 2
        else
          let j := { j with src := s.srcNow j }
          (s.fogDst j).modColl w.func key m fun y => { y with joined := y.joined ++ [j] }

end Sys2Proof.Machine
end

