-- ==== Sys2Proof/Machine/System.lean ====
section
/-!
DEFINITION. TRAP and ERET, the control registers, ENDS, STEP and TRIG, fences and CHK (R26 to R29, R90 to R97, R155, R249).
-/
namespace Sys2Proof.Machine

/-- Meaning of TRAP: the bundle takes effect, back-edge included, and the trap sequence follows it; with ACT set it is a double
trap (R90, R154, R157). -/
def execTrap (code : Bits26) (s : State) : Result :=
  attempt s (.trap code) fun e =>
    let (lc, pc) := e.q.nextPc e.q.pc true
    let s := e.s.modSeat e.c e.k fun q => { q with lc := lc, pc := pc }
    let eff :=
      if e.q.act then s.doubleTrap e.c e.k fTrap
      else s.modCore e.c fun x =>
        x.trapEntry e.k pc (mkCause fTrap 0 false 7 e.q.plv 0) (code.zeroExtend 64) 6
    { causes := [], held := false, wait := e.s, eff := eff, moved := true }

/-- Meaning of ERET (R91, R156). -/
def execEret (s : State) : Result :=
  attempt s .eret fun e =>
    { causes := [], held := false, wait := e.s, eff := e.s.modSeat e.c e.k SeatSt.trapReturn, moved := true }

/-! ### Control registers (R26, R27, R28, R29, R249) -/

/-- Value of the seat register (R28). -/
def seatReg (c : CoreId) (k : SeatId) (q : SeatSt) : Word :=
  BitVec.ofNat 64 (k.toNat + coreField c + q.plv.toNat * 2 ^ 16 + bClass q.billet * 2 ^ 18 + bGrade q.billet * 2 ^ 20
    + bSession q.billet * 2 ^ 32)

/-- Value of a margin register (R249). -/
def CoreSt.marginReg (x : CoreSt) (q : SeatSt) (col : Nat) (setl : Bool) (n : Nat) : Word :=
  match n with
  | 0x080 => x.mrc.val 0 0
  | 0x081 => x.mrc.val 0 1
  | 0x082 => x.mrc.val 0 2
  | 0x083 => x.mrc.val 0 3
  | 0x084 => q.mlim
  | 0x085 => x.mwin
  | 0x086 => BitVec.ofNat 64 (x.wcnt + x.overs * 2 ^ 24 + x.auto * 2 ^ 32 + x.wnum % 2 ^ 24 * 2 ^ 40)
  | 0x087 => BitVec.ofNat 64 (x.guard + x.floor.toNat * 2 ^ 4 + (x.seatAt 0).req.toNat * 2 ^ 8
      + (x.seatAt 1).req.toNat * 2 ^ 12 + (x.seatAt 2).req.toNat * 2 ^ 16 + (x.seatAt 3).req.toNat * 2 ^ 20
      + col * 2 ^ 24 + setl.toNat * 2 ^ 27)
  | 0x088 => x.raf.zeroExtend 64
  | 0x089 => BitVec.ofNat 64 ((x.injLeft != 0).toNat + x.injUnit.toNat * 2 + x.injLeft % 256 * 2 ^ 4
      + x.injDone % 256 * 2 ^ 12 + x.injDrop % 256 * 2 ^ 20)
  | 0x08A => x.mlast
  | _ => 0

/-- Value of a margin register of a core as a seat reads it (R249). -/
def State.marginWord (s : State) (c : CoreId) (k : SeatId) (n : Nat) : Word :=
  let lv := s.colLevel c
  (s.core c).marginReg (s.seat c k) lv (decide (lv < s.columnGuard (coreDie c) (coreX c))) n

/-- Value of a control register as a CRR reads it at its issue cycle (R26, R92). -/
def State.crRead (s : State) (c : CoreId) (k : SeatId) (n : Nat) : Word :=
  let x := s.core c
  let q := x.seatAt k
  match n with
  | 0x000 => q.fcr
  | 0x001 => q.tvec
  | 0x002 => q.tcause
  | 0x003 => q.tval
  | 0x004 => q.epc
  | 0x005 => q.tlc.zeroExtend 64
  | 0x006 => q.tls
  | 0x007 => q.tle
  | 0x008 => q.trot
  | 0x009 => q.tpsn
  | 0x010 => q.lc.zeroExtend 64
  | 0x011 => q.ls
  | 0x012 => q.le
  | 0x013 => q.vrb.zeroExtend 64
  | 0x014 => q.prb.zeroExtend 64
  | 0x020 => BitVec.ofNat 64 s.cyc
  | 0x021 => BitVec.ofNat 64 (s.ptimeAt s.cyc)
  | 0x022 => q.stepNo.zeroExtend 64
  | 0x023 => q.rte.zeroExtend 64
  | 0x024 => seatReg c k q
  | 0x040 => s.wstate c k 0
  | 0x041 => s.wstate c k 1
  | 0x042 => s.wstate c k 2
  | n => if 0x030 ≤ n && n ≤ 0x037 then q.xb.val 0 (n - 0x030) else s.marginWord c k n

/-- A write of a control register: reserved bits are dropped, and a read-only register keeps its value (R6, R26, R29, R249). -/
def SeatSt.crWrite (q : SeatSt) (n : Nat) (x : Word) : SeatSt :=
  match n with
  | 0x000 => { q with fcr := x &&& 0xFFFFFFFF0000001F }
  | 0x001 => { q with tvec := drop5 x }
  | 0x002 => { q with tcause := x &&& 0xFF037FFFFF }
  | 0x003 => { q with tval := x }
  | 0x004 => { q with epc := drop5 x }
  | 0x005 => { q with tlc := x.setWidth 32 }
  | 0x006 => { q with tls := x }
  | 0x007 => { q with tle := x }
  | 0x008 => { q with trot := x &&& 0x73F }
  | 0x009 => { q with tpsn := x &&& 0xFFFFFFFFFFFE }
  | 0x010 => { q with lc := x.setWidth 32 }
  | 0x011 => { q with ls := drop5 x }
  | 0x012 => { q with le := drop5 x }
  | 0x013 => { q with vrb := x.setWidth 6 }
  | 0x014 => { q with prb := x.setWidth 3 }
  | 0x084 => { q with mlim := x &&& 0x77 }
  | _ => q

/-- Meaning of CRR: tag clear, bound 2 (R92). -/
def execCrr (sd : SReg) (cr : Bits12) (s : State) : Result :=
  attempt s (.crr sd cr) fun e => e.plan [] (e.fly 2 (.s sd (e.s.crRead e.c e.k cr.toNat) false))

/-- Meaning of CRW from sA (R92). -/
def execCrwReg (cr : Bits12) (sa : SReg) (s : State) : Result :=
  attempt s (.crwReg cr sa) fun e =>
    e.plan (e.poisS 0 sa) (e.s.modSeat e.c e.k fun q => q.crWrite cr.toNat (e.sGet sa).1)

/-- Meaning of CRW of an immediate (R92). -/
def execCrwImm (cr : Bits12) (imm : Bits26) (s : State) : Result :=
  attempt s (.crwImm cr imm) fun e => e.plan [] (e.s.modSeat e.c e.k fun q => q.crWrite cr.toNat (imm.zeroExtend 64))

/-! ### Ends, steps and triggers -/

/-- A strand has ended: ENDS without an earlier TRIG counts as a trigger (R319, R320). -/
def InstSt.strandEnd (i : InstSt) (n now : Nat) : InstSt :=
  { i with trig := insertNat i.trig n, ended := insertNat i.ended n, seats := i.seats.del n, fin := now }

/-- Meaning of ENDS: held until the seat's commands and its variable-latency results are done; then the strand has ended, which is a
release (R303), a request made of it lapses (R328), and the core reaches a switch point (R93, R168, R169). -/
def execEnds (s : State) : Result :=
  attempt s .ends fun e =>
    let mine (t : Tab Entry) : Bool := t.any fun p => p.2.seat == e.k
    let busy := mine e.x.h0 || mine e.x.h1 || mine e.x.te || !e.q.vres.isEmpty
    let s := ((e.s.disarmSeat e.c e.k).uoAct e.c e.k true false).modCore e.c fun x =>
      let x := x.landAll e.k
      ({ x.setSeat e.k { x.seatAt e.k with st := .ended } with swp := true } : CoreSt).clearPrq e.k
    let s := s.modInst (coreDie e.c) (bInst e.q.billet) fun i => i.strandEnd e.q.sidx e.s.cyc
    { causes := [], held := busy, wait := e.s, eff := s, moved := true }

/-- The step number set; the gap count is cleared when the bundle commits, and the estimate follows (R94, R313). -/
def At.step (e : At) (n : BitVec 32) : State := e.s.modSeat e.c e.k fun q => { q with stepNo := n }

/-- Meaning of STEP with an immediate (R94). -/
def execStepImm (n : Bits26) (s : State) : Result := attempt s (.stepImm n) fun e => e.plan [] (e.step (n.zeroExtend 32))

/-- Meaning of STEP with a number in sA: bits 31:0 (R94). -/
def execStepReg (sa : SReg) (s : State) : Result :=
  attempt s (.stepReg sa) fun e => e.plan (e.poisS 0 sa) (e.step ((e.sGet sa).1.setWidth 32))

/-- The first TRIG of a strand counts towards its instance's trigger, once it has crossed, and releases at .pk (R95, R248, R302, R319);
`ck` is
the CYC of its issue. -/
def State.trigger (s : State) (c : CoreId) (k : SeatId) (ck : Nat) : State :=
  let q := s.seat c k
  ((s.uoAct c k true false).modSeat c k fun q => { q with trig := true }).outward (ck + 2) (.trig (coreDie c) (bInst q.billet) q.sidx)

/-- The results that a release of the strand waits for, as it is issued (R290). -/
def SeatSt.before (q : SeatSt) : List Nat := q.blockers { Vres.none with rel := true }

/-- Meaning of TRIG: it counts once every earlier access of the strand has been performed (R95, R302, R319). -/
def execTrig (s : State) : Result :=
  attempt s .trig fun e =>
    e.plan [] (if e.q.before.isEmpty then e.s.trigger e.c e.k e.s.cyc
      else e.vresOn e.s { Vres.none with ck := e.s.cyc, after := e.q.before, todo := some .trig })

/-! ### Fences and checks -/

/-- A fence holds its bundle while an access of its set is outstanding: every other access of the model has been performed
(R96, R283, log 5). Once it issues, the strand's stores of its set are performed for the engines too, and at .cl or wider it acts on
UO lines (R283, R287, R293). -/
def fence (s : State) (i : Instr) (ld st : Bool) (scp : Scope) : Result :=
  attempt s i fun e =>
    let s := e.s.uoAct e.c e.k (st && scpWide scp) (ld && scpWide scp)
    e.planH [] (e.q.vres.any fun v => (ld && v.kind.isLoad) || (st && v.kind.isStore))
      (if st && scp != .st then s.modSeat e.c e.k fun q => { q with recent := [] } else s)

/-- Meaning of FENCE (R96, R293). -/
def execFence (scp : Scope) (s : State) : Result := fence s (.fence scp) true true scp
/-- Meaning of FENCE.r: loads (R96, R293). -/
def execFenceR (scp : Scope) (s : State) : Result := fence s (.fenceR scp) true false scp
/-- Meaning of FENCE.w: stores and atomics (R96, R293). -/
def execFenceW (scp : Scope) (s : State) : Result := fence s (.fenceW scp) false true scp

/-- F_CHK for a register code (R97). -/
def chkErr (v : Word) : PCause := ⟨60, 0, fChk, v, none⟩

/-- Meaning of CHK of an s register (R97). -/
def execChkS (sa : SReg) (s : State) : Result :=
  attempt s (.chkS sa) fun e => e.plan (if (e.sGet sa).2 then [chkErr (regCode 0 sa.toNat 0)] else []) e.s

/-- Meaning of CHK of an a register (R97). -/
def execChkA (aa : AReg) (s : State) : Result :=
  attempt s (.chkA aa) fun e => e.plan (if (e.aGet aa).2 then [chkErr (regCode 1 aa.toNat 0)] else []) e.s

/-- Meaning of CHK of a row: SECT lists its poisoned sectors (R97). -/
def execChkV (v : VReg) (s : State) : Result :=
  attempt s (.chkV v) fun e =>
    let t := (e.vGet v).t
    e.plan (if t = 0 then [] else [chkErr (regCode 2 v.toNat t.toNat)]) e.s

end Sys2Proof.Machine
end

