-- ==== Sys2Proof/Machine/Tiles.lean ====
section
/-!
DEFINITION. The tile table instructions (R224 to R228).
-/
namespace Sys2Proof.Machine

/-- Tag of an address: bits 56:14 (R225). -/
def tagOf (a : Word) : BitVec 43 := a.extractLsb' 14 43

/-- Slots granted to a seat, rising. -/
def CoreSt.granted (x : CoreSt) (k : SeatId) : List Nat := (List.range 256).filter fun n => (x.tile n).owner = some k

/-- The lowest EMPTY slot granted to a seat. -/
def CoreSt.emptySlot (x : CoreSt) (k : SeatId) : Option Nat := (x.granted k).find? fun n => (x.tile n).st == .empty

/-- Code of a slot's state (R218). -/
def slotCode : SlotState → Nat
  | .empty => 0
  | .filling => 1
  | .ready => 2
  | .draining => 3

/-- Meaning of TLOOK (R225). -/
def execTlook (sd sa : SReg) (s : State) : Result :=
  attempt s (.tlook sd sa) fun e =>
    let g := tagOf (e.sGet sa).1
    let v : Nat := match (e.x.granted e.k).find? fun n => (e.x.tile n).st != .empty && (e.x.tile n).tag = g with
      | some j => j + slotCode (e.x.tile j).st * 2 ^ 8
      | none => 2 ^ 63 + (e.x.emptySlot e.k).getD (2 ^ 8)
    e.plan (e.poisS 3 sa) (e.fly 3 (.s sd (BitVec.ofNat 64 v) false))

/-- A slot claimed: READY under a tag, its rows zero (R220, R226). -/
def CoreSt.claim (x : CoreSt) (k : SeatId) (n : Nat) (g : BitVec 43) : CoreSt :=
  let x := x.modTile n fun t =>
    { t with st := .ready, tag := g, cls := BitVec.ofNat 2 (bClass (x.seatAt k).billet), err := false }
  { x with gran := x.gran.filter fun p => p.1 / 16 != n }

/-- Meaning of TCLAIM: the lowest EMPTY granted slot, if there is one (R226). -/
def execTclaimAuto (sd sa : SReg) (s : State) : Result :=
  attempt s (.tclaimAuto sd sa) fun e =>
    e.plan (e.poisS 3 sa) (match e.x.emptySlot e.k with
      | none => e.fly 3 (.s sd (BitVec.ofNat 64 (2 ^ 63)) false)
      | some j => (e.fly 3 (.s sd (BitVec.ofNat 64 j) false)).modCore e.c fun x => x.claim e.k j (tagOf (e.sGet sa).1))

/-- F_TILE for a slot named by an X syllable in a state that forbids the use (R164, R226). -/
def slotErr (v : Nat) : PCause := ⟨90, 3, fTile, BitVec.ofNat 64 v, none⟩

/-- Meaning of TCLAIM of a named slot (R226). -/
def execTclaimNamed (sd sa : SReg) (slot : Slot) (s : State) : Result :=
  attempt s (.tclaimNamed sd sa slot) fun e =>
    let n := slot.toNat
    let bad := match e.x.grantErr e.k n with
      | some v => [slotErr v]
      | none => if (e.x.tile n).st == .empty then [] else [slotErr (n + 2 * 2 ^ 8)]
    e.plan (e.poisS 3 sa ++ bad)
      ((e.fly 3 (.s sd (BitVec.ofNat 64 n) false)).modCore e.c fun x => x.claim e.k n (tagOf (e.sGet sa).1))

/-- TFREE of a slot: held while it is FILLING, DRAINING or pinned (R222, R227). -/
def At.tfree (e : At) (pois : List PCause) (n : Nat) : Plan :=
  let t := e.x.tile n
  e.planH (pois ++ e.x.tileErr e.k 3 n) (t.st == .filling || t.st == .draining || t.pins != 0)
    (e.s.modCore e.c fun x => x.modTile n fun t => { t.empty with tag := 0 })

/-- Meaning of TFREE of a named slot (R227). -/
def execTfreeNamed (slot : Slot) (s : State) : Result := attempt s (.tfreeNamed slot) fun e => e.tfree [] slot.toNat

/-- Meaning of TFREE of the slot in sA (R227). -/
def execTfreeReg (sa : SReg) (s : State) : Result :=
  attempt s (.tfreeReg sa) fun e => e.tfree (e.poisS 3 sa) ((e.sGet sa).1.toNat % 256)

/-- The entry of a slot as TSTAT reads it (R218). -/
def CoreSt.tstat (x : CoreSt) (k : SeatId) (n : Nat) : Word :=
  let t := x.tile n
  match t.owner with
  | none => 0
  | some o =>
    if o != k then BitVec.ofNat 64 (2 ^ 7)
    else BitVec.ofNat 64 (slotCode t.st + o.toNat * 2 ^ 4 + 2 ^ 6 + t.cls.toNat * 2 ^ 8 + t.err.toNat * 2 ^ 10
      + t.armed.toNat * 2 ^ 11 + t.holder.toNat * 2 ^ 12 + t.pins * 2 ^ 14 + t.tag.toNat * 2 ^ 21)

/-- Meaning of TSTAT of a named slot (R228). -/
def execTstatNamed (sd : SReg) (slot : Slot) (s : State) : Result :=
  attempt s (.tstatNamed sd slot) fun e => e.plan [] (e.fly 3 (.s sd (e.x.tstat e.k slot.toNat) false))

/-- Meaning of TSTAT of the slot in sA (R228). -/
def execTstatReg (sd sa : SReg) (s : State) : Result :=
  attempt s (.tstatReg sd sa) fun e =>
    e.plan (e.poisS 3 sa) (e.fly 3 (.s sd (e.x.tstat e.k ((e.sGet sa).1.toNat % 256)) false))

end Sys2Proof.Machine
end

