-- ==== Sys2Proof/Machine/SyncCmd.lean ====
section
/-!
DEFINITION. Barriers, launches, network sends and posts, collectives and margin requests of the X syllable (R257, R258, R271,
R315, R341, R343, R344, R424).
-/
namespace Sys2Proof.Machine

/-! ### Barriers (R265, R271) -/

/-- The message of a strand to the unit that hosts the corner of its group (R265, R268). -/
def At.barMsg (e : At) (kind : BarKind) (bid : Bits4) (lw lh : Bits2) (cnt : Nat) (phase : Bits16) : BarMsg :=
  let gw := 2 ^ lw.toNat
  let gh := 2 ^ lh.toNat
  { kind := kind, core := e.c, seat := e.k, inst := bInst e.q.billet, bid := bid, cx := coreX e.c / gw * gw,
    cy := coreY e.c / gh * gh, e := if cnt = 0 then gw * gh else cnt, phase := phase, key := e.s.free, sidx := e.q.sidx }

/-- An effect that is a release: it takes place at once, or once the accesses before it have been performed; its result is outstanding
from now (R248, R290, R300 to R302). -/
def At.release (e : At) (v : Vres) (t : Todo) (now : State → State) : State :=
  if e.q.before.isEmpty then now ((e.vresOn e.s v).uoAct e.c e.k v.wide false)
  else e.vresOn e.s { v with rel := true, after := e.q.before, todo := some t }

/-- Meaning of BARI: no result (R271). -/
def execBari (bid : Bits4) (lw lh : Bits2) (cnt : Bits12) (s : State) : Result :=
  attempt s (.bari bid lw lh cnt) fun e => e.plan []
    (e.s.outward (e.s.cyc + 2) (.bar (coreDie e.c) (e.barMsg .init bid lw lh cnt.toNat 0)))

/-- Meaning of BARA, a release at its SCP: the phase and whether the arrival completed it come with the answer (R271, R300). -/
def execBara (sd : SReg) (bid : Bits4) (lw lh : Bits2) (sem : SemR) (scp : Scope) (s : State) : Result :=
  attempt s (.bara sd bid lw lh sem scp) fun e =>
    let m := e.barMsg .arrive bid lw lh 0 0
    e.plan [] (e.release { valueRes .bara sd 0 sem false e.s.cyc e.s.free with wide := scpWide scp } (.arrive m) fun s =>
      s.outward (e.s.cyc + 2) (.bar (coreDie e.c) m))

/-- Meaning of BARW: the unit answers once the phase in sA has been reached (R271). -/
def execBarw (sd : SReg) (bid : Bits4) (lw lh : Bits2) (sa : SReg) (sem : SemR) (scp : Scope) (s : State) : Result :=
  attempt s (.barw sd bid lw lh sa sem scp) fun e =>
    e.plan (e.poisS 3 sa)
      ((e.vresOn e.s { valueRes .barw sd 0 sem false e.s.cyc e.s.free with wide := scpWide scp }).outward (e.s.cyc + 2)
        (.bar (coreDie e.c) (e.barMsg .wait bid lw lh 0 ((e.sGet sa).1.setWidth 16))))

/-! ### Launch (R315) -/

/-- Meaning of LAUNCH, a release at .pk: the record's address goes to the dispatcher (R315). -/
def execLaunch (sd : SReg) (ab : AReg) (sem : SemR) (s : State) : Result :=
  attempt s (.launch sd ab sem) fun e =>
    let b := (e.aGet ab).1
    let r : LaunchReq := { asker := .strand e.c e.k e.s.free, func := e.q.func, asn := e.q.asn, priv := e.q.plv,
                           record := none, va := b }
    e.plan (e.poisA 3 ab ++ (if b.toNat % 128 = 0 then [] else [⟨70, 3, fAlign, b, none⟩]))
      (e.release { valueRes .launch sd 0 sem false e.s.cyc e.s.free with wide := true } (.launch r) fun s =>
        s.outward (e.s.cyc + 2) (.launch (coreDie e.c) r))

/-! ### The Ethernet endpoint (R341, R343, R344) -/

/-- Causes of slots that NSEND and NPOST name, in rising order (R341, R343): a number above 255 wraps. -/
def At.slotCauses (e : At) (lo n : Nat) : List PCause :=
  (List.range n).flatMap fun j =>
    if 255 < lo + j then [slotErr (lo + j - 256 + 3 * 2 ^ 8)] else e.x.tileErr e.k 3 (lo + j)

/-- Some of the slots is not READY. -/
def CoreSt.notReady (x : CoreSt) (lo n : Nat) : Bool := (List.range n).any fun j => (x.tile (lo + j)).st != .ready

/-- A completion enters the seat's queue of 16 (R344). -/
def SeatSt.pushEgr (q : SeatSt) (g : Egr) : SeatSt :=
  if q.ecq.length < 16 then { q with ecq := q.ecq ++ [g] } else { q with elost := true }

/-- Word of an egress completion (R344). -/
def egrWord (code : Bits16) (seq : Nat) : Word := BitVec.ofNat 64 (code.toNat + seq % 65536 * 2 ^ 16)

/-- The binding that an NSEND names, or its cause (R343). -/
def At.binding (e : At) (ix : Nat) : Except PCause BindSt :=
  match (e.s.die (coreDie e.c)).binds.find ix with
  | none => .error (xErr 100 fBus 0)
  | some b => if b.func != e.q.func || b.session.toNat != bSession e.q.billet then .error (xErr 81 fPerm 0) else .ok b

/-- The port of a binding is down, or the die's egress is fenced (R343, R359). -/
def State.portDown (s : State) (d : DieId) (b : BindSt) : Bool :=
  (s.die d).fenced || (if b.port then (s.die d).down1 else (s.die d).down0)

/-- CYC at which the copy of slot j of a message of n bytes ends: it begins when its bundle crosses, two ck after it issued, and takes
1,024 bytes in each fk of 0.8 ck (R4, R244, R343, log 71). -/
def copyEnd (now n j : Nat) : Nat := now + 2 + (4 * min ((n + 1023) / 1024) (16 * (j + 1)) + 4) / 5

/-- The slots of a message pinned, each until its bytes are copied (R221, R343). -/
def CoreSt.copySlots (x : CoreSt) (now slot k n : Nat) : CoreSt :=
  (List.range k).foldl (fun x j => x.modTile (slot + j) fun t => t.copyTo (copyEnd now n j)) x

/-- The message sent in the link class of the seat, its slots pinned while they are copied; poisoned data or a port that is down sends
nothing and completes at once (R161, R342, R343). -/
def At.sendEff (e : At) (b : BindSt) (ix slot k n : Nat) (sem : SemR) : State :=
  let d := bytesFrom e.x.granRow (16384 * slot) n
  let code : Bits16 := if d.any Prod.snd then fPoison else if e.s.portDown (coreDie e.c) b then fLink else 0
  let w := egrWord code e.q.ecnt
  let s := e.s.modCore e.c fun x => x.copySlots e.s.cyc slot k n
  if code = 0 then
    let s := s.send (.frame (coreDie e.c) ix (bClass e.q.billet + 1) (d.map Prod.fst))
    (e.vresOn s { valueRes .nsend 0 w sem true e.s.cyc 0 with addr := BitVec.ofNat 64 ix }).modSeat e.c e.k fun q => { q with ecnt := q.ecnt + 1 }
  else s.modSeat e.c e.k fun q =>
    { q.pushEgr ⟨w, 0⟩ with ecnt := q.ecnt + 1, inc := if sem = 0 then q.inc else q.inc ++ [(sem, 1)] }

/-- Meaning of NSEND (R343). -/
def execNsend (sa : SReg) (slot : Slot) (sem : SemR) (s : State) : Result :=
  attempt s (.nsend sa slot sem) fun e =>
    let w := (e.sGet sa).1
    let ix := bits w 13 0
    let n := bits w 31 16
    let k := max 1 ((n + 16383) / 16384)
    let pois := e.poisS 3 sa
    if !pois.isEmpty then e.plan pois e.s
    else match e.binding ix with
      | .error p => e.plan [p] e.s
      | .ok b => e.planH (e.slotCauses slot.toNat k) (e.x.notReady slot.toNat k) (e.sendEff b ix slot.toNat k n sem)

/-- Meaning of NPOST (R341). -/
def execNpost (sa : SReg) (slot : Slot) (nm1 : Bits4) (sem : SemR) (s : State) : Result :=
  attempt s (.npost sa slot nm1 sem) fun e =>
    let i := bits (e.sGet sa).1 13 0
    let n := nm1.toNat + 1
    let pois := e.poisS 3 sa
    let x := e.s.steerAt (coreDie e.c) i
    if !pois.isEmpty then e.plan pois e.s
    else if !x.w0.getLsbD 0 then e.plan [xErr 100 fBus 0] e.s
    else if !steerNames x e.c || (!e.q.plv && i / 2 != bSession e.q.billet) then e.plan [xErr 81 fPerm 0] e.s
    else
      let pinned := (List.range n).any fun j => (e.x.tile (slot.toNat + j)).pins != 0
      e.planH (e.slotCauses slot.toNat n) (e.x.notReady slot.toNat n || pinned || x.land.isSome)
        (e.s.outward (e.s.cyc + 2) (.post e.c e.k (bInst e.q.billet) i slot.toNat n sem))

/-- A value for sD with bound 3 (R344). -/
def At.nstat (e : At) (sd : SReg) (v : Word) : State := e.fly 3 (.s sd v false)

/-- Meaning of NSTAT.e: the oldest completion is removed and LOST cleared (R344). -/
def execNstatE (sd : SReg) (s : State) : Result :=
  attempt s (.nstatE sd) fun e =>
    let lost := e.q.elost.toNat * 2 ^ 32
    e.plan [] (match e.q.ecq with
      | [] => (e.nstat sd (BitVec.ofNat 64 lost)).modSeat e.c e.k fun q => { q with elost := false }
      | g :: r => (e.nstat sd (BitVec.ofNat 64 (g.word.toNat + lost + 2 ^ 33))).modSeat e.c e.k fun q =>
          { q with ecq := r, elost := false, estamp := g.stamp })

/-- Meaning of NSTAT.t: the stamp of the completion last removed (R344). -/
def execNstatT (sd : SReg) (s : State) : Result :=
  attempt s (.nstatT sd) fun e => e.plan [] (e.nstat sd e.q.estamp)

/-- A steering entry as NSTAT reads it: 0 where it does not name the core (R344). -/
def At.entryWord (e : At) (sa : SReg) (f : SteerSt → Word) : Word :=
  let x := e.s.steerAt (coreDie e.c) (bits (e.sGet sa).1 13 0)
  if steerNames x e.c then f x else 0

/-- Meaning of NSTAT.i (R344). -/
def execNstatI (sd sa : SReg) (s : State) : Result :=
  attempt s (.nstatI sd sa) fun e => e.plan (e.poisS 3 sa) (e.nstat sd (e.entryWord sa SteerSt.w1))

/-- Meaning of NSTAT.a (R344). -/
def execNstatA (sd sa : SReg) (s : State) : Result :=
  attempt s (.nstatA sd sa) fun e => e.plan (e.poisS 3 sa) (e.nstat sd (e.entryWord sa SteerSt.arr))

/-! ### Collectives (R424, R426) -/

/-- Rank of the strand at (x, y) of a device: ranks of the devices below it in DMASK, then its place in its group (R426). -/
def rankAt (d : List Byte) (dev gw gh x y : Nat) : Nat :=
  maskBelow (cdMask d) dev * (gw * gh) + (x - x / gw * gw) + (y - y / gh * gh) * gw

/-- A strand as a participant (R426). -/
def At.joiner (e : At) (lw lh : Bits2) (d : List Byte) : Joiner :=
  let gw := 2 ^ lw.toNat
  let gh := 2 ^ lh.toNat
  let x := coreX e.c
  let y := coreY e.c
  { core := e.c, seat := e.k, res := e.s.free,
    rank := rankAt d e.s.pkg.devnum.toNat gw gh x y,
    lw := lw.toNat, lh := lh.toNat, desc := d, fcr := e.q.fcr, func := e.q.func, asn := e.q.asn, user := !e.q.plv,
    at0 := e.s.cyc, src := [] }

/-- The range of a collective's descriptor, where part of it lies on another device. -/
def State.collFar (s : State) (j : Joiner) (b : Word) : Option (List Seg) :=
  match s.span (s.whoSeat j.core j.seat) .read (vaOf b) 256 with
  | .bad _ => none
  | .ok l => if remote l then some l else none

/-- The descriptor read and the collective joined; `ans` is what another device gives of it. One that cannot be read ends the strand's
join with reason 4 (R424, R426). -/
def State.collRead (s : State) (j : Joiner) (b : Word) (ans : FarAns) : State :=
  let w := s.whoSeat j.core j.seat
  match s.span w .read (vaOf b) 256 with
  | .bad f => (s.recordFault w j.core j.seat 0 (bInst (s.seat j.core j.seat).billet) f).tellJoin j (some 4)
  | .ok l =>
    if ans.err.isSome then s.tellJoin j (some 4)
    else
      let d := (farFill ans (farParts l 0) (s.nearBytes l)).map Prod.fst
      (s.l2Segs false l).joinColl
        { j with desc := d, rank := rankAt d s.pkg.devnum.toNat (2 ^ j.lw) (2 ^ j.lh) (coreX j.core) (coreY j.core) } w

/-- Meaning of COLL (R301, R424). -/
def execColl (sd : SReg) (ab : AReg) (sem : SemR) (lw lh : Bits2) (s : State) : Result :=
  attempt s (.coll sd ab sem lw lh) fun e =>
    let b := (e.aGet ab).1
    let j := e.joiner lw lh []
    let v := { valueRes .coll sd 0 sem false e.s.cyc e.s.free with wide := true }
    e.plan (e.poisA 3 ab ++ (if b.toNat % 256 = 0 then [] else [⟨70, 3, fAlign, b, none⟩]))
      (match e.q.before.isEmpty, e.s.collFar j b with
      | true, some l => e.vresOn (e.s.askSegs l) { v with remote := true, todo := some (.coll b j) }
      | _, _ => e.release v (.coll b j) fun s => s.collRead j b FarAns.none)

/-! ### Margin (R257, R258) -/

/-- Meaning of MRGN: the request is clamped and written at the bundle's commit, at the end of the next ck; it crosses one ck later, and
the semaphore counts once the column has settled (R244, R248, R257). -/
def execMrgn (level : Bits3) (sem : SemR) (s : State) : Result :=
  attempt s (.mrgn level sem) fun e =>
    let cap : Nat := if e.q.plv then 7 else bits e.x.mwin 34 32
    let inst := bInst e.q.billet
    let s := e.s.outward (e.s.cyc + 1) (.req e.c e.k inst (BitVec.ofNat 3 (min level.toNat cap)))
    e.plan [] (if sem = 0 then s
      else (e.vresOn s (valueRes .mrgn 0 0 sem true e.s.cyc 0)).outward (e.s.cyc + 2) (.settle e.c e.k inst e.q.nextId sem))

/-- Meaning of MINJ: it arms at its bundle's commit, at the end of the next ck, in place of an earlier arm (R244, R258, R262). -/
def execMinj (unit : Bits2) (sa : SReg) (cnt : Bits8) (gap : Bits12) (s : State) : Result :=
  attempt s (.minj unit sa cnt gap) fun e =>
    e.plan (e.poisS 3 sa) (e.s.outward (e.s.cyc + 1) (.inject e.c unit (e.sGet sa).1.toNat cnt.toNat gap.toNat))

/-- Meaning of MINJ.off: it disarms at its bundle's commit; UNIT, DONE and DROP stay (R258, log 78). -/
def execMinjOff (s : State) : Result :=
  attempt s .minjOff fun e => e.plan [] (e.s.outward (e.s.cyc + 1) (.disarm e.c))

end Sys2Proof.Machine
end

