-- ==== Sys2Proof/Machine/Sched.lean ====
section
/-!
DEFINITION. Task descriptors (R310, R312), the start and the resume of a strand in a seat (R32, R168, R219, R235, R340), the
saving of its checkpoint (R170, R180, R272), and the refusal of billets (R167).
-/
namespace Sys2Proof.Machine

/-! ### The descriptor (R310) -/

def tdVer (d : List Byte) : Nat := field d 0 1
def tdFlag (d : List Byte) (i : Nat) : Bool := (field d 1 1).testBit i
def tdPlv (d : List Byte) : Bool := tdFlag d 0
def tdAction (d : List Byte) : Bool := tdFlag d 1
def tdDlrel (d : List Byte) : Bool := tdFlag d 2
def tdPrebind (d : List Byte) : Bool := tdFlag d 3
def tdClass (d : List Byte) : Nat := field d 2 1
def tdDie (d : List Byte) : Nat := field d 3 1
def tdRx (d : List Byte) : Nat := field d 4 1
def tdRy (d : List Byte) : Nat := field d 5 1
def tdLw (d : List Byte) : Nat := field d 6 1 % 4
def tdLh (d : List Byte) : Nat := field d 6 1 / 16 % 4
def tdMay (d : List Byte) (i : Nat) : Bool := (field d 7 1).testBit i
def tdTask (d : List Byte) : Nat := field d 8 2
def tdSession (d : List Byte) : Nat := field d 10 2
def tdTokens (d : List Byte) : Nat := field d 12 1
def tdL2c (d : List Byte) : Nat := field d 13 1
def tdHsc (d : List Byte) : Nat := field d 14 1
def tdPlace (d : List Byte) : Nat := field d 15 1
def tdVwin (d : List Byte) : Nat := field d 16 2
def tdTiles (d : List Byte) : Nat := field d 18 2
def tdQh0 (d : List Byte) : Nat := field d 20 1
def tdQh1 (d : List Byte) : Nat := field d 21 1
def tdQt (d : List Byte) : Nat := field d 22 1
def tdResslot (d : List Byte) : Nat := field d 23 1
def tdL1w (d : List Byte) : Nat := field d 24 2
def tdPace (d : List Byte) (i : Nat) : Nat := field d (26 + 2 * i) 2
def tdRelease (d : List Byte) : Nat := field d 32 8
def tdDeadline (d : List Byte) : Nat := field d 40 8
def tdMinsep (d : List Byte) : Nat := field d 48 8
def tdTvec (d : List Byte) : Nat := field d 56 8
def tdCkpt (d : List Byte) : Nat := field d 64 8
def tdCksz (d : List Byte) : Nat := field d 72 4
def tdMaxstep (d : List Byte) : Nat := field d 76 4
def tdCrec (d : List Byte) : Nat := field d 80 8
def tdCutbound (d : List Byte) : Nat := if field d 88 4 = 0 then 262144 else field d 88 4
def tdTslot (d : List Byte) : Nat := field d 92 2
/-- Entry address and remaining-time table of a variant; an entry of 0 means that the grade is not offered. -/
def tdEntry (d : List Byte) (g : Nat) : Nat := field d (96 + 16 * g) 8
def tdRtt (d : List Byte) (g : Nat) : Nat := field d (104 + 16 * g) 8
/-- Width and height of the rectangle (R264). -/
def tdW (d : List Byte) : Nat := 2 ^ tdLw d
def tdH (d : List Byte) : Nat := 2 ^ tdLh d

/-- Entry k of a remaining-time table: past its end the last one (R312). -/
def rttAt (t : List Imm32) (k : Nat) : Nat := ((t[k]?).getD (t.getLastD 0)).toNat

/-- The estimate for a step of a strand (R255, R313). -/
def estimate (t raf : Nat) : Nat := (t * (1024 + raf) + 1023) / 1024

/-- The estimate that the dispatcher writes for a step of a grade's variant (R313). -/
def TaskSt.rteAt (t : TaskSt) (g k raf : Nat) : BitVec 32 := BitVec.ofNat 32 (estimate (rttAt (t.rtt.val [] g) k) raf)

/-! ### Instances and their seats -/

/-- An instance of a die. -/
def State.instAt (s : State) (d : DieId) (n : Nat) : Option InstSt := (s.die d).insts.find n

/-- Strand index of a core in an instance's rectangle, if it lies in it (R12). -/
def InstSt.index (i : InstSt) (d : List Byte) (c : CoreId) : Option Nat :=
  let x := coreX c
  let y := coreY c
  if i.x0 ≤ x && x < i.x0 + tdW d && i.y0 ≤ y && y < i.y0 + tdH d then some ((x - i.x0) + (y - i.y0) * tdW d) else none

/-- Number of strands of a task. -/
def tdStrands (d : List Byte) : Nat := tdW d * tdH d

/-! ### Refusal of a billet (R167) -/

/-- Every RSV field of a billet is zero (R166). -/
def billetClean (b : Billet) : Bool :=
  [(7, 7), (15, 13), (23, 22), (31, 29), (39, 37), (47, 46), (63, 60), (79, 76), (95, 92), (111, 108), (127, 125), (319, 304),
   (511, 385)].all fun p => bits b p.1 p.2 = 0

/-- Two windows overlap. -/
def overlap (a b : Billet) : Bool := bWbase a < bWbase b + bW b && bWbase b < bWbase a + bW a

/-- The condition of R167 that a billet for a seat breaks, by its place in the list. -/
def CoreSt.refuses (x : CoreSt) (k : SeatId) (b : Billet) : Option Nat :=
  let others := (seatIds.filter (· != k)).filterMap fun j =>
    let o := (x.seatAt j).billet
    if bV o then some o else none
  let full (f : Billet → Nat) (cap : Nat) : Bool := cap < sum ((b :: others).map f)
  if 2048 < bWbase b + bW b then some 1
  else if others.any (overlap b) then some 2
  else if bClass b = 3 then some 3
  else if full bQh0 16 || full bQh1 16 || full bQt 32 then some 4
  else if !billetClean b then some 5
  else none

/-- A REFUSE event (R267). -/
def State.refuseEvent (s : State) (c : CoreId) (k : SeatId) (cond : Nat) : State :=
  s.stewPush (coreDie c) (clusterOf (coreX c) (coreY c))
    (stewMsg 0x84 0 (coreField c) 0 s.cyc (leBytes 1 k.toNat ++ leBytes 1 cond))

/-! ### Slots (R219, R322, R340) -/

/-- Slots that no seat holds and no step pins. -/
def CoreSt.freeSlots (x : CoreSt) : List Nat :=
  (List.range 256).filter fun n => (x.tile n).owner.isNone && (x.tile n).pins = 0

/-- Steering entries that arm slots of a core at the binding of a task (R340). -/
def State.autoEntries (s : State) (c : CoreId) (task : Nat) : Tab SteerSt :=
  (s.die (coreDie c)).steer.filter fun p =>
    p.2.w0.getLsbD 0 && p.2.w0.getLsbD 1 && steerNames p.2 c && bits p.2.w0 43 32 = task

/-- Slots that those entries name. -/
def State.autoSlots (s : State) (c : CoreId) (task : Nat) : List Nat :=
  (s.autoEntries c task).foldl (fun l p => (List.range (steerN p.2)).foldl (fun l j => insertNat l (steerSlot p.2 + j)) l) []

/-- The slots that a binding grants on a core: those saved, those that TSLOT names, or else those of the steering entries and
the lowest free ones (log 16); none where they are not free. -/
def State.pickSlots (s : State) (c : CoreId) (d : List Byte) (saved : Option (List Nat)) : Option (List Nat) :=
  let free := (s.core c).freeSlots
  let auto := s.autoSlots c (tdTask d)
  let want := match saved with
    | some l => l
    | none =>
      if tdTslot d != 0 then (List.range (tdTiles d)).map (· + (tdTslot d - 1))
      else (auto ++ (free.filter fun n => !auto.contains n).take (tdTiles d - auto.length))
  if want.length = tdTiles d && want.all free.contains && (saved.isSome || auto.all want.contains) then some want else none

/-- Slots granted to a seat: EMPTY, with no tag (R219). -/
def CoreSt.grantSlots (x : CoreSt) (k : SeatId) (l : List Nat) : CoreSt :=
  l.foldl (fun x n => x.modTile n fun t => { t.empty with owner := some k }) x

/-- The steering entries of a task on a core claim their slots with TAG 0 and arm them (R340). -/
def State.autoArm (s : State) (c : CoreId) (k : SeatId) (task : Nat) : State :=
  (s.autoEntries c task).foldl (fun s p =>
    let s := s.setSteer (coreDie c) p.1 { p.2 with w1 := setBits p.2.w1 17 16 1, land := none, post := none }
    s.modCore c fun x =>
      ((List.range (steerN p.2)).foldl (fun (x : CoreSt) j => x.claim k (steerSlot p.2 + j) 0) x).arm (steerSlot p.2) (steerN p.2)) s

/-! ### Start and resume (R32, R168) -/

/-- Row groups of a billet's window become ACTIVE (R172). -/
def CoreSt.wakeWindow (x : CoreSt) (b : Billet) : CoreSt :=
  (List.range (bW b / 64)).foldl (fun (x : CoreSt) j =>
    let g := bWbase b / 64 + j
    { x with gs := setBits x.gs (2 * g + 1) (2 * g) 0 }) x

/-- Rows of a billet's window cleared. -/
def CoreSt.zeroWindow (x : CoreSt) (b : Billet) : CoreSt :=
  { x with vrf := x.vrf.filter fun p => !(bWbase b ≤ p.1 && p.1 < bWbase b + bW b) }

/-- A seat at strand start (R17, R26, R32, R313). -/
def startSeat (i : InstSt) (ix raf : Nat) (b : Billet) : SeatSt :=
  let t := i.tsk
  let d := t.desc
  { SeatSt.reset with
    st := .wake, billet := b, pc := drop5 (BitVec.ofNat 64 (tdEntry d (bGrade b)))
    ar := [(0, bDesc b), (1, i.param)]
    sr := [(1, BitVec.ofNat 64 ix), (2, BitVec.ofNat 64 (tdW d + tdH d * 256)), (3, BitVec.ofNat 64 (bGrade b)),
           (4, BitVec.ofNat 64 (bSession b))]
    tvec := drop5 (bTvec b), plv := bPlv b, xb := i.xb, rte := t.rteAt (bGrade b) 0 raf, func := i.func, asn := i.asn
    x0 := i.x0, y0 := i.y0, rw := tdW d, rh := tdH d, sidx := ix }

/-- A core that has left the admitted capacity: quarantined or out, stopped, drained by a resize, or withdrawn (R254, R336). -/
def State.gone (s : State) (c : CoreId) : Bool :=
  let x := s.core c
  x.mstate == .quarantine || x.mstate == .out || x.stopped || x.withdrawn || (s.die (coreDie c)).draining.contains c

/-- A core on which nothing new is bound: one that has left the capacity, or in a cluster whose steward has failed (R254, R280). -/
def State.removed (s : State) (c : CoreId) : Bool := s.gone c || (s.cluster (coreDie c) (clusterOf (coreX c) (coreY c))).sfail

/-- A seat is kept for another instance than that of a number, whose victim was drained from it (R328). -/
def State.keptFrom (s : State) (c : CoreId) (k : SeatId) (n : Nat) : Bool :=
  (s.die (coreDie c)).kept.any fun e => e.1 == c && e.2.1 == k && e.2.2 != n

/-- A RESIDENT task is bound only on a core where its slot is installed (R387). -/
def State.residentAt (s : State) (d : List Byte) (c : CoreId) : Bool :=
  !tdFlag d 4 || match s.pkg.res.find (tdResslot d) with
    | none => false
    | some r => r.dmask.getLsbD (coreDie c).toNat && r.cmask.getLsbD (8 * coreY c + coreX c)

/-- A strand started in a seat (R32, R168): its slots granted, its rows zero. It starts with an acquire (R303). -/
def State.startStrand (s : State) (c : CoreId) (k : SeatId) (b : Billet) (i : InstSt) (ix : Nat) (slots : List Nat) :
    State :=
  let s := s.modCore c fun x =>
    ((((x.wakeWindow b).zeroWindow b).grantSlots k slots).setSeat k (startSeat i ix x.raf.toNat b)).dropUo
  (s.autoArm c k (tdTask i.tsk.desc)).modInst (coreDie c) (bInst b) fun i => { i with seats := i.seats.put ix (c, k) }

/-- First free index of a queue. -/
def openIx (t : Tab Entry) (n : Nat) : Nat := ((freeIx t n).head?).getD (capacity n + t.length)

/-- Entries of a seat in a queue, oldest first. -/
def CoreSt.oldest (x : CoreSt) (n : Nat) (k : SeatId) : List (Nat × Entry) :=
  let rec put (p : Nat × Entry) : List (Nat × Entry) → List (Nat × Entry)
    | [] => [p]
    | q :: r => if p.2.enq < q.2.enq then p :: q :: r else q :: put p r
  (x.mine n k).foldl (fun l p => put p l) []

/-- Saved entries of a queue put back, oldest first, each at the first free index (R180, log 76), with those indexes. -/
def CoreSt.putEntries (x : CoreSt) (n : Nat) (k : SeatId) (now : Nat) (l : List Entry) : CoreSt × List Nat :=
  l.foldl (fun (p : CoreSt × List Nat) e =>
    let i := openIx (p.1.queue n) n
    (p.1.setQueue n ((p.1.queue n).put i { e with seat := k, since := now, whyAt := now }), p.2 ++ [i])) (x, [])

/-- The queue whose command a cause comes from (R155). -/
def Cause.queue (a : Cause) : Option Nat := if a.src = 0 || a.src = 4 then none else some (a.src.toNat - 1)

/-- A pending cause as a checkpoint holds it: QENT is the place of its entry among the seat's, oldest first; past 127, an index whose
entry has gone. -/
def Cause.saved (x : CoreSt) (k : SeatId) (a : Cause) : Cause :=
  match a.queue with
  | none => a
  | some n => { a with qent := match (x.oldest n k).findIdx? fun p => p.1 = a.qent.toNat with
      | some i => BitVec.ofNat 8 i
      | none => a.qent ||| 128 }

/-- A saved cause with the index at which its entry has been put back (R155). -/
def Cause.resumed (ix : Nat → List Nat) (a : Cause) : Cause :=
  match a.queue with
  | none => a
  | some n => { a with qent := if a.qent.getLsbD 7 then a.qent &&& 127 else BitVec.ofNat 8 ((ix n).getD a.qent.toNat 0) }

/-- A saved seat as it stands in its new place: its window, its rectangle and its core may be others (R32, R183). -/
def Saved.seatAt (v : Saved) (i : InstSt) (b : Billet) : SeatSt :=
  { v.seat with st := .wake, billet := b, x0 := i.x0, y0 := i.y0, paceH0 := none, paceH1 := none, paceT := none }

/-- A result takes effect: its destination is written with its tags, its semaphore is incremented, and a cause that it brings becomes
pending (R55, R102). -/
def State.landVal (s : State) (c : CoreId) (k : SeatId) (v : Vres) : State :=
  let s := match v.write with
    | none => s
    | some w => s.modCore c fun x => x.land k ⟨0, 0, w, []⟩
  let s := s.modSeat c k fun q => q.bump v.sem 1
  match v.bad with
  | none => s
  | some p => s.pendCause c k ⟨p.1, 4, 0, p.2, 0⟩

/-- The acknowledgement of a remote push that the dispatcher has kept with the suspended instance (R170). -/
def Vres.acked (v : Vres) : Bool := v.kind == .qpush && v.remote && v.ready

/-- Acknowledgements that came while the strand was suspended land before its first bundle (R170). -/
def State.landKept (s : State) (c : CoreId) (k : SeatId) : State :=
  let l := (s.seat c k).vres.filter Vres.acked
  l.foldl (fun (s : State) v => s.landVal c k v) (s.modSeat c k fun q => { q with vres := q.vres.filter fun v => !v.acked })

/-- A strand resumed in a seat from its checkpoint (R32, R168, R170, R214, R235, R272). -/
def State.resumeStrand (s : State) (c : CoreId) (k : SeatId) (b : Billet) (i : InstSt) (ix : Nat) (v : Saved) : State :=
  let s := s.modCore c fun x =>
    let x := (((x.wakeWindow b).zeroWindow b).setSeat k (v.seatAt i b)).dropUo
    let x := { x with vrf := v.rows.foldl (fun (m : Tab Row) (p : Nat × Row) => m.put (bWbase b + p.1) p.2) x.vrf }
    let x := v.tiles.foldl (fun (x : CoreSt) (p : Nat × Tile) =>
      x.modTile p.1 fun t => { p.2 with owner := some k, pin0 := t.pin0, pin1 := t.pin1, pinT := t.pinT, pinE := t.pinE, copyAt := t.copyAt }) x
    let slot (a : Nat) : Bool := v.tiles.any fun p => p.1 = a / 16
    let x := { x with gran := v.trows.foldl (fun (m : Tab Row) (p : Nat × Row) => m.put p.1 p.2) (x.gran.filter fun p => !slot p.1) }
    let p0 := x.putEntries 0 k s.cyc v.h0
    let p1 := p0.1.putEntries 1 k s.cyc v.h1
    let p2 := p1.1.putEntries 2 k s.cyc v.te
    let ix (n : Nat) : List Nat := if n = 0 then p0.2 else if n = 1 then p1.2 else p2.2
    let x := p2.1.promote s.cyc
    let x := x.setSeat k { x.seatAt k with pend := (x.seatAt k).pend.map (Cause.resumed ix) }
    v.ovq.foldl (fun (x : CoreSt) e => x.pushEvent k (setBits e 13 12 k.toNat)) x
  let s := v.bwait.foldl (fun s m =>
    let dx := i.x0 + (m.cx - v.seat.x0)
    let dy := i.y0 + (m.cy - v.seat.y0)
    s.modCluster (coreDie c) (clusterOf dx dy) fun u =>
      { u with bmsg := u.bmsg ++ [{ m with core := c, seat := k, cx := dx, cy := dy }] }) s
  (s.landKept c k).modInst (coreDie c) (bInst b) fun i =>
    { i with seats := i.seats.put ix (c, k), saved := i.saved.del ix, resumed := true, removal := false }

/-- Barrier records saved with an instance's checkpoint put back at the units of the rectangle (R268). -/
def State.restoreBars (s : State) (d : DieId) (n : Nat) (i : InstSt) : State :=
  let s := i.bars.foldl (fun s r =>
    let x := i.x0 + r.cx
    let y := i.y0 + r.cy
    s.modCluster d (clusterOf x y) fun u => { u with bars := u.bars ++ [{ r with cx := x, cy := y }] }) s
  s.modInst d n fun i => { i with bars := [] }

/-! ### The checkpoint of a seat (R168, R170, R180, R206, R235, R272) -/

/-- A result that the save does not wait for: a BARW, or the acknowledgement of a remote push (R170). -/
def Vres.kept (v : Vres) : Bool := (v.kind == .barw && !v.ready) || (v.kind == .qpush && v.remote && !v.ready && v.todo.isNone)

/-- An entry as a checkpoint holds it. -/
def Entry.saved (e : Entry) : Entry :=
  { e with
    st := if e.st == .faulted then .faulted else .queued
    stamped := e.stamped && e.stepc = 0, stamp := if e.stepc = 0 then e.stamp else 0
    pace := false, stampOk := false, ch0 := false, ch1 := false, lreq := none, leave := false, busy := false, ahead := [], asked := false, segs := []
    chk := none, fail := none, buf := [], far := none, pins := [], flush := false, late := 0 }

/-- A slot as a checkpoint holds it: an ARMED one is saved READY (R235). -/
def Tile.saved (t : Tile) : Tile :=
  { (if t.armed then { t with armed := false, st := .ready, holder := 0 } else t) with
    owner := Option.none, pin0 := false, pin1 := false, pinT := false, pinE := false, copyAt := Option.none
    holder := if t.st == .filling && !t.armed || t.st == .draining then 1 else 0 }

/-- The save may complete: the results awaited have landed, no step of the seat runs, and its writes to other devices have been
performed (R13, R170, R180). -/
def CoreSt.saveReady (x : CoreSt) (k : SeatId) : Bool :=
  let q := x.seatAt k
  q.st == .out && q.vres.all Vres.kept
    && [0, 1, 2].all fun n => (x.mine n k).all fun p => !(p.2.st == .running && p.2.busy) && p.2.wout.isEmpty && p.2.recs.isEmpty

/-- What the checkpoint of a seat holds, with the BARW requests withdrawn at their units. -/
def State.saveOf (s : State) (c : CoreId) (k : SeatId) : Saved :=
  let x := s.core c
  let q := x.seatAt k
  let ents (n : Nat) : List Entry := (x.oldest n k).map fun p => p.2.saved
  let slots := x.granted k
  let waits := s.clusters.flatMap fun p =>
    (p.2.bwait ++ p.2.bmsg.filter fun m => m.kind == .wait).filter fun m => m.core == c && m.seat == k
  { seat := { q.phase1 with fly := [], hold := none, grant := false, npc := none, pend := q.pend.map (Cause.saved x k) }
    rows := (x.vrf.filter fun p => bWbase q.billet ≤ p.1 && p.1 < bWbase q.billet + bW q.billet).map fun p =>
      (p.1 - bWbase q.billet, p.2)
    tiles := slots.map fun n => (n, (x.tile n).saved)
    trows := x.gran.filter fun p => slots.contains (p.1 / 16)
    h0 := ents 0, h1 := ents 1, te := ents 2
    ovq := x.ovq.filter fun w => evSeat w = k
    bwait := waits }

/-- Entries of a seat freed because a checkpoint has saved them: pins and leave released, slots as they are (R180, R235). -/
def CoreSt.freeEntries (x : CoreSt) (k : SeatId) (now : Nat) : CoreSt :=
  ([0, 1, 2].foldl (fun (x : CoreSt) n =>
    (x.mine n k).foldl (fun (x : CoreSt) (p : Nat × Entry) =>
      let x := ((x.leaveUnit n p.2 now).abandon (p.2.unit n)).pinAll (p.2.pinUnit n) false p.2.pins
      x.setQueue n ((x.queue n).del p.1)) x) x).promote now

/-- Barrier records of an instance taken from their units, with corners counted from that of the rectangle (R268). -/
def State.takeBars (s : State) (d : DieId) (n : Nat) : State :=
  match s.instAt d n with
  | none => s
  | some i =>
    let mine := (s.clusters.filter fun (p : Nat × ClusterSt) => p.1 / 8 = d.toNat).flatMap fun p => p.2.bars.filter fun r => r.inst = n
    let s := { s with clusters := s.clusters.map fun (p : Nat × ClusterSt) =>
      if p.1 / 8 = d.toNat then (p.1, { p.2 with bars := p.2.bars.filter fun r => r.inst != n }) else p }
    s.modInst d n fun j => { j with bars := mine.map fun r => { r with cx := r.cx - i.x0, cy := r.cy - i.y0 } }

/-- Every strand of the instance that has not ended has been saved: it is SUSPENDED (R317), or, with its task retired, ended
(R336). -/
def State.suspend (s : State) (d : DieId) (n : Nat) : State :=
  match s.instAt d n with
  | none => s
  | some i =>
    if i.seats.isEmpty && !i.saved.isEmpty && i.st != .suspended then
      let i' := { i with st := .suspended, nckpt := i.nckpt + 1, cut := none, prqAt := none }
      (s.takeBars d n).modInst d n fun j =>
        if i.shed || (i.quar.isSome && tdPlace i.tsk.desc = 0) then i'.discard
        else { i' with bars := j.bars }
    else s

/-- A range of virtual addresses written with contents that no rule states (R168, log 55). -/
def State.blurVa (s : State) (w : Who) (va n : Nat) : State :=
  match s.span w .write va n with
  | .ok l => l.foldl (fun (s : State) g => if isFab g.xl.pa then s else s.blur g.xl.pa g.len) s
  | .bad _ => s

/-- The checkpoint area of a seat written (R168, R311, log 55). -/
def State.writeArea (s : State) (c : CoreId) (k : SeatId) : State :=
  let b := (s.seat c k).billet
  match s.instAt (coreDie c) (bInst b) with
  | none => s
  | some i => s.blurVa { s.whoSeat c k with user := false } (bCkpt b).toNat (tdCksz i.tsk.desc)

/-- The save of a seat is complete: its area is written, it is EMPTY and its instance holds the checkpoint (R168, R317). -/
def State.saveDone (s : State) (c : CoreId) (k : SeatId) : State :=
  let q := s.seat c k
  let v := s.saveOf c k
  let s := ((s.writeArea c k).dropWaits c k).modCore c fun x => (x.freeEntries k s.cyc).emptySeat k
  (s.modInst (coreDie c) (bInst q.billet) fun i =>
    { i with saved := i.saved.put q.sidx v, seats := i.seats.del q.sidx, fin := s.cyc }).suspend (coreDie c) (bInst q.billet)

/-! ### The writing of a billet (R32, R167, R168) -/

/-- A strand that a billet would start or resume has not been bound before, or has been saved (R317). -/
def InstSt.unbound (i : InstSt) (ix : Nat) : Bool := (i.seats.find ix).isNone && !i.ended.contains ix

/-- A billet written into a seat (R166 to R168, R322): nothing happens unless the seat is EMPTY and V = 1; one that breaks a
condition is refused; one for a core that takes no new strand (R254), for a seat kept for another (R328), for a core where the task's
resident slot is not installed (R387), after the supply warning (R397), or for an instance, strand or slots that the dispatcher does not
have, is not written. -/
def State.writeBillet (s : State) (c : CoreId) (k : SeatId) (b : Billet) : State :=
  if (s.seat c k).st != .empty || !bV b || s.removed c || s.pkg.supply || s.keptFrom c k (bInst b) then s
  else match (s.core c).refuses k b with
    | some n => s.refuseEvent c k n
    | none => match s.instAt (coreDie c) (bInst b) with
      | none => s
      | some i => match i.index i.tsk.desc c with
        | none => s
        | some ix =>
          if !i.unbound ix || i.st == .ended || !s.residentAt i.tsk.desc c then s
          else if bMode b then
            match i.saved.find ix with
            | none => s
            | some v => match s.pickSlots c i.tsk.desc (some (v.tiles.map Prod.fst)) with
              | none => s
              | some _ => ((s.restoreBars (coreDie c) (bInst b) i).resumeStrand c k b i ix v).modInst (coreDie c) (bInst b)
                  fun i => { i with st := if i.st == .suspended then .ready else i.st }
          else match s.pickSlots c i.tsk.desc none with
            | none => s
            | some l => if i.saved.isEmpty then s.startStrand c k b i ix l else s

/-! ### Requests (R166, R328, R329) and the choice of the seat (R323) -/

/-- A pre-emption request written for an occupied seat (R166, R328). -/
def State.request (s : State) (c : CoreId) (k : SeatId) (v : Nat) : State :=
  if (s.seat c k).st == .empty then s else s.modCore c fun x => x.writePrq k v s.cyc

/-- A request for every strand of an instance that is bound. -/
def State.requestAll (s : State) (d : DieId) (n v : Nat) : State :=
  match s.instAt d n with
  | none => s
  | some i => i.seats.foldl (fun s (p : Nat × (CoreId × SeatId)) => s.request p.2.1 p.2.2 v) s

/-- 2^KWL of a die: how long a request may wait (R309, R329). -/
def State.kwl (s : State) (d : DieId) : Nat := 2 ^ bits (s.die d).dcfg 39 35

/-- A request of a kind has waited longer than 2^KWL ck (R329). -/
def State.overdue (s : State) (c : CoreId) (k : SeatId) (v : Nat) : Bool :=
  let x := s.core c
  ctlPrq x.ctl k = v && match x.prq.find k.toNat with
    | some t => t + s.kwl (coreDie c) < s.cyc
    | none => false

/-- Absolute deadline of an instance (R310, R318). -/
def InstSt.due (i : InstSt) : Nat := if i.dlrel then i.release + i.deadline else i.deadline

/-- A seat may be designated: RESIDENT or ISSUING, its instance READY, and not held by a cut (R323). -/
def State.eligible (s : State) (c : CoreId) (k : SeatId) : Bool :=
  let x := s.core c
  let q := x.seatAt k
  (q.st == .resident || q.st == .issuing) && !x.cut.getLsbD (4 + k.toNat)
    && match s.instAt (coreDie c) (bInst q.billet) with
      | some i => i.st == .ready
      | none => false

/-- Of two seats the one designated first: earliest deadline, then earlier release, then lower instance number (R323). -/
def State.sooner (s : State) (c : CoreId) (j k : SeatId) : Bool :=
  let key (k : SeatId) : Nat × Nat × Nat :=
    let n := bInst (s.seat c k).billet
    match s.instAt (coreDie c) n with
    | some i => (i.due, i.release, n)
    | none => (0, 0, n)
  let a := key j
  let b := key k
  a.1 < b.1 || (a.1 = b.1 && (a.2.1 < b.2.1 || (a.2.1 = b.2.1 && a.2.2 < b.2.2)))

/-- The first seat of a list in that order. -/
def State.soonest (s : State) (c : CoreId) : List SeatId → Option SeatId
  | [] => none
  | k :: r => match s.soonest c r with
    | none => some k
    | some m => if s.sooner c m k then some m else some k

/-- Length of a share window of a die (R309). -/
def State.shareLen (s : State) (d : DieId) : Nat := 2 ^ bits (s.die d).dcfg 34 30

/-- The seat that the dispatcher designates on a core (R323): the background seat of earliest deadline while background work
has had less than its share of the window so far, else the eligible seat of earliest deadline. -/
def State.choice (s : State) (c : CoreId) : Option SeatId :=
  let el := seatIds.filter (s.eligible c)
  let bg := el.filter fun k => bClass (s.seat c k).billet = 2
  let gone := s.cyc % s.shareLen (coreDie c)
  let short := (s.core c).bgtime * 1024 < bits (s.die (coreDie c)).dcfg 29 20 * gone
  if short && !bg.isEmpty then s.soonest c bg else s.soonest c el

end Sys2Proof.Machine
end

