-- ==== Sys2Proof/Machine/Admit.lean ====
section
/-!
DEFINITION. Admission (R324, R325), grades (R333 to R335), the retirement of tasks and the removal of cores (R254, R336), and
the completion of instances (R317, R320, R321).
-/
namespace Sys2Proof.Machine

/-! ### Sessions and grades -/

/-- A session's record. -/
def State.sess (s : State) (n : Nat) : SessSt := s.pkg.sess.val ⟨0, 0, 0, 0, 0, 0, 0, 0⟩ n

/-- A session changed. -/
def State.modSess (s : State) (n : Nat) (f : SessSt → SessSt) : State :=
  s.modPkg fun p => { p with sess := p.sess.put n (f (s.sess n)) }

/-- A task as the test of R325 counts it. -/
structure Adm where
  d : DieId
  t : TaskSt
  deriving DecidableEq, Repr

/-- Every admitted task as often as it counts: a one-shot task once for each instance that has not completed, with that instance's
relative deadline (R324). -/
def State.admitted (s : State) : List Adm :=
  s.dies.flatMap fun p => p.2.tasks.flatMap fun q =>
    if q.2.oneShot then
      (p.2.insts.filter fun i => i.2.task = q.1 && i.2.done.isNone).map fun i => ⟨BitVec.ofNat 2 p.1, i.2.tsk⟩
    else [⟨BitVec.ofNat 2 p.1, q.2⟩]

/-- Number of a task's session. -/
def Adm.sess (a : Adm) : Nat := tdSession a.t.desc

/-- The terms of a task apply on a core (R324). -/
def Adm.on (a : Adm) (c : CoreId) : Bool :=
  let d := a.t.desc
  coreDie c == a.d && (tdPlace d = 1 ||
    (tdRx d ≤ coreX c && coreX c < tdRx d + tdW d && tdRy d ≤ coreY c && coreY c < tdRy d + tdH d))

/-- The cores of a die. -/
def dieCores (d : DieId) : List CoreId := (List.range 64).map fun i => BitVec.ofNat 8 (d.toNat * 64 + i)

/-- The core at the corner of a task's rectangle. -/
def Adm.corner (a : Adm) : CoreId := mkCore a.d (tdRx a.t.desc) (tdRy a.t.desc)

/-- The lowest offered grade at or above a grade (R333). -/
def gradeUp (d : List Byte) (g : Nat) : Option Nat := (List.range 5).find? fun h => g ≤ h && tdEntry d h != 0

/-- The next grade above one that some task of a session offers (R335). -/
def nextGrade (l : List Adm) (n g : Nat) : Option Nat :=
  (List.range 5).find? fun h => g < h && l.any fun a => a.sess = n && tdEntry a.t.desc h != 0

/-- The next grade below one that some task of a session offers. -/
def lastGrade (l : List Adm) (n g : Nat) : Option Nat :=
  ((List.range 5).reverse).find? fun h => h < g && l.any fun a => a.sess = n && tdEntry a.t.desc h != 0

/-- A session's grade changed, with its GRADE event at the cluster of the corner of its first task (R267, R334). -/
def State.setGrade (s : State) (l : List Adm) (n g : Nat) : State :=
  let old := (s.sess n).grade
  let s := s.modSess n fun e => { e with grade := g, held := 0 }
  match l.find? fun a => a.sess = n with
  | none => s
  | some a => s.stewPush a.d (clusterOf (coreX a.corner) (coreY a.corner))
      (stewMsg 0x83 0 (coreField a.corner) 0 s.cyc (leBytes 2 n ++ leBytes 1 old ++ leBytes 1 g))

/-! ### The density test (R324, R325) -/

/-- Sum of two fractions. -/
def fracAdd (a b : Nat × Nat) : Nat × Nat := (a.1 * b.2 + b.1 * a.2, a.2 * b.2)

/-- Largest RAF among the cores on which a task's terms apply. -/
def State.rafOf (s : State) (a : Adm) : Nat :=
  ((dieCores a.d).filter a.on).foldl (fun m c => max m (s.core c).raf.toNat) 0

/-- K_i, the checkpoint cost in ck (R324). -/
def tdK (d : List Byte) : Nat := 64 + tdVwin d + 16 * tdTiles d

/-- C_i of a task at a grade (R324). -/
def State.cost (s : State) (a : Adm) (g : Nat) : Nat :=
  estimate (rttAt (a.t.rtt.val [] g) 0) (s.rafOf a) + 38 + (if tdMay a.t.desc 1 then 2 * tdK a.t.desc else 0)

/-- min(D_i, P_i) in ns (R324). -/
def Adm.sep (a : Adm) : Nat :=
  let d := a.t.rel
  max 1 (if tdMinsep a.t.desc = 0 then d else min d (tdMinsep a.t.desc))

/-- Density of a task at its session's grade: 0 where it offers none (R324, R335). -/
def State.density (s : State) (a : Adm) : Nat × Nat :=
  match gradeUp a.t.desc (s.sess a.sess).grade with
  | none => (0, 1)
  | some g => (5 * s.cost a g, 4 * a.sep)

/-- The blocking term of a core (R324). -/
def State.blocking (s : State) (l : List Adm) (c : CoreId) : Nat × Nat :=
  let act := l.filter fun a => tdClass a.t.desc < 2
  match act with
  | [] => (0, 1)
  | a :: r =>
    let b := l.foldl (fun m a => max m (tdMaxstep a.t.desc)) 0
    (5 * (estimate b (s.core c).raf.toNat + 6), 4 * r.foldl (fun m a => min m a.sep) a.sep)

/-- A task is the shadow of a mirrored session's action task: what it needs stays reserved on the relay die (R356, R361). -/
def State.isShadow (s : State) (a : Adm) : Bool :=
  let e := s.sess a.sess
  tdAction a.t.desc && e.statelen != 0 && a.d == e.prim ^^^ 1 && tdTask a.t.desc = e.shadow.toNat

/-- The demand of the PREBIND tasks, and of those that are reserved, and the largest demand of the others fit a capacity (R325,
R361). -/
def fits (l : List (Adm × Bool)) (f : List Byte → Nat) (cap : Nat) : Bool :=
  sum ((l.filter Prod.snd).map fun a => f a.1.t.desc)
    + (l.filter fun a => !a.2).foldl (fun m a => max m (f a.1.t.desc)) 0 ≤ cap

/-- The test of R325 on one core, with every sum at most k tenths of its bound (R334). -/
def State.coreTest (s : State) (l : List Adm) (k : Nat) (c : CoreId) : Bool :=
  let l := l.filter fun a => a.on c
  let cfg := (s.die (coreDie c)).dcfg
  let total (m : Nat) : Nat × Nat :=
    ((l.filter fun a => tdClass a.t.desc < m).map s.density).foldl fracAdd (s.blocking l c)
  let ok (f : Nat × Nat) (bound : Nat) : Bool := f.1 * 10240 ≤ bound * k * f.2
  let m := l.map fun a => (a, tdPrebind a.t.desc || s.isShadow a)
  ok (total 1) (bits cfg 9 0) && ok (total 2) (bits cfg 19 10) && fits m tdVwin 2048 && fits m tdTiles 256
    && fits m tdQh0 16 && fits m tdQh1 16 && fits m tdQt 32

/-- The cores that fail the test. -/
def State.failing (s : State) (l : List Adm) (cs : List CoreId) : List CoreId := cs.filter fun c => !s.coreTest l 10 c

/-- Sessions with a task on one of the cores (R335). -/
def sessionsOn (l : List Adm) (cs : List CoreId) : List Nat :=
  l.foldl (fun m a => if cs.any a.on then insertNat m a.sess else m) []

/-- Tokens of a session on some cores, and its longest relative deadline there (R335). -/
def tokensOn (l : List Adm) (cs : List CoreId) (n : Nat) : Nat :=
  sum ((l.filter fun a => a.sess = n && cs.any a.on).map fun a => tdTokens a.t.desc)
def longestOn (l : List Adm) (cs : List CoreId) (n : Nat) : Nat :=
  (l.filter fun a => a.sess = n && cs.any a.on).foldl (fun m a => max m a.t.rel) 0

/-- Session m comes before n in the order of R335. -/
def before (l : List Adm) (cs : List CoreId) (m n : Nat) : Bool :=
  let a := tokensOn l cs m
  let b := tokensOn l cs n
  let p := longestOn l cs m
  let q := longestOn l cs n
  a < b || (a = b && (q < p || (p = q && n < m)))

/-- The first session of a list in that order. -/
def firstSess (l : List Adm) (cs : List CoreId) : List Nat → Option Nat
  | [] => none
  | n :: r => match firstSess l cs r with
    | none => some n
    | some m => if before l cs m n then some m else some n

/-- Grades raised one at a time until the test passes on the cores, or no session concerned can be raised (R335). The answer
tells whether it passes. -/
def State.raise (s : State) (l : List Adm) (cs : List CoreId) : Nat → State × Bool
  | 0 => (s, false)
  | fuel + 1 =>
    let bad := s.failing l cs
    if bad.isEmpty then (s, true)
    else
      match firstSess l bad ((sessionsOn l bad).filter fun n => (nextGrade l n (s.sess n).grade).isSome) with
      | none => (s, false)
      | some n => match nextGrade l n (s.sess n).grade with
        | none => (s, false)
        | some g => (s.setGrade l n g).raise l cs fuel

/-- Enough raises for every session of a list: each has at most four. -/
def raiseFuel (l : List Adm) : Nat := 4 * l.length + 1

/-! ### The end of instances and of tasks -/

/-- Slots, seats and barriers that an instance never used again: its strands bound leave their seats (R317). -/
def State.evict (s : State) (d : DieId) (n : Nat) : State :=
  match s.instAt d n with
  | none => s
  | some i => i.seats.foldl (fun s (p : Nat × (CoreId × SeatId)) => s.killSeat p.2.1 p.2.2) s

/-- An instance that has not started ends with F_SHED and VALUE 0 (R317). -/
def State.shedInst (s : State) (d : DieId) (n : Nat) (pred : Bool) : State :=
  (s.evict d n).modInst d n fun i => { i with st := .ended, shed := true, pred := i.pred || pred, top := 0, fin := s.cyc }

/-- An instance ends because its task is retired: with F_QUAR on a core's removal, else with F_SHED (R336). Its bound strands
are killed. -/
def State.endInst (s : State) (d : DieId) (n : Nat) (quar : Option Word) : State :=
  let s := s.modInst d n fun i =>
    let i := { i with quar := quar.orElse fun _ => i.quar, shed := i.shed || quar.isNone }
    if i.seats.isEmpty then { i.discard with fin := s.cyc } else i
  if quar.isNone then s.requestAll d n 1 else s

/-- The grade of a session whose last task has retired is G0 (R334). -/
def State.idleSess (s : State) (l : List Adm) (n : Nat) : State :=
  if s.admitted.any (fun a => a.sess = n) || (s.sess n).grade = 0 then s else s.setGrade l n 0

/-- The shadow task that is admitted with a mirrored session's action task: that of its number on the relay die, or where none has been
launched the same task there (R356, R361, log 91). -/
def State.shadowOf (s : State) (a : Adm) : Option Adm :=
  let e := s.sess (tdSession a.t.desc)
  if tdAction a.t.desc && e.statelen != 0 && a.d == e.prim then
    let d := a.d ^^^ 1
    some ⟨d, ((s.die d).tasks.find e.shadow.toNat).getD
      { a.t with desc := setBytes (setBytes a.t.desc 3 [d.setWidth 8]) 8 (leBytes 2 e.shadow.toNat) }⟩
  else none

/-- A task retired from the task table, with its shadow. -/
def State.retire (s : State) (d : DieId) (n : Nat) : State :=
  match (s.die d).tasks.find n with
  | none => s
  | some t =>
    let s' := s.modDie d fun x => { x with tasks := x.tasks.del n }
    let s' := match s.shadowOf ⟨d, t⟩ with
      | none => s'
      | some b => s'.modDie b.d fun x => { x with tasks := x.tasks.del (tdTask b.t.desc) }
    s'.idleSess [⟨d, t⟩] (tdSession t.desc)

/-- The task retired with its live instances (R336). -/
def State.retireAll (s : State) (d : DieId) (n : Nat) (quar : Option Word) : State :=
  let is := (s.die d).insts.filter fun p => p.2.task = n && p.2.done.isNone && p.2.st != .ended
  is.foldl (fun s p => s.endInst d p.1 quar) (s.retire d n)

/-- Tasks retired in the order of R335 until the test passes, each with its FAULT event (R336). -/
def State.shedTasks (s : State) (cs : List CoreId) : Nat → State
  | 0 => s
  | fuel + 1 =>
    let l := s.admitted
    let r := s.raise l cs (raiseFuel l)
    if r.2 then r.1
    else
      let s := r.1
      let bad := s.failing l cs
      match firstSess l bad (sessionsOn l bad) with
      | none => s
      | some n => match l.find? fun a => a.sess = n && bad.any a.on with
        | none => s
        | some a => ((s.retireAll a.d (tdTask a.t.desc) none).faultEvent a.corner fShed 0 (tdTask a.t.desc) 0).shedTasks cs fuel

/-- The test run again on some cores after a removal or a rise of RAF (R334, R336). -/
def State.retest (s : State) (cs : List CoreId) : State := s.shedTasks cs (s.admitted.length + 1)

/-! ### Removing a core (R254, R336) -/

/-- The policy for a seat of a core that leaves the admitted capacity (R336): a checkpoint, a drain, which in a quarantine is
a kill at the next STEP, or a kill, each only where the task permits it. `cut` says whether a checkpoint may be tried. -/
def State.policySeat (s : State) (c : CoreId) (k : SeatId) (quar cut : Bool) : State :=
  let d := coreDie c
  let n := bInst (s.seat c k).billet
  match s.instAt d n with
  | none => s
  | some i =>
    let t := i.tsk.desc
    if cut && tdMay t 1 then
      if tdStrands t = 1 then s.request c k 2
      else if i.cutReq || i.cut.isSome then s.modInst d n fun i => { i with removal := true }
      else s.modInst d n fun i => { i with cutReq := true, removal := true, prqAt := some s.cyc }
    else if tdMay t 2 then s.request c k (if quar then 1 else 3)
    else if tdMay t 0 then s.request c k 1
    else s

/-- Every occupied seat of a core under its task's policy. -/
def State.policies (s : State) (c : CoreId) (quar : Bool) : State :=
  (s.core c).occupied.foldl (fun s k => s.policySeat c k quar true) s

/-- Cores of a die on which the test counts. -/
def State.countedCores (s : State) (d : DieId) : List CoreId := (dieCores d).filter fun c => !s.removed c

/-- The admitted capacity loses a core: tasks placed on it are retired, and the test is run again (R336). -/
def State.loseCore (s : State) (c : CoreId) (word : Option Word) : State :=
  let d := coreDie c
  let ts := (s.die d).tasks.filter fun p => tdPlace p.2.desc = 0 && (⟨d, p.2⟩ : Adm).on c
  let s := ts.foldl (fun s p => s.retireAll d p.1 word) s
  s.retest (s.countedCores d)

/-- A core quarantined (R254, R336): F_QUAR recorded, its seats handled, the capacity reduced. On a core that has stopped no
seat can be saved, and each is recorded as killed. One with every seat EMPTY is OUT. -/
def State.quarantine (s : State) (c : CoreId) : State :=
  let x := s.core c
  if x.mstate == .quarantine || x.mstate == .out then s
  else
    let word := BitVec.ofNat 64 (coreField c)
    let s := ((s.modCore c fun x => { x with mstate := .quarantine }).marginEvent c).faultEvent c fQuar (coreField c) 0 0
    let s := if x.stopped then x.occupied.foldl (fun s k => s.killSeat c k) s else s.policies c true
    (s.loseCore c (some word)).outIfEmpty c

/-- A core leaves the admitted capacity otherwise, by a resize or withdrawn by the steward: its seats are handled, and the capacity
reduced (R278, R336). -/
def State.takeAway (s : State) (c : CoreId) : State :=
  (s.policies c false).loseCore c (some (BitVec.ofNat 64 (coreField c)))

/-- A core stopped by an uncorrectable error and quarantined (R191, R252). -/
def State.stopCore (s : State) (c : CoreId) : State :=
  (s.modCore c fun x => { x with stopped := true }).quarantine c

/-! ### Lowering grades (R334) -/

/-- Sessions in the reverse of the order of R335. -/
def lastSess (l : List Adm) (cs : List CoreId) : List Nat → Option Nat
  | [] => none
  | n :: r => match lastSess l cs r with
    | none => some n
    | some m => if before l cs n m then some m else some n

/-- The test passes with a session at a lower grade, every sum at most 0.9 of its bound. -/
def State.mayLower (s : State) (l : List Adm) (n : Nat) : Bool :=
  let e := s.sess n
  0 < e.grade && 8 ≤ e.held && match lastGrade l n e.grade with
    | none => false
    | some g =>
      let t := s.modSess n fun e => { e with grade := g }
      (l.filter fun a => a.sess = n).all fun a => ((t.countedCores a.d).filter a.on).all (t.coreTest l 9)

/-- Grades lowered one at a time at a window end (R334, R335). -/
def State.lower (s : State) (l : List Adm) : Nat → List Nat → State
  | 0, _ => s
  | fuel + 1, ns =>
    let cs := l.flatMap fun a => (dieCores a.d).filter a.on
    match lastSess l cs (ns.filter (s.mayLower l)) with
    | none => s
    | some n => match lastGrade l n (s.sess n).grade with
      | none => s
      | some g => (s.setGrade l n g).lower l fuel (ns.filter (· != n))

/-- A window end for the sessions whose first task has its corner on the core: each has held its grade one window more, and
those that may be lowered are (R334). -/
def State.lowerAt (s : State) (c : CoreId) : State :=
  let l := s.admitted
  let ns := (sessionsOn l (l.map Adm.corner)).filter fun n => match l.find? fun a => a.sess = n with
    | none => false
    | some a => a.corner == c
  let s := ns.foldl (fun s n => s.modSess n fun e => { e with held := e.held + 1 }) s
  s.lower l ns.length ns

/-! ### Dependences and triggers (R317 to R319) -/

/-- An instance's trigger has fired (R319). -/
def InstSt.fired (i : InstSt) : Bool := (List.range (tdStrands i.tsk.desc)).all fun j => i.trig.contains j

/-- An instance by its number, which tells its die (R308). -/
def State.instNo (s : State) (n : Nat) : Option InstSt := s.instAt (BitVec.ofNat 2 (n / 2 ^ 30)) n

/-- A dependence on an instance that is not live is met at once, for good (R318). -/
def State.liveDep (s : State) (d : Option (Nat × Bool)) : Option (Nat × Bool) := d.filter fun p => (s.instNo p.1).isSome

/-- The state of a dependence: met, failed, or neither (R317, R318). -/
def State.depMet (s : State) : Option (Nat × Bool) → Option Bool
  | none => some true
  | some (n, byTrig) => match s.instNo n with
    | none => some true
    | some p =>
      if byTrig then (if p.fired then some true else if p.done.isSome then some false else none)
      else if p.done.isNone then none
      else some (p.code = 0 || p.code = fDeadl)

/-- A dependence of an instance has failed. -/
def State.depFailed (s : State) (i : InstSt) : Bool := s.depMet i.dep0 = some false || s.depMet i.dep1 = some false

/-- Waiting instances with a failed dependence end with F_SHED and PRED (R317). -/
def State.shedFailed (s : State) : State :=
  let ws := s.dies.flatMap fun p => (p.2.insts.filter fun i => i.2.st == .waiting && s.depFailed i.2).map fun i => (p.1, i.1)
  ws.foldl (fun s p => s.shedInst (BitVec.ofNat 2 p.1) p.2 true) s

/-- Waiting instances whose release is fixed at or after an absolute deadline end with F_SHED (R317). -/
def InstSt.tooLate (i : InstSt) : Bool := !i.dlrel && !i.arrival && i.deadline ≤ i.release

end Sys2Proof.Machine
end

