-- ==== Sys2Proof/Machine/Launch.lean ====
section
/-!
DEFINITION. Launches (R310 to R316), the binding of instances (R322), the choice of victims (R326 to R328) and the end of an
instance (R317, R320, R321).
-/
namespace Sys2Proof.Machine

/-- A class of a die that a resize under way takes ways from (R278). -/
def DieSt.losing (x : DieSt) (c : Nat) : Bool :=
  match x.cwmNew with
  | none => false
  | some m => (x.cwm.val 0 c &&& ~~~ m.val 0 c) != 0

/-! ### Grants of a function (R379) -/

/-- A function holds a number of a kind of resource. -/
def State.holds (s : State) (f : FuncId) (k : ResKind) (n : Nat) : Bool :=
  (s.func f).grants.any fun g => g.kind == k && g.lo.toNat ≤ n && n ≤ g.hi.toNat

/-- Corners of a grant of cores: x, y and die in bytes 0, 1 and 2 of its two words (log 17). -/
def gx (w : Word) : Nat := bits w 7 0
def gy (w : Word) : Nat := bits w 15 8
def gd (w : Word) : Nat := bits w 23 16

/-- A function holds every core of a rectangle. -/
def State.holdsRect (s : State) (f : FuncId) (d : DieId) (x y w h : Nat) : Bool :=
  (List.range w).all fun i => (List.range h).all fun j => (s.func f).grants.any fun g =>
    g.kind == .cores && gd g.lo = d.toNat && gx g.lo ≤ x + i && x + i ≤ gx g.hi && gy g.lo ≤ y + j && y + j ≤ gy g.hi

/-- The aligned rectangles of a task's shape on its die, in ascending (y0, x0) (R322). -/
def rects (d : List Byte) : List (Nat × Nat) :=
  if tdPlace d = 0 then [(tdRx d, tdRy d)]
  else (List.range (8 / tdH d)).flatMap fun j => (List.range (8 / tdW d)).map fun i => (i * tdW d, j * tdH d)

/-! ### The launch record (R314) -/

def lrDesc (r : List Byte) : Nat := field r 0 8
def lrParam (r : List Byte) : Nat := field r 8 8
def lrRelease (r : List Byte) : Nat := field r 16 8
def lrDeadline (r : List Byte) : Nat := field r 24 8
def lrDep (r : List Byte) (i : Nat) : Nat := field r (32 + 4 * i) 4
def lrDepk (r : List Byte) : Nat := field r 40 1
def lrGmin (r : List Byte) : Nat := field r 41 1
def lrFlags (r : List Byte) : Nat := field r 42 1
def lrCrec (r : List Byte) : Nat := field r 48 8
def lrXb (r : List Byte) (i : Nat) : Word := BitVec.ofNat 64 (field r (64 + 8 * i) 8)

/-- Release on arrival. -/
def onArrival : Nat := 2 ^ 64 - 1

/-- The record keeps to R314. -/
def lrOk (r : List Byte) : Bool :=
  lrDesc r % 256 = 0 && lrParam r % 64 = 0 && lrDepk r < 4 && lrGmin r ≤ 4 && lrFlags r < 2 && field r 43 5 = 0
    && lrCrec r % 64 = 0 && field r 56 8 = 0

/-- The descriptor keeps to R264, R310 and R311. -/
def tdOk (d : List Byte) : Bool :=
  let ckpt := tdMay d 1
  tdVer d = 1 && field d 1 1 < 32 && tdClass d ≤ 2 && tdDie d ≤ 3 && field d 6 1 &&& 0xCC = 0
    && tdRx d % tdW d = 0 && tdRy d % tdH d = 0 && tdRx d + tdW d ≤ 8 && tdRy d + tdH d ≤ 8
    && field d 7 1 != 0 && field d 7 1 < 8 && tdTask d < 4096 && tdSession d < 8192 && tdL2c d ≤ 13 && tdHsc d ≤ 3
    && tdPlace d ≤ 1 && (tdPlace d = 0 || (tdRx d = 0 && tdRy d = 0))
    && tdVwin d % 64 = 0 && 64 ≤ tdVwin d && tdVwin d ≤ 2048 && tdTiles d ≤ 256 && tdQh0 d ≤ 16 && tdQh1 d ≤ 16 && tdQt d ≤ 32
    && (tdFlag d 4 || tdResslot d = 0) && tdL1w d < 4096 && [0, 1, 2].all (fun i => tdPace d i < 4096)
    && tdDeadline d != 0 && tdTvec d % 32 = 0
    && tdCkpt d % 4096 = 0 && (ckpt || tdCkpt d = 0) && tdCksz d % 4096 = 0
    && 1 ≤ tdMaxstep d && tdMaxstep d ≤ 2 ^ 24 && tdCrec d % 64 = 0
    && tdTslot d ≤ 256 && (tdTslot d = 0 || tdTslot d + tdTiles d ≤ 257)
    && field d 94 2 = 0 && field d 176 80 = 0
    && (List.range 5).all (fun g => tdEntry d g % 32 = 0 && tdRtt d g % 64 = 0)
    && tdEntry d 0 != 0
    && (!ckpt || 65536 + 1024 * tdVwin d + 16384 * tdTiles d ≤ tdCksz d)

/-- Whose the accesses for a launch are: the launching function's, with the classes of the strand or of the porter (R315). -/
def State.whoLaunch (s : State) (r : LaunchReq) : Who :=
  ⟨r.func, r.asn, !r.priv, [], none, match r.asker with
    | .strand c k _ => s.clsSeat c k
    | _ => (Who.ofFunc r.func).cl⟩

/-- Bytes read for the dispatcher as a relaxed load, or the fault: requests leave for what another device holds, and its answer to the
read at the address is among those given (R315, R316). -/
def State.readFor (s : State) (far : FarReads) (w : Who) (va n : Nat) : State × Except XFault (List Byte) :=
  match s.span w .read va n with
  | .bad f => (s, .error f)
  | .ok l => match s.farRead far va w.user l with
    | (t, .error f) => (t, .error f)
    | (t, .ok b) => (t, .ok (b.map Prod.fst))

/-- A remaining-time table read: its entries, or a breach of R312. -/
def State.readRtt (s : State) (far : FarReads) (w : Who) (va : Nat) : State × Except XFault (Option (List Imm32)) :=
  match s.readFor far w va 8 with
  | (s, .error f) => (s, .error f)
  | (s, .ok h) =>
    let n := field h 0 4
    if n = 0 || 4096 < n || field h 4 4 != 0 then (s, .ok none)
    else match s.readFor far w (va + 8) (4 * n) with
      | (s, .error f) => (s, .error f)
      | (s, .ok b) => (s, .ok (some ((List.range n).map fun i => BitVec.ofNat 32 (field b (4 * i) 4))))

/-- The tables of the offered grades: a fault ends the reading, and a breach is told at the end. -/
def State.readTables (s : State) (far : FarReads) (w : Who) (d : List Byte) :
    List Nat → State × Except XFault (Option (Tab (List Imm32)))
  | [] => (s, .ok (some []))
  | g :: r =>
    if tdEntry d g = 0 then s.readTables far w d r
    else match s.readRtt far w (tdRtt d g) with
      | (s, .error f) => (s, .error f)
      | (s, .ok t) => match s.readTables far w d r with
        | (s, .error f) => (s, .error f)
        | (s, .ok l) => (s, .ok (match t, l with
          | some t, some l => some ((g, t) :: l)
          | _, _ => none))

/-- What was read for a launch: a task already admitted under the descriptor's address, with its die, or a new one (R311). -/
inductive LaunchTask where
  | known (d : DieId) (t : TaskSt)
  | fresh (t : TaskSt)

/-- The task admitted under a descriptor address of an address space (R311). -/
def State.knownTask (s : State) (f : FuncId) (asn : Bits12) (va : Word) : Option LaunchTask :=
  (s.dies.findSome? fun p => (p.2.tasks.find? fun q => q.2.func == f && q.2.asn == asn && q.2.descVa == va).map fun q =>
    .known (BitVec.ofNat 2 p.1) q.2)

/-- What a launch has read: its record and task, the fault of a failed read (reason 1), or a breach (reason 2). -/
inductive LaunchRead where
  | ok (rec : List Byte) (t : LaunchTask)
  | unreadable (f : XFault)
  | breach

/-- The launch record: that of a packet, or read for a strand. -/
def State.readRec (s : State) (far : FarReads) (w : Who) (r : LaunchReq) : State × Except XFault (List Byte) :=
  match r.record with
  | some b => (s, .ok b)
  | none => s.readFor far w r.va.toNat 128

/-- The record, the descriptor and the tables read (R311, R315, R316). -/
def State.readLaunch (s : State) (far : FarReads) (r : LaunchReq) : State × LaunchRead :=
  let w := s.whoLaunch r
  match s.readRec far w r with
  | (s, .error f) => (s, .unreadable f)
  | (s, .ok rec) =>
    let va := BitVec.ofNat 64 (lrDesc rec)
    match s.knownTask r.func r.asn va with
    | some t => (s, if lrOk rec then .ok rec t else .breach)
    | none => match s.readFor far w va.toNat 256 with
      | (s, .error f) => (s, .unreadable f)
      | (s, .ok d) => match s.readTables far w d (List.range 5) with
        | (s, .error f) => (s, .unreadable f)
        | (s, .ok none) => (s, .breach)
        | (s, .ok (some t)) =>
          (s, if lrOk rec && tdOk d then
              .ok rec (.fresh { descVa := va, desc := d, func := r.func, asn := r.asn, rtt := t, lastRel := none,
                                oneShot := tdMinsep d = 0, rel := tdDeadline d })
            else .breach)

/-- Release of a launch where it is known: absolute, or the ptime of the reading; none on arrival (R314, R318). -/
def launchRelease (rec d : List Byte) (now : Nat) : Option Nat :=
  if lrRelease rec = onArrival then none
  else if lrRelease rec != 0 then some (lrRelease rec)
  else if tdRelease d != 0 then some (tdRelease d)
  else some now

/-- Deadline value of a launch, read under DLREL (R314). -/
def launchDeadline (rec d : List Byte) : Nat := if lrDeadline rec = 0 then tdDeadline d else lrDeadline rec

/-- Relative deadline that admission takes for a task: for an absolute one from the release, or from now where the release is not
known (R324). -/
def relDeadline (rec d : List Byte) (now : Nat) : Nat :=
  if tdDlrel d then launchDeadline rec d else launchDeadline rec d - (launchRelease rec d now).getD now

/-- The rectangle, the classes and the session of a task are granted to its function (R316, R379). -/
def State.launchGranted (s : State) (f : FuncId) (die : DieId) (d : List Byte) : Bool :=
  (rects d).all (fun p => s.holdsRect f die p.1 p.2 (tdW d) (tdH d)) && s.holds f .l2class (tdL2c d)
    && s.holds f .hbmClass (tdHsc d) && s.holds f .session (tdSession d)

/-- The reason for which a launch that was read is refused before admission, in the order of R316: 3, 6, 7, 8, 4. -/
def State.launchReason (s : State) (r : LaunchReq) (rec : List Byte) (die : DieId) (t : TaskSt) (fresh : Bool) : Option Nat :=
  let d := t.desc
  let now := s.ptimeAt s.cyc
  let x := s.die die
  if tdPlv d && !r.priv then some 3
  else if !s.launchGranted r.func die d then some 6
  else if !tdDlrel d && (match launchRelease rec d now with
      | some rel => launchDeadline rec d ≤ rel
      | none => false) then some 7
  else if fresh && (x.tasks.find (tdTask d)).isSome then some 8
  else if (fresh && 4096 ≤ x.tasks.length) || 8192 ≤ x.insts.length then some 4
  else none

/-- Cores concerned by an admission: those of the task, and for an action task of a mirrored session those of its shadow on the
relay die (R325, R361). -/
def State.concerned (s : State) (l : List Adm) (a : Adm) : List CoreId :=
  let own := (dieCores a.d).filter a.on
  let e := s.sess a.sess
  if tdAction a.t.desc && e.statelen != 0 then
    match l.find? fun b => b.d == a.d ^^^ 1 && tdTask b.t.desc = e.shadow.toNat with
    | some b => own ++ (dieCores b.d).filter b.on
    | none => own
  else own

/-- Admission of a task (R324, R325, R335): the state with the grades raised, and the instances that its first release waits for;
none where it fails with every session concerned at its top. A task placed on a core that is removed is not admitted; an action task of a
mirrored session is admitted with its shadow (R361). -/
def State.admission (s : State) (a : Adm) : Option (State × List Nat) :=
  let l := s.admitted ++ [a] ++ match s.shadowOf a with
    | none => []
    | some b => if s.admitted.contains b then [] else [b]
  if tdPlace a.t.desc = 0 && ((dieCores a.d).filter a.on).any s.removed then none
  else
    let r := s.raise l ((s.concerned l a).filter fun c => !s.removed c) (raiseFuel l)
    if !r.2 then none
    else
      let up (n : Nat) : Bool := (s.sess n).grade != (r.1.sess n).grade
      some (r.1, s.dies.flatMap fun p =>
        (p.2.insts.filter fun i => i.2.graded && i.2.done.isNone && up (tdSession i.2.tsk.desc)).map Prod.fst)

/-- A dependence of a launch record (R314). -/
def lrDepOf (rec : List Byte) (i : Nat) : Option (Nat × Bool) :=
  if lrDep rec i = 0xFFFFFFFF then none else some (lrDep rec i, (lrDepk rec).testBit i)

/-- The instance of an accepted launch (R314, R317, R318). -/
def newInst (r : LaunchReq) (rec : List Byte) (t : TaskSt) (now cyc : Nat) (wait : List Nat) (dep : Nat → Option (Nat × Bool)) : InstSt :=
  let d := t.desc
  { task := tdTask d, tsk := t, func := r.func, asn := r.asn, asker := r.asker, st := .waiting, grade := 0, graded := false,
    release := (launchRelease rec d now).getD 0, arrival := lrRelease rec = onArrival, deadline := launchDeadline rec d,
    dlrel := tdDlrel d, dep0 := dep 0, dep1 := dep 1, gmin := lrGmin rec, last := (lrFlags rec).testBit 0,
    param := BitVec.ofNat 64 (lrParam rec), crec := BitVec.ofNat 64 (if lrCrec rec = 0 then tdCrec d else lrCrec rec),
    xb := (List.range 8).foldl (fun (m : Tab Word) i => m.put i (lrXb rec i)) [], x0 := tdRx d, y0 := tdRy d,
    seats := [], trig := [], ended := [], killed := [], resumed := false, nckpt := 0, pred := false, forced := false,
    started := none, nest := none, quar := none, shed := false, top := 0, fin := cyc, saved := [], cut := none,
    cutReq := false, bars := [], done := none, code := 0, mir := false, committed := false, mfail := none, client := none, removal := false,
    wait := wait, prqAt := none }

/-! ### Binding (R322) -/

/-- The billet of a strand (R166, R322). -/
def billetOf (i : InstSt) (n ix wb : Nat) (resume : Bool) : Billet :=
  let d := i.tsk.desc
  BitVec.ofNat 512 (1 + (tdPlv d).toNat * 2 + tdClass d * 2 ^ 2 + i.grade * 2 ^ 4 + wb * 2 ^ 8 + tdVwin d / 64 * 2 ^ 16
    + tdQh0 d * 2 ^ 24 + tdQh1 d * 2 ^ 32 + tdQt d * 2 ^ 40 + tdL1w d * 2 ^ 48 + tdPace d 0 * 2 ^ 64 + tdPace d 1 * 2 ^ 80
    + tdPace d 2 * 2 ^ 96 + tdSession d * 2 ^ 112 + tdTvec d * 2 ^ 128 + i.tsk.descVa.toNat * 2 ^ 192 + n * 2 ^ 256
    + tdTask d * 2 ^ 288 + ((tdCkpt d + ix * tdCksz d) % 2 ^ 64) * 2 ^ 320 + resume.toNat * 2 ^ 384)

/-- A seat may take a new strand of an instance: EMPTY, not kept for another (R328), and its last strand's instance holds no barrier
records with the core as corner (R268, R322). -/
def State.seatFree (s : State) (n : Nat) (c : CoreId) (k : SeatId) : Bool :=
  let q := s.seat c k
  q.st == .empty && !s.keptFrom c k n && !(s.cluster (coreDie c) (clusterOf (coreX c) (coreY c))).bars.any fun r =>
    r.inst = bInst q.billet && r.cx = coreX c && r.cy = coreY c

/-- Descriptors of the shadow tasks of a core that are not bound there: what they need stays reserved (R361). -/
def State.reserved (s : State) (c : CoreId) : List (List Byte) :=
  let d := coreDie c
  ((s.die d).tasks.filter fun p => s.isShadow ⟨d, p.2⟩ && (⟨d, p.2⟩ : Adm).on c
    && !(s.core c).occupied.any fun k => (s.instAt d (bInst (s.seat c k).billet)).any fun i => i.task = p.1).map fun p => p.2.desc

/-- With a billet and so many more slots taken, a core still has the rows, slots and quotas reserved for shadow tasks (R361). -/
def State.leaves (s : State) (i : InstSt) (c : CoreId) (k : SeatId) (b : Billet) (slots : List Nat) : Bool :=
  let r := if s.isShadow ⟨coreDie c, i.tsk⟩ then [] else s.reserved c
  let x := s.core c
  let used (f : Billet → Nat) : Nat := f b + sum (seatIds.map fun j => if bV (x.seatAt j).billet then f (x.seatAt j).billet else 0)
  let need (f : List Byte → Nat) : Nat := sum (r.map f)
  r.isEmpty || (used bW + need tdVwin ≤ 2048 && used bQh0 + need tdQh0 ≤ 16 && used bQh1 + need tdQh1 ≤ 16 && used bQt + need tdQt ≤ 32
    && slots.length + need tdTiles ≤ x.freeSlots.length
    && r.all fun d => (tdTslot d = 0 || (List.range (tdTiles d)).all fun j => !slots.contains (j + (tdTslot d - 1)))
      && (List.range 32).any fun wb =>
        let w := billetOf { i with tsk := { i.tsk with desc := d } } 0 0 wb false
        bWbase w + bW w ≤ 2048 && !overlap w b && seatIds.all fun j => j = k || !bV (x.seatAt j).billet || !overlap w (x.seatAt j).billet)

/-- What a core offers a strand: the lowest free seat and the lowest place for its window, with quotas and slots (R322, log 18). -/
def State.offer (s : State) (i : InstSt) (n ix : Nat) (c : CoreId) : Option (SeatId × Billet) :=
  let v := i.saved.find ix
  let x := s.core c
  if s.removed c then none
  else match s.pickSlots c i.tsk.desc (v.map fun v => v.tiles.map Prod.fst), seatIds.find? (s.seatFree n c) with
    | some l, some k => ((List.range 32).find? fun wb =>
        let b := billetOf i n ix wb v.isSome
        (x.refuses k b).isNone && s.leaves i c k b l).map fun wb => (k, billetOf i n ix wb v.isSome)
    | _, _ => none

/-- Strand indices that are to be bound: those saved, or at the first binding all of them. -/
def InstSt.toBind (i : InstSt) : List Nat := (List.range (tdStrands i.tsk.desc)).filter i.unbound

/-- The core of a strand index on a rectangle. -/
def strandAt (d : List Byte) (p : Nat × Nat) (ix : Nat) : CoreId :=
  mkCore (BitVec.ofNat 2 (tdDie d)) (p.1 + ix % tdW d) (p.2 + ix / tdW d)

/-- The billets of an instance on a rectangle, if every core offers what it needs (R322). -/
def State.placeOn (s : State) (i : InstSt) (n : Nat) (p : Nat × Nat) : Option (List (CoreId × SeatId × Billet)) :=
  let i := { i with x0 := p.1, y0 := p.2 }
  i.toBind.foldr (fun ix l => match l, s.offer i n ix (strandAt i.tsk.desc p ix) with
    | some l, some (k, b) => some ((strandAt i.tsk.desc p ix, k, b) :: l)
    | _, _ => none) (some [])

/-- The resident slot of a task is installed on every core of a rectangle (R387). -/
def State.residentOn (s : State) (i : InstSt) (p : Nat × Nat) : Bool :=
  i.toBind.all fun ix => s.residentAt i.tsk.desc (strandAt i.tsk.desc p ix)

/-- The first rectangle on which an instance can be bound (R322). -/
def State.placeFor (s : State) (i : InstSt) (n : Nat) : Option ((Nat × Nat) × List (CoreId × SeatId × Billet)) :=
  (rects i.tsk.desc).findSome? fun p => if s.residentOn i p then (s.placeOn i n p).map fun l => (p, l) else none

/-- The grade of an instance fixed from its session's grade and GMIN, or none offered (R333). -/
def State.gradeFor (s : State) (i : InstSt) : Option Nat :=
  gradeUp i.tsk.desc (max (s.sess (tdSession i.tsk.desc)).grade i.gmin)

/-- The request of a bound strand serves no newcomer: its core or its ways are being taken away, or its instance is being killed
(R157, R278, R336). -/
def State.mustLeave (s : State) (i : InstSt) (c : CoreId) : Bool :=
  s.gone c || (s.die (coreDie c)).losing (tdL2c i.tsk.desc) || i.shed || i.nest.isSome

/-- Requests made for a newcomer's sake withdrawn: it has been bound or has ended (R308, R328). -/
def State.withdraw (s : State) (d : DieId) (n : Nat) : State :=
  ((s.die d).insts.filter fun p => p.2.client = some n).foldl (fun s p =>
    let s := p.2.seats.foldl (fun s (q : Nat × (CoreId × SeatId)) =>
      if s.mustLeave p.2 q.2.1 then s else s.modCore q.2.1 fun x => x.writePrq q.2.2 0 s.cyc) s
    let s := s.modDie d fun x => { x with kept := x.kept.filter fun e => e.2.2 != n }
    s.modInst d p.1 fun i => if i.removal then { i with client := none } else { i with client := none, cutReq := false, prqAt := none }) s

/-- The billets of an instance written (R322). -/
def State.bindOn (s : State) (d : DieId) (n : Nat) (p : Nat × Nat) (l : List (CoreId × SeatId × Billet)) : State :=
  let s := s.modInst d n fun i => { i with x0 := p.1, y0 := p.2 }
  (l.foldl (fun s b => s.writeBillet b.1 b.2.1 b.2.2) s).withdraw d n

/-- An instance has strands to bind and none bound. -/
def InstSt.idle (i : InstSt) : Bool := i.seats.isEmpty && !i.toBind.isEmpty && i.st != .ended

/-! ### Victims (R326 to R328) -/

/-- A quota that a core cannot give a billet while a seat of it holds part of it (R167). -/
def CoreSt.quotaShort (x : CoreSt) (b v : Billet) (f : Billet → Nat) (cap : Nat) : Bool :=
  let used := seatIds.map fun j =>
    let o := (x.seatAt j).billet
    if bV o then f o else 0
  f v != 0 && cap < f b + sum used

/-- What a strand needs of a core and does not get, and a bound seat holds: a seat, rows, slots or a part of a quota (R322,
R326). -/
def State.needs (s : State) (i : InstSt) (n ix : Nat) (c : CoreId) (k : SeatId) : Bool :=
  let x := s.core c
  let v := i.saved.find ix
  let b := billetOf i n ix 0 false
  let o := (x.seatAt k).billet
  (seatIds.find? (s.seatFree n c)).isNone
    || ((List.range 32).all fun wb => seatIds.any fun j =>
        2048 < 64 * wb + bW b || bV (x.seatAt j).billet && overlap (billetOf i n ix wb false) (x.seatAt j).billet)
    || ((s.pickSlots c i.tsk.desc (v.map fun v => v.tiles.map Prod.fst)).isNone && !(x.granted k).isEmpty)
    || x.quotaShort b o bQh0 16 || x.quotaShort b o bQh1 16 || x.quotaShort b o bQt 32

/-- A bound instance of which nothing has been asked yet and whose deadline is later than the newcomer's: a candidate, if the newcomer
needs on a rectangle what it holds (R326). -/
def State.isVictim (s : State) (i v : InstSt) : Bool :=
  i.due < v.due && v.client.isNone && !v.cutReq && v.cut.isNone && v.done.isNone && !v.seats.isEmpty
    && v.seats.all fun q => ctlPrq (s.core q.2.1).ctl q.2.2 = 0

/-- A candidate holds what the newcomer needs on a rectangle. -/
def State.inWay (s : State) (i v : InstSt) (n : Nat) (p : Nat × Nat) : Bool :=
  i.toBind.any fun ix => v.seats.any fun q =>
    q.2.1 == strandAt i.tsk.desc p ix && s.needs { i with x0 := p.1, y0 := p.2 } n ix q.2.1 q.2.2

/-- Order of the candidates: class, deadline, tokens, number (R326). -/
def victimBefore (a b : Nat × InstSt) : Bool :=
  let x := a.2
  let y := b.2
  let cx := tdClass x.tsk.desc
  let cy := tdClass y.tsk.desc
  let tx := tdTokens x.tsk.desc
  let ty := tdTokens y.tsk.desc
  cy < cx || (cx = cy && (y.due < x.due || (x.due = y.due && (tx < ty || (tx = ty && b.1 < a.1)))))

/-- A candidate put in its place. -/
def putVictim (a : Nat × InstSt) : List (Nat × InstSt) → List (Nat × InstSt)
  | [] => [a]
  | b :: r => if victimBefore a b then a :: b :: r else b :: putVictim a r

/-- The policies for a victim. -/
inductive Policy where
  | drain | ckpt | kill
  deriving DecidableEq, Repr

/-- The policy for a victim, by the rows of R327; without `cut` rows 2 and 4 are left out (R331). -/
def State.policyFor (s : State) (i : InstSt) (v : InstSt) (cut : Bool) : Option Policy :=
  let d := v.tsk.desc
  let now := s.ptimeAt s.cyc
  let c := s.cost ⟨BitVec.ofNat 2 (tdDie i.tsk.desc), i.tsk⟩ i.grade
  let slack4 : Int := 4 * ((i.due : Int) - now) - 5 * c
  let rte := v.seats.foldl (fun m (q : Nat × (CoreId × SeatId)) => max m (s.seat q.2.1 q.2.2).rte.toNat) 0
  if tdMay d 2 && decide ((5 * rte : Int) ≤ slack4) then some .drain
  else if cut && tdMay d 1 && decide ((5 * tdK d : Int) ≤ slack4) then some .ckpt
  else if tdMay d 0 && tdTokens d < tdTokens i.tsk.desc then some .kill
  else if cut && tdMay d 1 then some .ckpt
  else if tdMay d 2 then some .drain
  else none

/-- The requests of a policy made for a newcomer; the seats of a victim that is drained are kept for it (R328). -/
def State.applyPolicy (s : State) (d : DieId) (n v : Nat) (p : Policy) : State :=
  let s := s.modInst d v fun i => { i with client := some n, prqAt := some s.cyc }
  match s.instAt d v, p with
  | some i, .ckpt =>
    if tdStrands i.tsk.desc = 1 then s.requestAll d v 2 else s.modInst d v fun i => { i with cutReq := true }
  | _, .kill => s.requestAll d v 1
  | some i, .drain => (s.requestAll d v 3).modDie d fun x => { x with kept := x.kept ++ i.seats.map fun q => (q.2.1, q.2.2, n) }
  | none, _ => s

/-- What would be free if an instance left its seats and its barrier records. -/
def State.without (s : State) (v : Nat × InstSt) : State :=
  let s := v.2.seats.foldl (fun s (q : Nat × (CoreId × SeatId)) => s.modCore q.2.1 fun x => x.emptySeat q.2.2) s
  { s with clusters := s.clusters.mapV fun y => { y with bars := y.bars.filter fun r => r.inst != v.1 } }

/-- Candidates taken in turn until what they free suffices on a rectangle, or none is left: whether it suffices, and the victims with
their policies. A candidate that frees nothing that is still needed is no victim (R326). -/
def State.chooseOn (s : State) (i : InstSt) (n : Nat) (p : Nat × Nat) (t : State) :
    List (Nat × InstSt) → Bool × List (Nat × Policy)
  | [] => ((t.placeOn i n p).isSome, [])
  | a :: r =>
    if (t.placeOn i n p).isSome then (true, [])
    else if !t.inWay i a.2 n p then s.chooseOn i n p t r
    else match s.policyFor i a.2 true with
      | none => s.chooseOn i n p t r
      | some y =>
        let o := s.chooseOn i n p (t.without a) r
        (o.1, (a.1, y) :: o.2)

/-- The victims of a newcomer: on the rectangle that needs fewest, of those on which they suffice if there is one; else, of those on
which there are any, that with the fewest (R322, R326, R327, log 70). What instances already asked to leave will free counts as
free. -/
def State.victims (s : State) (d : DieId) (i : InstSt) (n : Nat) : List (Nat × Policy) :=
  let all := (s.die d).insts
  let t := (all.filter fun p => p.2.client.isSome).foldl (fun t p => t.without p) s
  let cand := (all.filter fun v => v.1 != n && s.isVictim i v.2).foldl (fun l v => putVictim v l) []
  let each := ((rects i.tsk.desc).filter (s.residentOn i)).map fun p => s.chooseOn i n p t cand
  let ok := each.filter Prod.fst
  let pick := if ok.isEmpty then each.filter fun o => !o.2.isEmpty else ok
  ((pick.foldl (fun m o => match m with
    | none => some o.2
    | some b => if o.2.length < b.length then some o.2 else some b) none).getD [])

/-- A READY instance that cannot be bound asks its victims to leave (R326 to R328). -/
def State.selectVictims (s : State) (d : DieId) (n : Nat) : State :=
  match s.instAt d n with
  | none => s
  | some i =>
    if !(i.st == .ready && i.idle) || (s.placeFor i n).isSome then s
    else (s.victims d i n).foldl (fun s v => s.applyPolicy d n v.1 v.2) s

/-! ### The end of an instance (R317, R320, R321) -/

/-- Every strand has left its seat, or the instance has been ended (R317). -/
def InstSt.allOut (i : InstSt) : Bool :=
  i.done.isNone && i.seats.isEmpty && (i.st == .ended || tdStrands i.tsk.desc ≤ i.ended.length)

/-- CODE and VALUE of the completion record (R321, R336). -/
def InstSt.outcome (i : InstSt) (fin : Nat) : Bits16 × Nat :=
  match i.nest with
  | some c => (fNest, c.toNat)
  | none =>
    match i.quar with
    | some w => (fQuar, w.toNat)
    | none =>
      if i.shed || !i.killed.isEmpty then (fShed, i.top)
      else if i.due < fin then (fDeadl, fin - i.due)
      else (0, 0)

/-- The completion record (R320). -/
def State.recordOf (s : State) (n : Nat) (i : InstSt) : List Byte :=
  let fin := s.ptimeAt i.fin
  let (code, value) := i.outcome fin
  let flags := (decide (i.due < fin)).toNat + i.resumed.toNat * 2 + i.pred.toNat * 4 + i.forced.toNat * 8
  leBytes 2 code.toNat ++ leBytes 1 i.grade ++ leBytes 1 flags ++ leBytes 4 n ++ leBytes 2 i.task
    ++ leBytes 2 (tdSession i.tsk.desc) ++ leBytes 4 i.nckpt ++ leBytes 8 value ++ leBytes 8 i.release
    ++ leBytes 8 ((i.started.map s.ptimeAt).getD 0) ++ leBytes 8 fin ++ leBytes 8 i.due ++ leBytes 8 i.fin

/-- Whose accesses the dispatcher makes for an instance. -/
def InstSt.who (i : InstSt) : Who := ⟨i.func, i.asn, !tdPlv i.tsk.desc, [], none, clsOf i.tsk.desc⟩

/-- The core at an instance's corner. -/
def InstSt.corner (i : InstSt) (d : DieId) : CoreId := mkCore d i.x0 i.y0

/-- The completion record written; a failed write is recorded, and reported as F_BUS where a target refused it, here or by what
another device or the host answers (R320, R371). -/
def State.writeRecord (s : State) (d : DieId) (n : Nat) (i : InstSt) (a : FarAns) : State :=
  let b := s.recordOf n i
  match s.span i.who .write i.crec.toNat 64 with
  | .ok l =>
    let t := s.putSegs l b
    match if isFar l then farFault a i.crec.toNat else none with
    | none => t
    | some f => t.faultEvent (i.corner d) f.1 f.2.toNat i.task n
  | .bad f =>
    let s := s.faultRec i.who (i.corner d) 0 4 n (if f.reason = 9 then 2 else 1) f
    if f.reason = 9 then s.faultEvent (i.corner d) fBus i.crec.toNat i.task n else s

/-- Barrier records of an instance freed, with the messages that name them (R268). -/
def State.freeBars (s : State) (d : DieId) (n : Nat) : State :=
  let keep (m : BarMsg) : Bool := m.inst != n
  { s with
    clusters := s.clusters.map fun p =>
      if p.1 / 8 = d.toNat then (p.1, { p.2 with
        bars := p.2.bars.filter fun r => r.inst != n, bmsg := p.2.bmsg.filter keep, bwait := p.2.bwait.filter keep }) else p
    held := s.held.filter fun p => match p.2 with
      | .bar e m => e != d || keep m
      | _ => true }

/-- An instance is of a mirrored session's action task whose strands all issued ENDS (R358). -/
def State.mirrored (s : State) (i : InstSt) : Bool :=
  tdAction i.tsk.desc && (s.sess (tdSession i.tsk.desc)).statelen != 0 && i.killed.isEmpty && i.st != .ended

/-- A one-shot task without another instance to come, or one launched with LAST, is retired (R314, R324). -/
def State.taskDone (s : State) (d : DieId) (i : InstSt) : State :=
  let more := (s.die d).insts.any fun p => p.2.task = i.task && p.2.done.isNone
  match (s.die d).tasks.find i.task with
  | none => s
  | some t => if t.descVa == i.tsk.descVa && (i.last || (t.oneShot && !more)) then s.retire d i.task else s

end Sys2Proof.Machine
end

