-- ==== Sys2Proof/Machine/EvDispatch.lean ====
section
/-!
DEFINITION. Steps of a die's dispatcher and of its cut tree (R308 to R333).
-/
namespace Sys2Proof.Machine

/-- Meaning of RTE_UPDATE: the dispatcher writes the estimate for the step the seat has committed (R255, R313). -/
def execRteUpdate (core : CoreId) (seat : SeatId) (s : State) : Result :=
  let q := s.seat core seat
  .next <|
    if q.st == .empty then s
    else match s.instAt (coreDie core) (bInst q.billet) with
      | none => s
      | some i => s.setSeat core seat
          { q with rte := i.tsk.rteAt (bGrade q.billet) q.stepNo.toNat (s.core core).raf.toNat }

/-! ### Launches (R315, R316, R385) -/

/-- A packet of a porter queue changed. -/
def State.modPkt (s : State) (f : FuncId) (q : Bits8) (id : Nat) (g : Pkt → Pkt) : State :=
  s.modFunc f fun x => match x.pqs.find q.toNat with
    | none => x
    | some r => { x with pqs := x.pqs.put q.toNat { r with pkts := r.pkts.map fun p => if p.id = id then g p else p } }

/-- Who launched is told: a strand gets the result; a packet goes on to wait for its instance, or completes if it was refused
(R316, R385). -/
def State.launchAnswer (s : State) (a : Asker) (v : Nat) (ok : Bool) : State :=
  match a with
  | .strand c k key => s.answer c k .launch key (BitVec.ofNat 64 v)
  | .porter f q id => s.modPkt f q id fun p =>
      if ok then { p with inst := some v } else { p with done := true, status := 2, result := BitVec.ofNat 64 v }
  | .none => s

/-- A launch refused for a reason (R316). -/
def State.refuseLaunch (s : State) (r : LaunchReq) (reason : Nat) : State := s.launchAnswer r.asker (2 ^ 63 + reason) false

/-- A failed read of a launch recorded (R371). -/
def State.launchFault (s : State) (die : DieId) (r : LaunchReq) (f : XFault) : State :=
  let w := s.whoLaunch r
  match r.asker with
  | .strand c k _ => s.recordFault w c k 4 (bInst (s.seat c k).billet) f
  | .porter .. => s.recordFault w (mkCore die 0 0) 0 5 0 f
  | .none => s.recordFault w (mkCore die 0 0) 0 4 0 f

/-- An accepted launch: the instance enters its die's table under the next number, and a task admitted with it the task table, with its
shadow (R308, R316, R317, R361). -/
def State.accept (s : State) (r : LaunchReq) (rec : List Byte) (d : DieId) (t : TaskSt) (fresh : Bool) (wait : List Nat) : State :=
  let m := ((s.die d).lcount + 1) % 2 ^ 30
  let n := d.toNat * 2 ^ 30 + m
  let s := s.modDie d fun x => { x with
    lcount := m
    tasks := if fresh then x.tasks.put (tdTask t.desc) t else x.tasks
    insts := x.insts.put n (newInst r rec t (s.ptimeAt s.cyc) s.cyc wait fun j => s.liveDep (lrDepOf rec j)) }
  let s := match s.shadowOf ⟨d, t⟩ with
    | none => s
    | some b => if fresh then s.modDie b.d fun x => { x with tasks := x.tasks.put (tdTask b.t.desc) b.t } else s
  (s.launchAnswer r.asker n true).shedFailed

/-- Meaning of LAUNCH_READ_DONE: the die's oldest launch has been read and is accepted or refused; until the timebase has first
locked launches wait, and while way masks change (R278, R311, R316, R325, R335, R346). `read` gives what another device answers to
the reads (R315). -/
def execLaunchReadDone (read : DieFar) (s : State) : Result :=
  .next <| match (s.die read.1).lreq with
    | [] => s
    | r :: rest =>
      if !s.pkg.tbstat.getLsbD 0 || (s.die read.1).cwmNew.isSome then s else
      let s := s.modDie read.1 fun x => { x with lreq := rest }
      match s.readLaunch read.2 r with
      | (s, .unreadable f) => (s.launchFault read.1 r f).refuseLaunch r 1
      | (s, .breach) => s.refuseLaunch r 2
      | (s, .ok rec t) =>
        let (d, t, fresh) := match t with
          | .known d t => (d, t, false)
          | .fresh t => (BitVec.ofNat 2 (tdDie t.desc), t, true)
        match s.launchReason r rec d t fresh with
        | some k => s.refuseLaunch r k
        | none =>
          let t := { t with rel := if fresh || t.oneShot then relDeadline rec t.desc (s.ptimeAt s.cyc) else t.rel }
          if fresh || t.oneShot then
            match s.admission ⟨d, t⟩ with
            | none => s.refuseLaunch r 5
            | some p => p.1.accept r rec d t fresh p.2
          else s.accept r rec d t false []

/-! ### Release and binding (R317, R318, R322, R326, R333) -/

/-- The release of an instance as it would be fixed: not before the previous release of its task plus MINSEP (R318). -/
def State.releaseOf (s : State) (d : DieId) (i : InstSt) : Nat :=
  let sep := tdMinsep i.tsk.desc
  match ((s.die d).tasks.find i.task).bind TaskSt.lastRel with
  | some t => if sep = 0 then i.release else max i.release (t + sep)
  | none => i.release

/-- The instances that the first release waits for have completed (R325). -/
def State.waited (s : State) (i : InstSt) : Bool :=
  i.wait.all fun n => match s.instNo n with
    | none => true
    | some p => p.done.isSome

/-- An instance's grade fixed, or the instance shed where none is offered (R333). -/
def State.fixGrade (s : State) (d : DieId) (n : Nat) (i : InstSt) : State × Bool :=
  if i.graded then (s, true)
  else match s.gradeFor i with
    | none => (s.shedInst d n false, false)
    | some g => (s.modInst d n fun i => { i with grade := g, graded := true }, true)

/-- Meaning of INSTANCE_RELEASE: a waiting instance whose conditions hold becomes READY with its grade; one that cannot is shed;
a READY instance that cannot be bound chooses its victims (R317, R318, R326, R327, R333). -/
def execInstanceRelease (die : DieId) (inst : Imm32) (s : State) : Result :=
  let n := inst.toNat
  .next <| match s.instAt die n with
    | none => s
    | some i =>
      if i.st == .waiting then
        let i := { i with release := s.releaseOf die i }
        if s.depFailed i then s.shedInst die n true
        else if i.arrival then s
        else if i.tooLate then (s.modInst die n fun j => { j with release := i.release }).shedInst die n false
        else if s.depMet i.dep0 = some true && s.depMet i.dep1 = some true && i.release ≤ s.ptimeAt s.cyc && s.waited i then
          let r := s.fixGrade die n i
          if !r.2 then r.1
          else
            let s := (r.1.modInst die n fun j => { j with st := .ready, release := i.release }).modDie die fun x =>
              { x with tasks := x.tasks.map fun p => if p.1 = i.task then (p.1, { p.2 with lastRel := some i.release }) else p }
            s.selectVictims die n
        else s
      else s.selectVictims die n

/-- Meaning of BIND: an instance that is READY, SUSPENDED, or WAITING with PREBIND is bound on the first rectangle whose cores
offer all it needs (R322, R333, R340). Nothing is bound once supply is lost (R397),
nor a task of a class that a resize drains (R278). -/
def execBind (die : DieId) (inst : Imm32) (s : State) : Result :=
  let n := inst.toNat
  .next <| match s.instAt die n with
    | none => s
    | some i =>
      if s.pkg.supply || (s.die die).losing (tdL2c i.tsk.desc) || !i.idle || (i.st == .waiting && !tdPrebind i.tsk.desc) then s
      else
        let r := s.fixGrade die n i
        if !r.2 then r.1
        else match r.1.instAt die n with
          | none => s
          | some i => match r.1.placeFor i n with
            | none => s
            | some p => r.1.bindOn die n p.1 p.2

/-! ### The consistent cut (R308, R330, R331) -/

/-- Cuts in progress on a die, and the oldest request waiting. -/
def DieSt.cuts (x : DieSt) : Nat := (x.insts.filter fun p => p.2.cut.isSome).length
def DieSt.earlierCut (x : DieSt) (i : InstSt) : Bool := x.insts.any fun p => p.2.cutReq && p.2.prqAt.getD 0 < i.prqAt.getD 0

/-- Bits of the cut register of every bound seat of an instance set or cleared. -/
def State.cutBits (s : State) (i : InstSt) (arm : Bool) : State :=
  i.seats.foldl (fun s (p : Nat × (CoreId × SeatId)) => s.modCore p.2.1 fun x =>
    let k := p.2.2.toNat
    { x with cut := setBits (setBits x.cut k k arm.toNat) (4 + k) (4 + k) 0 }) s

/-- Meaning of CUT_START: the oldest request starts when fewer than eight cuts are in progress: every seat is armed (R308,
R331). -/
def execCutStart (die : DieId) (inst : Imm32) (s : State) : Result :=
  let n := inst.toNat
  .next <| match s.instAt die n with
    | none => s
    | some i =>
      if !i.cutReq || i.cut.isSome || i.seats.isEmpty || 8 ≤ (s.die die).cuts || (s.die die).earlierCut i then s
      else (s.cutBits i true).modInst die n fun i =>
        { i with cutReq := false, cut := some { t0 := s.cyc, held := [], top := none, least := none, removal := i.removal } }

/-- A report of a strand's step (R331). -/
def CutSt.report (u : CutSt) (j k : Nat) : CutSt :=
  { u with held := u.held.put j k, top := some (max (u.top.getD k) k), least := some (min (u.least.getD k) k) }

/-- Strands held below the greatest step are released and run to their next STEP (R331). -/
def State.releaseHeld (s : State) (i : InstSt) (u : CutSt) : State × CutSt :=
  let t := u.top.getD 0
  let low := u.held.filter fun p => p.2 < t
  (low.foldl (fun s p => match i.seats.find p.1 with
    | none => s
    | some (c, k) => s.modCore c fun x => { x with cut := setBits x.cut (4 + k.toNat) (4 + k.toNat) 0 }) s,
   { u with held := u.held.filter fun p => t ≤ p.2 })

/-- Meaning of CUT_REPORT: a held seat's step reaches the tree; strands below the greatest step are released, and once every
strand bound is held at it the cut is complete: each acts as at a STEP commit with PRQ = 2 (R330, R331). -/
def execCutReport (core : CoreId) (seat : SeatId) (s : State) : Result :=
  let d := coreDie core
  let x := s.core core
  let q := x.seatAt seat
  let n := bInst q.billet
  .next <| match s.instAt d n with
    | none => s
    | some i => match i.cut with
      | none => s
      | some u =>
        if !x.cut.getLsbD (4 + seat.toNat) then s
        else
          let (s, u) := s.releaseHeld i (u.report q.sidx q.stepNo.toNat)
          if i.seats.all fun p => (u.held.find p.1).isSome then
            let s := (s.cutBits i false).modInst d n fun i => { i with cut := none }
            i.seats.foldl (fun s (p : Nat × (CoreId × SeatId)) => s.outSeat p.2.1 p.2.2) s
          else s.modInst d n fun i => { i with cut := some u }

/-- After F_CUT (R331): for a core's removal the next policy its tasks permit, for a newcomer the table of R327 without rows 2
and 4. -/
def State.afterCut (s : State) (d : DieId) (n : Nat) (i : InstSt) (removal : Bool) : State :=
  if removal then
    let gone := i.seats.filter fun p => s.gone p.2.1
    (if gone.isEmpty then i.seats else gone).foldl (fun s (p : Nat × (CoreId × SeatId)) =>
      s.policySeat p.2.1 p.2.2 ((s.core p.2.1).mstate == .quarantine) false) s
  else match i.client with
    | none => s
    | some c => match s.instAt d c with
      | none => s
      | some w =>
        let s := s.modInst d n fun i => { i with client := none, prqAt := none }
        match s.policyFor w i false with
        | none => s
        | some p => s.applyPolicy d c n p

/-- Meaning of CUT_TIMEOUT: a cut that has run longer than CUTBOUND fails with F_CUT; its seats are released and disarmed (R331,
R336). -/
def execCutTimeout (die : DieId) (inst : Imm32) (s : State) : Result :=
  let n := inst.toNat
  .next <| match s.instAt die n with
    | none => s
    | some i => match i.cut with
      | none => s
      | some u =>
        if s.cyc - u.t0 ≤ tdCutbound i.tsk.desc then s
        else
          let s := (s.cutBits i false).modInst die n fun i => { i with cut := none, removal := false }
          let s := s.faultEvent (i.corner die) fCut (u.least.getD 0 + u.top.getD 0 * 2 ^ 32) i.task n
          s.afterCut die n i (u.removal || i.removal)

/-! ### The end of instances (R308, R317, R320, R321) -/

/-- Who launched an instance is told of its end: a packet completes with the instance's number and CODE (R385). -/
def State.tellEnd (s : State) (n : Nat) (i : InstSt) (code : Bits16) : State :=
  match i.asker with
  | .porter f q id => s.modPkt f q id fun p =>
      { p with done := true, status := 0, result := BitVec.ofNat 64 (n + code.toNat * 2 ^ 32) }
  | _ => s

/-- Meaning of INSTANCE_COMPLETE: every strand has left its seat: the completion record is written, after the commit of a mirrored
session's state, whose failure is told after the record; the code is reported, dependents are shed or may be released, and the task may be
retired (R268, R303, R317, R320, R321, R334, R358). An instance of a fenced die is lost without its record (R360). -/
def execInstanceComplete (die : DieId) (inst : InstAns) (s : State) : Result :=
  let n := inst.1.toNat
  .next <| match s.instAt die n with
    | none => s
    | some i =>
      if !i.allOut || (s.mirrored i && !i.committed) then s
      else
        let (code, value) := i.outcome (s.ptimeAt i.fin)
        let s := if (s.die die).fenced then s else s.writeRecord die n i inst.2
        let s := (s.modInst die n fun i =>
          { i with done := some s.cyc, code := code, st := .ended, saved := [], cut := none, cutReq := false, prqAt := none }).freeBars die n
        let s := if code = 0 then s else s.faultEvent (i.corner die) code value i.task n
        let s := match i.mfail with
          | some m => s.faultEvent (i.corner die) m.1 m.2 i.task n
          | none => s
        (((s.tellEnd n i code).withdraw die n).taskDone die i).shedFailed

/-- Dependences on an instance that is no longer live (R318). -/
def State.forgetDep (s : State) (n : Nat) : State :=
  let drop (d : Option (Nat × Bool)) : Option (Nat × Bool) := d.filter fun p => p.1 != n
  { s with dies := s.dies.mapV fun x => { x with insts := x.insts.mapV fun i => { i with dep0 := drop i.dep0, dep1 := drop i.dep1 } } }

/-- Meaning of INSTANCE_RETIRE: an instance is live until 1 ms after its completion record (R308). -/
def execInstanceRetire (die : DieId) (inst : Imm32) (s : State) : Result :=
  let n := inst.toNat
  .next <| match s.instAt die n with
    | none => s
    | some i => match i.done with
      | none => s
      | some t => if t + 800000 ≤ s.cyc then (s.modDie die fun x => { x with insts := x.insts.del n }).forgetDep n else s

/-! ### Settings (R309, R323) -/

/-- Meaning of SHARE_WINDOW_END: at a multiple of 2^SWL the background time begins anew (R323). -/
def execShareWindowEnd (core : CoreId) (s : State) : Result :=
  .next <| if s.cyc % s.shareLen (coreDie core) = 0 then s.modCore core fun x => { x with bgtime := 0 } else s

/-- A dispatcher configuration within its limits (R309). -/
def dcfgOk (v : Word) : Bool :=
  bits v 9 0 ≤ bits v 19 10 && bits v 19 10 + bits v 29 20 ≤ 1024 && 16 ≤ bits v 34 30 && bits v 34 30 ≤ 30
    && 10 ≤ bits v 39 35 && bits v 39 35 ≤ 24

/-- Meaning of DISPATCH_CONFIG_WRITE (R309). -/
def execDispatchConfigWrite (die : DieId) (val : Word) (s : State) : Result :=
  .next <| if dcfgOk val then s.modDie die fun x => { x with dcfg := val &&& 0xFFFFFFFFFF } else s

end Sys2Proof.Machine
end

