-- ==== Sys2Proof/Machine/EvQueue.lean ====
section
/-!
DEFINITION. Steps of a die's queue unit (R239 to R241, R421, R422) and of a cluster's barrier unit (R268 to R272, R280).
-/
namespace Sys2Proof.Machine

/-! ### The queue unit -/

/-- A request stands: its bundle is held, or its payload lies in a staging slot. -/
def State.stands (s : State) (r : QReq) : Bool :=
  r.remote || ((s.seat r.core r.seat).hold.isSome && (s.seat r.core r.seat).st == .issuing)

/-- No earlier request of the same role and queue stands before one from a seat (R241). -/
def State.firstReq (s : State) (q : Bits12) (push : Bool) (c : CoreId) (k : SeatId) : List QReq → Option QReq
  | [] => none
  | r :: l =>
    if r.qnum == q && r.push == push && s.stands r then
      (if !r.remote && r.core == c && r.seat == k then some r else none)
    else s.firstReq q push c k l

/-- The request of a seat at a die's queue unit that may be granted now (R239, R241); those of a fenced die do not reach another (R359).
-/
def State.grantable (s : State) (d : DieId) (c : CoreId) (k : SeatId) : Bool :=
  (d == coreDie c || !(s.die (coreDie c)).fenced) && (s.die d).qreq.any fun r =>
    !r.remote && r.core == c && r.seat == k && s.stands r
      && (s.firstReq r.qnum r.push c k (s.die d).qreq).isSome
      && match s.queue? d r.qnum.toNat with
        | none => false
        | some u => if r.push then u.canPush r.cells else u.canPop

/-- Meaning of QUEUE_GRANT: the push or pop that the core's issuing seat holds is granted, in the order of the requests and
when there is room or a packet (R239, R240, R241). -/
def execQueueGrant (core : CoreId) (s : State) : Result :=
  .next <| match (s.core core).issuing with
    | none => s
    | some k =>
      if ([0, 1, 2, 3] : List DieId).any fun d => s.grantable d core k then
        s.modSeat core k fun q => { q with grant := true }
      else s

/-- A remote push has been published or refused: its credit goes back, and an acknowledgement in its class where it asked for one
(R411, R422). -/
def State.ackRemote (s : State) (dev : Bits9) (cls : Nat) (ack : Bool) (origin : Bits16) (v : Nat) : State :=
  let s := s.send (.creditReturn dev)
  if ack then s.send (.queueAck dev origin (BitVec.ofNat 64 v) cls) else s

/-- Remote payloads of a queue granted in order, as long as each has room and no push that stands came before it (R241, R422):
their records are reserved and written, and their acknowledgements carry the index. -/
def State.takeRemote (s : State) (d : DieId) (n : Bits12) : List QReq → State × List QReq
  | [] => (s, [])
  | r :: l =>
    if !(r.qnum == n && r.push && s.stands r) then
      let p := s.takeRemote d n l
      (p.1, r :: p.2)
    else if !r.remote then (s, r :: l)
    else match s.queue? d n.toNat with
      | none => (s, r :: l)
      | some u =>
        if !u.canPush r.cells then (s, r :: l)
        else
          let p := s.reserve d n.toNat u r.origin.toNat r.payload
            ((List.range r.payload.length).map fun j => r.pois.contains (j / 64)) ⟨none, (Who.ofFunc u.func).cl, false⟩
          let s := (match p.2.2 with
            | none => p.1
            | some f => p.1.recordFault (.ofFunc u.func) (mkCore d 0 0) 0 0 0 f).mirrorFault d n.toNat
          (s.ackRemote r.dev r.cls r.ack r.origin p.2.1).takeRemote d n l

/-- Meaning of PACKET_PUBLISH: payloads that lie in their staging slots and have room are written, then every record written is
published, with the mirror (R241, R422). -/
def execPacketPublish (die : DieId) (qnum : Bits12) (s : State) : Result :=
  let p := s.takeRemote die qnum (s.die die).qreq
  .next ((p.1.modDie die fun x => { x with qreq := p.2 }).publish die qnum.toNat)

/-- The queue instruction of a bundle: its wait, the scalar that names its queue, and whether it pushes. -/
def queueOf : Instr → Option (Bits20 × SReg)
  | .qpush _ sa _ _ w _ | .qpushA _ sa _ _ w _ | .qpop _ sa _ _ w _ => some (w, sa)
  | _ => none

/-- Trap value of F_QWAIT (R164, R240, R422). -/
def State.expireVal (s : State) (w : Word) : Nat :=
  let i := qidOf w
  if i.remote then i.raw else match s.qFind i with
    | none => i.raw
    | some u => qwaitVal i u

/-- A remote push has its credit: it does not wait any more (R422). -/
def State.hasCredit (s : State) (w : Word) : Bool := (qidOf w).remote && s.creditsTaken (qidOf w).dev < 2

/-- Meaning of QWAIT_EXPIRY: a queue instruction held longer than its wait without a grant takes F_QWAIT (R240, R422). -/
def execQwaitExpiry (core : CoreId) (s : State) : Result :=
  let x := s.core core
  .next <| match x.issuing with
    | none => s
    | some k =>
      let q := x.seatAt k
      match q.hold, s.fetch core k with
      | some h, .bundle b _ => match decodeBundle b with
        | .bad _ _ => s
        | .ok _ _ _ _ i => match queueOf i with
          | none => s
          | some (w, sa) =>
            let v := q.sr.val 0 sa.toNat
            if x.mayIssue && !q.pending s.cyc && !q.grant && !s.hasCredit v && h + w.toNat < s.cyc then
              (s.takePrecise core k (xErr 110 fQwait (s.expireVal v))).fullEntry core
            else s
      | _, _ => s

/-! ### The barrier unit -/

/-- The record that a message names, created with its E where it does not exist (R269). -/
def ClusterSt.record (u : ClusterSt) (m : BarMsg) : BarRec :=
  (u.bars.find? fun r => r.keyed m).getD ⟨m.inst, m.bid, m.cx, m.cy, 0, m.e, 0, false, 0, 0⟩

/-- A record put back. -/
def ClusterSt.setRecord (u : ClusterSt) (m : BarMsg) (r : BarRec) : ClusterSt :=
  { u with bars := if u.bars.any fun x => x.keyed m then u.bars.map fun x => if x.keyed m then r else x else u.bars ++ [r] }

/-- Two messages of one strand name one record. -/
def BarMsg.alike (p m : BarMsg) : Bool :=
  p.core == m.core && p.seat == m.seat && p.inst = m.inst && p.bid == m.bid && p.cx = m.cx && p.cy = m.cy

/-- The instance of a message still has a strand that has neither ended nor been killed (R268). -/
def State.barLive (s : State) (d : DieId) (m : BarMsg) : Bool :=
  match (s.die d).insts.find m.inst with
  | none => false
  | some i => i.done.isNone && i.st != .ended && i.ended.length < tdStrands i.tsk.desc

/-- A message of a kind that is next at the unit: the requests of one strand to one record reach it in issue order, also past an arrival
that waits for the accesses before it (R269); and the arrivals of one ck are applied in ascending strand index (R270). -/
def State.barNext (s : State) (d : DieId) (k : Nat) (kind : BarKind) (i : Nat) : Option BarMsg :=
  let u := s.cluster d k
  match u.bmsg[i]? with
  | none => none
  | some m =>
    let before (p : BarMsg) : Bool := p.alike m && p.key < m.key
    let waits := (s.seat m.core m.seat).vres.any fun v => match v.todo with
      | some (.arrive p) => before p
      | _ => false
    let held := s.held.any fun p => match p.2 with
      | .bar _ p => before p
      | _ => false
    let r := u.record m
    if m.kind == kind && !(u.bmsg.take i).any (·.alike m) && !waits && !held
        && !(kind == .arrive && r.at0 = s.cyc && m.sidx < r.lastIx) then some m
    else none

/-- An arrival counted at its record: the phase, whether it completes it, and the record after it (R270). -/
def BarRec.arrive (r : BarRec) : Bits16 × Bool × BarRec :=
  if r.a + 1 = r.e then (r.p, true, { r with p := r.p + 1, a := 0 }) else (r.p, false, { r with a := r.a + 1 })

/-- The unit's message removed. -/
def State.dropMsg (s : State) (d : DieId) (k i : Nat) : State := s.modCluster d k fun u => { u with bmsg := u.bmsg.eraseIdx i }

/-- A record put back at its unit. -/
def State.putBar (s : State) (d : DieId) (k : Nat) (m : BarMsg) (r : BarRec) : State := s.modCluster d k fun u => u.setRecord m r

/-- A record that its unit finds uncorrectable: it is FAILED, and a FAULT event names its instance (R280). -/
def State.failRecord (s : State) (d : DieId) (k : Nat) (m : BarMsg) (r : BarRec) : State :=
  (s.putBar d k m { r with failed := true }).faultEvent (mkCore d m.cx m.cy) fBus 0 (s.instTask d m.inst) m.inst

/-- A message processed at its unit; one of an instance that has no strand left is dropped with its records (R268). -/
def State.barDo (s : State) (d : DieId) (k : Nat) (kind : BarKind) (i : Nat) (f : State → BarMsg → BarRec → State) : State :=
  match s.barNext d k kind i with
  | none => s
  | some m =>
    let t := s.dropMsg d k i
    if s.barLive d m then f t m ((s.cluster d k).record m) else t

/-- Meaning of BARRIER_INIT: a BARI reaches its unit; it creates a record that does not exist (R269). With `msg` the unit finds the
record uncorrectable (R280). -/
def execBarrierInit (die : DieId) (clu : Bits3) (msg : MsgErr) (s : State) : Result :=
  .next <| s.barDo die clu.toNat .init msg.1.toNat fun t m r =>
    if msg.2 then t.failRecord die clu.toNat m r else t.putBar die clu.toNat m r

/-- Meaning of BARRIER_ARRIVAL: a BARA reaches its unit (R268 to R271). With `err` the unit finds the record uncorrectable: it is
FAILED (R280). -/
def execBarrierArrival (die : DieId) (clu : Bits3) (idx : Bits8) (err : Bool) (s : State) : Result :=
  let k := clu.toNat
  .next <| s.barDo die k .arrive idx.toNat fun t m r =>
    if r.failed || err then
      (if err then t.failRecord die k m r else t).answer m.core m.seat .bara m.key (BitVec.ofNat 64 (2 ^ 63))
    else
      let (p, last, r) := r.arrive
      (t.putBar die k m { r with at0 := s.cyc, lastIx := m.sidx }).answer m.core m.seat .bara m.key
        (BitVec.ofNat 64 (p.toNat + last.toNat * 2 ^ 16))

/-- Meaning of BARRIER_WAIT_REQUEST: a BARW reaches its unit, which holds it until phase 2 finds its condition met (R269 to R271); with
`msg` the unit finds the record uncorrectable (R280). -/
def execBarrierWaitRequest (die : DieId) (clu : Bits3) (msg : MsgErr) (s : State) : Result :=
  let k := clu.toNat
  .next <| s.barDo die k .wait msg.1.toNat fun t m r =>
    let t := t.modCluster die k fun v => { v with bwait := v.bwait ++ [m] }
    if msg.2 then t.failRecord die k m r else t.putBar die k m r

end Sys2Proof.Machine
end

