-- ==== Sys2Proof/Machine/EvSteward.lean ====
section
/-!
DEFINITION. The requests that a steward answers (R266, R267, R279), and its failure (R280).
-/
namespace Sys2Proof.Machine

/-- A CORE field names a core of a cluster, with every other bit zero (R266, R267). -/
def inCluster (d : DieId) (k : Nat) (core : Bits16) : Bool :=
  let c := coreOfField core.toNat
  coreField c = core.toNat && coreDie c == d && clusterOf (coreX c) (coreY c) = k

/-- A REPLY of the steward (R267). -/
def State.reply (s : State) (d : DieId) (k : Nat) (core : Bits16) (sq : Imm32) (status : Nat) : State :=
  s.stewPush d k (stewMsg 0x86 status core.toNat sq.toNat s.cyc [])

/-- A request reaches the steward (R266): with `head` the head steward pushes its record at the inbox; the message at the head of the
inbox, if it has this TYPE, CORE, SEQ and BODY, is taken, and the answer tells whose it is: a strand's, or none where it is the head
steward's. A record pushed behind others stays in the inbox. -/
def State.inbox (s : State) (d : DieId) (k : Nat) (head : Bool) (type : Nat) (core : Bits16) (sq : Imm32) (body : List Byte) :
    Except State (State × Option (FuncId × Bits12 × Nat)) :=
  match s.queue? d (0xFF0 + k) with
  | none => .error s
  | some q =>
    if head then
      let m := stewMsg type 0 core.toNat sq.toNat s.cyc body
      if !q.canPush (recCells m.length) then .error s
      else
        let t := ((s.reserve d (0xFF0 + k) q 0 m [] .unit).1).publish d (0xFF0 + k)
        if q.recs.isEmpty then
          match t.queue? d (0xFF0 + k) with
          | none => .error t
          | some u => .ok (t.popHead d (0xFF0 + k) u, none)
        else .error t
    else
      let m := (s.headBytes q).map Prod.fst
      if q.canPop && q.headLen = 56 && field m 0 1 = type && field m 2 2 = core.toNat && field m 4 4 = sq.toNat
          && (m.drop 16).take body.length = body then
        .ok (s.popHead d (0xFF0 + k) q, (q.retire.recs.head?).bind QRec.src)
      else .error s

/-- Words of a half's counters, in their order (R216). -/
def HalfCnt.words (h : HalfCnt) : List Word := [h.mstep, h.mrow, h.mskip, h.mpois, h.mflt.zeroExtend 64, h.mbusy]

/-- Counters of an L2 class in the slices of a cluster: fills, evictions and writebacks of each (R277; their order is log 43). -/
def State.l2Words (s : State) (d : DieId) (k cls : Nat) : List Word :=
  (List.range 8).flatMap fun j =>
    let n := s.l2.cnt.val ⟨0, 0, 0⟩ (16 * (64 * d.toNat + 8 * k + j) + cls)
    [BitVec.ofNat 64 n.fills, BitVec.ofNat 64 n.evs, BitVec.ofNat 64 n.wbs]

/-- What CNT writes for a unit (R249, R267). -/
def State.cntWords (s : State) (c : CoreId) (unit cls : Nat) : List Word :=
  let x := s.core c
  match unit with
  | 0 => (List.range 11).map fun i => s.marginWord c 0 (0x080 + i)
  | 1 => x.hc0.words
  | 2 => x.hc1.words
  | _ => s.l2Words (coreDie c) (clusterOf (coreX c) (coreY c)) cls

/-- Bytes of a message's body for CNT. -/
def cntBody (dest : Word) (unit cls : Bits8) : List Byte := leBytes 8 dest.toNat ++ [unit, cls]

/-- Meaning of CNT: the registers are written at DEST in the sender's space, then the reply is pushed; a value out of range, or
a DEST that cannot be written, changes nothing. The space that the event names is the sender's: a strand's message comes from no other
space than that of the strand that pushed it; the head steward says its own (R267, log 56). -/
def execCnt (die : DieId) (clu : Bits3) (head : Bool) (core : Bits16) (seq : Imm32) (func : FuncId) (asn : Bits12) (dest : Word)
    (unit cls : Bits8) (s : State) : Result :=
  let k := clu.toNat
  .next <| match s.inbox die k head 1 core seq (cntBody dest unit cls) with
    | .error s => s
    | .ok (t, who) =>
      if who.any fun p => (p.1, p.2.1) != (func, asn) then s
      else
        let b := (t.cntWords (coreOfField core.toNat) unit.toNat cls.toNat).flatMap fun w => leBytes 8 w.toNat
        let w : Who := { Who.ofFunc func with asn := asn, cl := ⟨2, 14, (who.map fun p => p.2.2).getD 3⟩ }
        let bad := !inCluster die k core || dest.toNat % 64 != 0 || 3 < unit.toNat || (unit = 3 && 15 < cls.toNat)
        if bad then t.reply die k core seq 1
        else match t.span w .write dest.toNat b.length with
          | .bad f => (t.faultRec w (coreOfField core.toNat) 0 4 0 1 f).reply die k core seq 1
          | .ok l => (t.putSegs l b).reply die k core seq 0

/-- Meaning of FLOOR: only the head steward may ask (R253, R267). Under a failed steward every FLOOR stays 7 (R280). -/
def execFloor (die : DieId) (clu : Bits3) (head : Bool) (core : Bits16) (seq : Imm32) (val : Bits8) (s : State) : Result :=
  let k := clu.toNat
  .next <| match s.inbox die k head 2 core seq [val] with
    | .error s => s
    | .ok (s, who) =>
      if who.isSome || !inCluster die k core || 7 < val.toNat || (s.cluster die k).sfail then s.reply die k core seq 1
      else (s.modCore (coreOfField core.toNat) fun x => { x with floor := val.setWidth 3 }).reply die k core seq 0

/-- A core is excluded by the boot stages (R395, R396): once the part is ready, its bit of CMASK is clear. -/
def State.excluded (s : State) (c : CoreId) : Bool :=
  (s.pkg.mbox.val 0 0).getLsbD 5 && !(s.pkg.mbox.val 0 (1 + (coreDie c).toNat)).getLsbD (8 * coreY c + coreX c)

/-- Meaning of REQUAL: an OUT core is NORMAL again with FLOOR raised by one (R254, R267); one that boot excluded stays OUT
(R396). -/
def execRequal (die : DieId) (clu : Bits3) (head : Bool) (core : Bits16) (seq : Imm32) (s : State) : Result :=
  let k := clu.toNat
  let c := coreOfField core.toNat
  .next <| match s.inbox die k head 3 core seq [] with
    | .error s => s
    | .ok (s, who) =>
      let x := s.core c
      if who.isSome || !inCluster die k core || x.mstate != .out || s.excluded c then s.reply die k core seq 1
      else
        let s := s.modCore c fun x =>
          { x with mstate := .normal, stopped := false, overs := 0, floor := BitVec.ofNat 3 (min 7 (x.floor.toNat + 1)) }
        (s.marginEvent c).reply die k core seq 0

/-- Meaning of BUDGET: LB of a column of the die, 16 to 128; leave already granted stays held (R186, R267). -/
def execBudget (die : DieId) (clu : Bits3) (head : Bool) (core : Bits16) (seq : Imm32) (col lb : Bits8) (s : State) : Result :=
  let k := clu.toNat
  .next <| match s.inbox die k head 4 core seq [col, lb] with
    | .error s => s
    | .ok (s, who) =>
      if who.isSome || !inCluster die k core || 7 < col.toNat || lb.toNat < 16 || 128 < lb.toNat then s.reply die k core seq 1
      else (s.modDie die fun x => { x with
        lb := x.lb.put col.toNat lb.toNat, lbCfg := x.lbCfg.put col.toNat lb.toNat }).reply die k core seq 0

/-- Body of an INVAL (R279). -/
def invalBody (va : Word) (size flags : Bits8) (func asn : Bits16) : List Byte :=
  leBytes 8 va.toNat ++ [size, flags] ++ leBytes 2 func.toNat ++ leBytes 2 asn.toNat

/-- Meaning of INVAL: the invalidation begins; its reply comes with INVAL_COMPLETE (R279). A steward carries out one at a time. -/
def execInval (die : DieId) (clu : Bits3) (head : Bool) (core : Bits16) (seq : Imm32) (va : Word) (size flags : Bits8)
    (func asn : Bits16) (s : State) : Result :=
  let k := clu.toNat
  .next <|
    if (s.cluster die k).inval.isSome then s
    else match s.inbox die k head 5 core seq (invalBody va size flags func asn) with
      | .error s => s
      | .ok (s, who) =>
        if who.isSome || !inCluster die k core || 4 < size.toNat || 3 < flags.toNat || 31 < func.toNat || 4095 < asn.toNat then
          s.reply die k core seq 1
        else
          let r : InvalReq :=
            { va := va, size := size.toNat, all := flags.getLsbD 0, allAsn := flags.getLsbD 1, func := func.setWidth 5,
              asn := asn.setWidth 12, core := core, seq := seq }
          s.modCluster die k fun u => { u with inval := some r }

/-- A cached translation matches an invalidation: its page overlaps the page named, of the function, in the address spaces named
(R279). -/
def InvalReq.hits (r : InvalReq) (e : TlbEnt) : Bool :=
  let n := pageBytes r.size
  let lo := r.va.toNat % 2 ^ 57 / n * n
  let b := pageBytes e.size
  e.func == r.func && (r.allAsn || e.asn == r.asn) && (r.all || (e.page.toNat * b < lo + n && lo < e.page.toNat * b + b))

/-- A command has translated an access that has not been performed: a block asked for, the memory that its running step reads elsewhere or
is to write, or writes and records that another device has not performed (R200, R206, R232, R279). -/
def Entry.accessing (e : Entry) : Bool :=
  (e.asked && e.blk.isNone) || (e.busy && (e.far.isSome || !e.segs.isEmpty)) || !e.wout.isEmpty || !e.recs.isEmpty

/-- A translated access of a seat has not been performed: of an outstanding result, of the frozen load of its bundle or the fetch of it,
or of its engine commands (R59, R84, R279). -/
def CoreSt.accessing (x : CoreSt) (k : SeatId) : Bool :=
  ((x.seatAt k).vres.any Vres.isOpen)
    || (x.fill.any fun f => f.seat = k && (f.load = some none || f.code = some none))
    || [0, 1, 2].any fun n => (x.queue n).any fun p => p.2.seat = k && p.2.accessing

/-- An access of the function is outstanding on a die (R279). -/
def State.pendingAccess (s : State) (d : DieId) (f : FuncId) : Bool :=
  (dieCores d).any fun c => seatIds.any fun k => (s.seat c k).func == f && (s.core c).accessing k

/-- Meaning of INVAL_COMPLETE: no TLB of the die holds a matching entry any more and every access through one has been
performed: the reply is pushed (R279). -/
def execInvalComplete (die : DieId) (clu : Bits3) (s : State) : Result :=
  let k := clu.toNat
  .next <| match (s.cluster die k).inval with
    | none => s
    | some r =>
      if s.pendingAccess die r.func then s
      else
        let s := (dieCores die).foldl (fun s c =>
          if (s.core c).tlb.any r.hits then s.modCore c fun x => { x with tlb := x.tlb.filter fun e => !r.hits e } else s) s
        let s := (List.range 8).foldl (fun s j =>
          if (s.cluster die j).tlb2.any r.hits then
            s.modCluster die j fun u => { u with tlb2 := u.tlb2.filter fun e => !r.hits e }
          else s) s
        (s.modCluster die k fun u => { u with inval := none }).reply die k r.core r.seq 0

/-- Meaning of STEWARD_UNKNOWN_TYPE: STATUS 2 (R267). A type of the table is none. -/
def execStewardUnknownType (die : DieId) (clu : Bits3) (head : Bool) (core : Bits16) (seq : Imm32) (type : Bits8) (s : State) :
    Result :=
  let k := clu.toNat
  .next <|
    if 1 ≤ type.toNat && type.toNat ≤ 5 then s
    else match s.inbox die k head type.toNat core seq [] with
      | .error s => s
      | .ok (s, _) => s.reply die k core seq 2

/-- Meaning of STEWARD_WATCHDOG: the steward has failed: the head steward holds every FLOOR of the cluster at 7, and nothing new
is admitted to it (R280). -/
def execStewardWatchdog (die : DieId) (clu : Bits3) (s : State) : Result :=
  let k := clu.toNat
  .next <| ((dieCores die).filter fun c => clusterOf (coreX c) (coreY c) = k).foldl
    (fun s c => s.modCore c fun x => { x with floor := 7 }) (s.modCluster die k fun u => { u with sfail := true })

end Sys2Proof.Machine
end

