-- ==== Sys2Proof/Machine/EvPkg.lean ====
section
/-!
DEFINITION. Steps of the package: relay pairs (R356 to R361), HBM slots (R362 to R365), page walks (R370, R371) and memory
keys (R373, R374).
-/
namespace Sys2Proof.Machine

/-! ### Mirroring (R356 to R358) -/

/-- The relay die of a die (R356). -/
def relayOf (d : DieId) : DieId := d ^^^ 1

/-- Where the mirror area of a session on its relay die begins (R357). -/
def State.mirrorBase (s : State) (d : DieId) (n : Nat) : Nat := d.toNat * 2 ^ 37 + (s.die d).mirbase + 135168 * n

/-- A part of a mirror area, as the dispatchers access it. -/
def State.mirrorSeg (s : State) (d : DieId) (n off len : Nat) : List Seg :=
  [⟨⟨s.mirrorBase d n + off, 0, false, false, 0, 0, 0, stewCls⟩, len⟩]

/-- GEN and BUF of a mirror area's header (R357). -/
def State.mirrorGen (s : State) (d : DieId) (n : Nat) : Nat := leNat (s.rdBytes 0 (s.mirrorBase d n) 8)
def State.mirrorBuf (s : State) (d : DieId) (n : Nat) : Bool := leNat (s.rdBytes 0 (s.mirrorBase d n + 8) 1) = 1

/-- The first bytes of a buffer of a mirror area (R357). -/
def State.mirrorPart (s : State) (d : DieId) (n : Nat) (buf : Bool) (len : Nat) : List Seg :=
  s.mirrorSeg d n (if buf then 69632 else 4096) len

/-- Some lane of the package link with a log number is up (R409). -/
def State.linkUp (s : State) (port : Nat) : Bool := s.pkg.links.any fun p => p.1 % 512 = port && p.2.up

/-- A commit fails: the header keeps its generation, and the completion record may follow; the failure is told after that (R358). -/
def State.commitFailed (s : State) (d : DieId) (n : Nat) (code : Bits16) (val : Nat) : State :=
  s.modInst d n fun i => { i with committed := true, mfail := some (code, val) }

/-- Meaning of MIRROR_COMMIT: every strand of a mirrored session's action task has issued ENDS: STATELEN bytes are read and
written over the package link into the buffer that does not hold the committed generation (R358). A relay die that is fenced leaves the
session unprotected (R361). `inst` is what another device answers to the read. -/
def execMirrorCommit (die : DieId) (inst : InstAns) (s : State) : Result :=
  let n := inst.1.toNat
  let r := relayOf die
  .next <| match s.instAt die n with
    | none => s
    | some i =>
      let k := tdSession i.tsk.desc
      let e := s.sess k
      if !i.allOut || !s.mirrored i || i.mir || i.committed || (s.die die).fenced then s
      else if (s.die r).fenced then s.modInst die n fun i => { i with committed := true }
      else match s.span i.who .read e.stateva.toNat e.statelen.toNat with
        | .bad f => (s.recordFault i.who (i.corner die) 0 4 n f).commitFailed die n f.code f.va
        | .ok l =>
          let s := s.askSegs l
          let b := farFill inst.2 (farParts l 0) (s.nearBytes l)
          match if isFar l then farFault inst.2 e.stateva.toNat else none with
          | some f =>
            (if inst.2.err == some .bus then s.recordFault i.who (i.corner die) 0 4 n ⟨f.1, 10, 0, f.2.toNat, 0, .read, i.who.user, farPa l⟩
              else s).commitFailed die n f.1 f.2.toNat
          | none =>
            let w := s.mirrorPart r k (!s.mirrorBuf r k) b.length
            if !s.linkUp (64 + 4 * die.toNat) then s.commitFailed die n fLink (s.mirrorBase r k)
            else ((s.l2Segs true w).storeMarked w b).modInst die n fun i => { i with mir := true }

/-- Meaning of MIRROR_HEADER_WRITE: the writes are performed: GEN + 1 and the new BUF, written at once, commit the generation (R357,
R358). -/
def execMirrorHeaderWrite (die : DieId) (inst : Imm32) (s : State) : Result :=
  let n := inst.toNat
  let r := relayOf die
  .next <| match s.instAt die n with
    | none => s
    | some i =>
      if !i.mir || i.committed then s
      else
        let k := tdSession i.tsk.desc
        let h := s.mirrorSeg r k 0 16
        let b := leBytes 8 (s.mirrorGen r k + 1) ++ leBytes 8 (!s.mirrorBuf r k).toNat
        ((s.l2Segs true h).storeMarked h (b.map fun v => (v, false))).modInst die n fun i => { i with committed := true }

/-! ### Heartbeats, fencing and promotion (R359 to R361) -/

/-- CYC of 10 µs. -/
def beat : Nat := 8000

/-- Meaning of HEARTBEAT_SEND: a dispatcher's heartbeat goes over the package link to its partner, and through I/O die 0
(R359). A fenced die sends none. -/
def execHeartbeatSend (die : DieId) (s : State) : Result :=
  let x := s.die die
  let io := s.linkUp (64 + 4 * die.toNat + 1) && s.linkUp (64 + 4 * (relayOf die).toNat + 1)
  .next <|
    if x.fenced || s.pkg.safe || s.pkg.supply || s.cyc < x.hbsent + beat then s
    else s.setDie die { x with
      hbsent := s.cyc, hbdir := x.hbdir || s.linkUp (64 + 4 * die.toNat), hbio := x.hbio || io }

/-- A record in the head steward's log (R164). -/
def State.headLog (s : State) (code : Bits16) (v : Nat) : State :=
  s.modPkg fun p => { p with hslog := p.hslog ++ [(code, BitVec.ofNat 64 v)] }

/-- Meaning of HEARTBEAT_TICK: the 10 µs tick at which the head steward looks for a die's heartbeat: none on either path is a
miss; one that came through I/O die 0 alone is none, and the silent package link is reported with F_LINK (R359). -/
def execHeartbeatTick (die : DieId) (s : State) : Result :=
  let x := s.die die
  .next <|
    if s.cyc < x.hbtick + beat then s
    else
      let y := { x with
        hbtick := s.cyc, hbmiss := if x.hbdir || x.hbio then 0 else x.hbmiss + 1, hbdir := false, hbio := false,
        hblnk := x.hbio && !x.hbdir }
      let s := s.setDie die y
      if y.hblnk && !x.hblnk then s.headLog fLink (64 + 4 * die.toNat) else s

/-- The instance of a session's action task on a die that would be released next, or the latest one: what a shadow instance takes
its parameters from (log 20). -/
def State.nextAction (s : State) (d : DieId) (n : Nat) : Option (Nat × InstSt) :=
  let l := (s.die d).insts.filter fun p => tdAction p.2.tsk.desc && tdSession p.2.tsk.desc = n
  match l.find? fun p => p.2.st == .waiting && !p.2.arrival with
  | some p => some p
  | none => l.getLast?

/-- The release that the session's next action instance would have had: its own where it waits, else that of the latest and
MINSEP (R318, R360). -/
def State.nextRelease (s : State) (d : DieId) (i : InstSt) : Nat :=
  if i.st == .waiting then s.releaseOf d i else i.release + tdMinsep i.tsk.desc

/-- The shadow task's first instance enters the relay die's table: released at the later of the end of the copy and the release of
the session's next action instance (R360). -/
def State.shadowInst (s : State) (d : DieId) (t : TaskSt) (from0 : Option InstSt) (rel : Nat) : State :=
  let m := ((s.die d).lcount + 1) % 2 ^ 30
  let now := s.ptimeAt s.cyc
  let r : LaunchReq := { asker := .none, func := t.func, asn := (from0.map InstSt.asn).getD 0, priv := true, record := none, va := 0 }
  let i := newInst r (List.replicate 128 0) t now s.cyc [] fun _ => none
  let i := match from0 with
    | none => i
    | some p => { i with param := p.param, xb := p.xb }
  s.modDie d fun x => { x with
    lcount := m, insts := x.insts.put (d.toNat * 2 ^ 30 + m) { i with release := max rel now, arrival := false } }

/-- A mirrored session promoted: the committed buffer is copied to SHADOWVA, its poison with it, and the shadow's first instance
is made (R360). Without a committed generation nothing is copied. -/
def State.promote (s : State) (d : DieId) (n : Nat) (e : SessSt) : State :=
  let r := relayOf d
  let p := (s.nextAction d n).map Prod.snd
  let w : Who := ⟨e.func, (p.map InstSt.asn).getD 0, false, [], none, (p.map InstSt.who).elim ⟨2, 0, 0⟩ Who.cl⟩
  let b := s.nearBytes (s.mirrorPart r n (s.mirrorBuf r n) e.statelen.toNat)
  let s :=
    if s.mirrorGen r n = 0 then s
    else match s.span w .write e.shadowva.toNat b.length with
      | .ok l => (s.l2Segs true l).storeMarked l b
      | .bad f => s.recordFault w (mkCore r 0 0) 0 4 0 f
  match (s.die r).tasks.find e.shadow.toNat with
  | none => s
  | some t => s.shadowInst r t p (match p with
    | none => s.ptimeAt s.cyc
    | some i => s.nextRelease d i)

/-- The session whose relay die has failed runs on unprotected: F_RELAY is pushed at its action task (R361). -/
def State.unprotected (s : State) (d : DieId) (n : Nat) : State :=
  match (s.die (relayOf d)).tasks.find? fun p => tdAction p.2.desc && tdSession p.2.desc = n with
  | none => s.faultEvent (mkCore (relayOf d) 0 0) fRelay d.toNat 0 0
  | some p => s.faultEvent (Adm.corner ⟨relayOf d, p.2⟩) fRelay d.toNat p.1 0

/-- Meaning of RELAY_FAILURE: at the fourth miss in a row F_RELAY is recorded, the die is fenced, its mirrored sessions are
promoted on the relay die, and those that it served as relay are told (R359 to R361). -/
def execRelayFailure (die : DieId) (s : State) : Result :=
  let x := s.die die
  .next <|
    if x.fenced || x.hbmiss < 4 then s
    else
      let s := (s.headLog fRelay die.toNat).setDie die { x with fenced := true }
      let on (d : DieId) := s.pkg.sess.filter fun p => p.2.statelen != 0 && p.2.prim == d
      let s := (on die).foldl (fun (s : State) (p : Nat × SessSt) => s.promote die p.1 p.2) s
      (on (relayOf die)).foldl (fun (s : State) (p : Nat × SessSt) => s.unprotected die p.1) s

/-! ### HBM slots (R362 to R365) -/

/-- Class of slot i of a map (R363). -/
def slotClass (m : Billet) (i : Nat) : Nat := bits m (2 * i + 1) (2 * i)

/-- A map gives every class a slot (R363). -/
def slotMapOk (m : Billet) : Bool := (List.range 4).all fun c => (List.range 256).any fun i => slotClass m i = c

/-- Up to n of the oldest accesses of some classes in turn, and the queues without them (R364). -/
def takeHbm (pch : Nat) : List Nat → Nat → Tab (List Nat) → List Nat × Tab (List Nat)
  | [], _, q => ([], q)
  | c :: r, n, q =>
    let l := q.val [] (4 * pch + c)
    let rest := l.drop n
    let p := takeHbm pch r (n - l.length) (if rest.isEmpty then q.del (4 * pch + c) else q.put (4 * pch + c) rest)
    (l.take n ++ p.1, p.2)

/-- Pseudo-channel of a line on its home die, with its stack (R362). -/
def pchOf (n : Nat) : Nat :=
  let pa := 128 * n
  ((List.range 4).map fun i => pa / 2 ^ (7 + 7 * i) % 128).foldl Nat.xor (pa / 2 ^ 35 % 4)

/-- A line lies in a pseudo-channel of a die (R362). -/
def inPch (d : DieId) (pch n : Nat) : Bool := 128 * n < 2 ^ 39 && 128 * n / 2 ^ 37 = d.toNat && pchOf n = pch

/-- Arrivals whose lines lie in a pseudo-channel enter the queue of their class as long as it holds fewer than 8; others wait outside
(R362, R364). -/
def enterHbm (d : DieId) (pch : Nat) (q : Tab (List Nat)) (arr : HbmIn) : Tab (List Nat) :=
  arr.foldl (fun q a =>
    let k := 4 * pch + a.2.toNat
    let l := q.val [] k
    if inPch d pch a.1.toNat && l.length < 8 then q.put k (l ++ [a.1.toNat]) else q) q

/-- Accesses that wait for a pseudo-channel enter its queues, oldest first, as long as that of their class has room; the others wait on
(R364). -/
def admitHbm (d : DieId) (pch : Nat) : List (Nat × Nat) → Tab (List Nat) → Tab (List Nat) × List (Nat × Nat)
  | [], q => (q, [])
  | (n, c) :: r, q =>
    let l := q.val [] (4 * pch + c)
    if inPch d pch n && l.length < 8 then admitHbm d pch r (q.put (4 * pch + c) (l ++ [n]))
    else
      let o := admitHbm d pch r q
      (o.1, (n, c) :: o.2)

/-- Meaning of HBM_SLOT: a slot of class c carries the three oldest accesses of that class, then of the next classes in order,
wrapping round: those of the L2, and `arr` of units whose accesses the model does not count (log 43); of the six granules it carries,
`cor` had an error that ECC corrected, and `unc` one that poisons the granule (R363, R364, R365). -/
def execHbmSlot (die : DieId) (pch : Bits7) (arr : HbmIn) (cor unc : Bits6) (s : State) : Result :=
  let p := pch.toNat
  let x := s.die die
  let i := x.slot.val 0 p % 256
  let c := slotClass x.smap i
  let w := admitHbm die p s.l2.reqs x.hbmq
  let r : List Nat × Tab (List Nat) := takeHbm p ((List.range 4).map fun j => (c + j) % 4) 3 (enterHbm die p w.1 arr)
  let grans : List (Nat × Nat) := (r.1.flatMap fun l => [2 * l, 2 * l + 1]).zip (List.range 6)
  let fixed := (grans.filter fun g => cor.getLsbD g.2).length
  let s : State := { s with l2 := { s.l2 with reqs := w.2 } }
  .next ((s.setDie die { x with
    hbmq := r.2, slot := x.slot.put p ((i + 1) % 256), ecc := if fixed = 0 then x.ecc else x.ecc.put p (x.ecc.val 0 p + fixed) }).poison
      ((grans.filter fun g => unc.getLsbD g.2).map Prod.fst))

/-- Meaning of SLOT_MAP_APPLY: a new slot map takes effect at a frame boundary on every pseudo-channel of the die (R363). -/
def execSlotMapApply (die : DieId) (s : State) : Result :=
  let x := s.die die
  .next <| match x.smapNew with
    | none => s
    | some m => if x.slot.all fun p => p.2 = 0 then s.setDie die { x with smap := m, smapNew := none } else s

/-! ### Page walks (R370, R371) -/

/-- The leaf that a walk which succeeds ends at: its level and entry. -/
def State.leafFrom (s : State) (va : Nat) : List Nat → Nat → Option (Nat × Word)
  | [], _ => none
  | level :: rest, table =>
    let ea := table + 8 * vaIndex va level
    let p := s.entryAt ea
    if pteLeaf p then some (level, p) else s.leafFrom va rest (ptePa p)

/-- Set of an entry of the second-level cache, which is not architected (R279, log 33). -/
def setOf (e : TlbEnt) : Nat := Config.policy 3 (e.page.toNat + 2 ^ 64 * (e.size + 8 * (e.asn.toNat + 4096 * e.func.toNat))) % 256

/-- A translation entered in a cache: where the ways of the entries with which it shares a set are full, some one of them is lost (R370,
R279). The TLB of a core is one set of 64 ways. -/
def fillTlb (ways pick : Nat) (same : TlbEnt → Bool) (e : TlbEnt) (l : List TlbEnt) : List TlbEnt :=
  let l := l.filter fun f => !(f.func == e.func && f.asn == e.asn && f.page == e.page && f.size == e.size)
  let mine := l.filter same
  match if mine.length < ways then none else mine[pick % mine.length]? with
  | none => e :: l
  | some f => e :: l.erase f

/-- The entries that a walk reads, looked up in their home slices in class 14 (R275, R370). -/
def State.walkLook (s : State) (hsc va : Nat) : List Nat → Nat → State
  | [], _ => s
  | level :: rest, table =>
    let ea := table + 8 * vaIndex va level
    if !isHbm ea then s
    else
      let p := s.entryAt ea
      let t := s.l2Line ⟨2, 14, hsc⟩ 0 1024 (ea / 128) false
      if !pteV p || pteLeaf p then t else t.walkLook hsc va rest (ptePa p)

/-- Meaning of PAGE_WALK_DONE: a walk ends with a translation, which the caches of the core and of its cluster take, or with a
fault, which is recorded and never cached (R370, R371). -/
def execPageWalkDone (core : CoreId) (seat : SeatId) (func : FuncId) (asn : Bits12) (va : Word) (acc : Access) (s : State) : Result :=
  let a := va.toNat % 2 ^ 57
  let cl := s.clsSeat core seat
  let w : Who := ⟨func, asn, acc.user, [], some (coreDie core), cl⟩
  let s := match (s.func func).roots.find asn.toNat with
    | none => s
    | some r => s.walkLook cl.hsc a [3, 2, 1, 0] r.toNat
  .next <| match s.xlate w acc.kind a with
    | .bad f => s.recordFault w core seat 0 (bInst (s.seat core seat).billet) f
    | .ok _ =>
      match (s.func func).roots.find asn.toNat with
      | none => s
      | some r =>
        match s.leafFrom a [3, 2, 1, 0] r.toNat with
        | none => s
        | some (level, p) =>
          let size := leafSize level p
          let e : TlbEnt := { func := func, asn := asn, page := BitVec.ofNat 64 (a / pageBytes size), size := size, pte := p }
          (s.modCore core fun x => { x with tlb := fillTlb 64 (Config.freeNat 64 s.free) (fun _ => true) e x.tlb }).modCluster (coreDie core)
            (clusterOf (coreX core) (coreY core)) fun u => { u with tlb2 := fillTlb 16 (Config.freeNat 65 s.free) (fun f => setOf f = setOf e) e u.tlb2 }

/-! ### Memory keys (R373, R374) -/

/-- An entry of the key table. -/
def State.keyAt (s : State) (k : Nat) : KeySt := s.pkg.keys.val ⟨0, 0⟩ k

/-- A key's entry replaced. -/
def State.setKey (s : State) (k : Nat) (e : KeySt) : State := s.modPkg fun p => { p with keys := p.keys.put k e }

/-- Meaning of KEY_LOAD: an EMPTY entry is loaded inside a secured session on the DOE mailbox of a function that holds the key
number, and becomes ACTIVE or BYPASS; any other load is refused (R373, R374, R393). -/
def execKeyLoad (func : FuncId) (key : Bits10) (bypass : Bool) (material : Material) (secured : Bool) (s : State) : Result :=
  let k := key.toNat
  let e := s.keyAt k
  .next <|
    if !secured || !(s.func func).doe || !s.holds func .key k || bits e.word 1 0 != 0 then s
    else s.setKey k
      ⟨BitVec.ofNat 64 ((if bypass then 2 else 1) + func.toNat * 4 + (bits e.word 23 8 + 1) % 2 ^ 16 * 2 ^ 8),
        if bypass then 0 else material⟩

/-- Translations of a function's address spaces leave every cache (R279, R374). -/
def State.flushFunc (s : State) (f : FuncId) : State :=
  let keep (l : List TlbEnt) : List TlbEnt := l.filter fun e => e.func != f
  { s with cores := s.cores.mapV fun x => { x with tlb := keep x.tlb }
           clusters := s.clusters.mapV fun u => { u with tlb2 := keep u.tlb2 } }

/-- A loaded key becomes RETIRING, and the translations of its function are invalidated (R374). -/
def State.retireKey (s : State) (k : Nat) : State :=
  let e := s.keyAt k
  let st := bits e.word 1 0
  if st = 1 || st = 2 then (s.setKey k { e with word := setBits e.word 1 0 3 }).flushFunc (BitVec.ofNat 5 (bits e.word 6 2)) else s

/-- Meaning of KEY_RETIRE (R374, steps 1 and 2). -/
def execKeyRetire (key : Bits10) (s : State) : Result := .next (s.retireKey key.toNat)

/-- No access of a function is outstanding on any die (R374). -/
def State.settled (s : State) (f : FuncId) : Bool := !([0, 1, 2, 3] : List DieId).any fun d => s.pendingAccess d f

/-- The lines of the L2 that carry a key number are written back and invalidated (R373, R374). -/
def State.flushKey (s : State) (k : Nat) : State := { s with l2 := s.l2.expel 0 fun _ e => e.key = k }

/-- A retiring key's lines leave the L2, its material is cleared and its entry is EMPTY (R374, steps 4 and 5). -/
def State.clearKey (s : State) (k : Nat) : State :=
  let e := s.keyAt k
  (s.flushKey k).setKey k ⟨setBits e.word 1 0 0, 0⟩

/-- Meaning of KEY_RETIRE_DONE: every access translated under the key has been performed: its lines leave the L2, the material is
cleared and the entry is EMPTY (R374, steps 3 to 5). -/
def execKeyRetireDone (key : Bits10) (s : State) : Result :=
  let k := key.toNat
  let e := s.keyAt k
  .next <|
    if bits e.word 1 0 != 3 || !s.settled (BitVec.ofNat 5 (bits e.word 6 2)) then s
    else s.clearKey k

end Sys2Proof.Machine
end

