-- ==== Sys2Proof/Machine/EvMailbox.lean ====
section
/-!
DEFINITION. The host mailbox (R379 to R381, R387): the head steward's answers to requests, each from the function that wrote
its request buffer and HMDB.
-/
namespace Sys2Proof.Machine

/-! ### Interfaces and answers (R380, R392) -/

/-- An interface is locked: CONFIG_LOCKED or RUN (R392). -/
def State.locked (s : State) (f : FuncId) : Bool := (s.func f).tdisp == .locked || (s.func f).tdisp == .run

/-- Bound instances of a function are killed; the requests are no newcomer's, who cannot withdraw them (R392). -/
def State.killBound (s : State) (f : FuncId) : State :=
  s.dies.foldl (fun (s : State) (p : Nat × DieSt) => p.2.insts.foldl (fun (s : State) (q : Nat × InstSt) =>
    if q.2.func = f && !q.2.seats.isEmpty then
      (s.requestAll (BitVec.ofNat 2 p.1) q.1 1).modInst (BitVec.ofNat 2 p.1) q.1 fun i => { i with client := none, cutReq := false }
    else s) s) s

/-- An attempt against a locked interface: it is logged, the interface goes to ERROR, and its bound instances are killed
(R392). -/
def State.breach (s : State) (f : FuncId) (what : Nat) : State :=
  (s.modFunc f fun x => { x with tdisp := .error, log := x.log ++ [BitVec.ofNat 64 what] }).killBound f

/-- The response buffer is written, and HMDB is cleared (R380). -/
def State.mailAnswer (s : State) (f : FuncId) (status : Nat) : State :=
  s.modFunc f fun x => { x with mresp := leBytes 1 status ++ List.replicate 63 0, hmdb := false }

/-- A request of a type with some fields stands in a function's buffer, and its doorbell is rung (R380). -/
def State.mailed (s : State) (f : FuncId) (type : Nat) (args : List Nat) : Bool :=
  let x := s.func f
  x.hmdb && field x.mreq 0 1 = type && x.mreq.drop 8 == Config.mailBody type args

/-- A request of a type that stands in a function's buffer is answered: status 1 in the safe state, where the type is for
function 0 only, or where the change is refused (none), and status 3 where it would change a locked interface
(R380, R381, R392, R396). -/
def mailbox (f : FuncId) (type : Nat) (args : List Nat) (f0 : Bool) (locks : Option FuncId) (s : State)
    (act : State → Option State) : Result :=
  .next <|
    if !s.mailed f type args then s
    else if s.pkg.safe || (f0 && f != 0) then s.mailAnswer f 1
    else if locks.any s.locked then (s.breach (locks.getD 0) type).mailAnswer f 3
    else match act s with
      | none => s.mailAnswer f 1
      | some t => t.mailAnswer f 0

/-! ### ALLOC and RELEASE (R379) -/

/-- A kind of resource as a request names it (log 92). -/
def kindNo : ResKind → Nat
  | .cores => 0
  | .hbm => 1
  | .l2class => 2
  | .hbmClass => 3
  | .key => 4
  | .porterQueue => 5
  | .vector => 6
  | .session => 7
  | .resident => 8
  | .window => 9
  | .memQueue => 10
  | .priv => 11
  | .aperture => 12

/-- Two grants of a kind share something. -/
def Grant.meets (a b : Grant) : Bool :=
  a.kind == b.kind && match a.kind with
    | .cores => gd a.lo = gd b.lo && gx a.lo ≤ gx b.hi && gx b.lo ≤ gx a.hi && gy a.lo ≤ gy b.hi && gy b.lo ≤ gy a.hi
    | .porterQueue | .vector | .priv | .aperture => false
    | _ => a.lo.toNat ≤ b.hi.toNat && b.lo.toNat ≤ a.hi.toNat

/-- What is left of a grant without another of its kind: ranges, or for cores rectangles (R381). -/
def Grant.minus (a b : Grant) : List Grant :=
  match a.kind with
  | .aperture => if a = b then [] else [a]
  | .cores =>
    if !a.meets b then [a]
    else
      let at' (x y : Nat) : Word := BitVec.ofNat 64 (x + y * 2 ^ 8 + gd a.lo * 2 ^ 16)
      let part (x0 y0 x1 y1 : Nat) : List Grant := if x0 < x1 && y0 < y1 then [⟨.cores, at' x0 y0, at' (x1 - 1) (y1 - 1)⟩] else []
      let l := max (gx a.lo) (gx b.lo)
      let r := min (gx a.hi + 1) (gx b.hi + 1)
      part (gx a.lo) (gy a.lo) l (gy a.hi + 1) ++ part r (gy a.lo) (gx a.hi + 1) (gy a.hi + 1)
        ++ part l (gy a.lo) r (gy b.lo) ++ part l (gy b.hi + 1) r (gy a.hi + 1)
  | _ =>
    if b.hi.toNat < a.lo.toNat || a.hi.toNat < b.lo.toNat then [a]
    else (if a.lo.toNat < b.lo.toNat then [{ a with hi := b.lo - 1 }] else [])
      ++ (if b.hi.toNat < a.hi.toNat then [{ a with lo := b.hi + 1 }] else [])

/-- Some grants without another (R381). -/
def withoutGrant (l : List Grant) (g : Grant) : List Grant := l.flatMap fun h => if h.kind == g.kind then h.minus g else [h]

/-- Every part of a grant lies in some of those given: it is held (R381). -/
def coveredBy (l : List Grant) (g : Grant) : Bool :=
  ((l.filter fun h => h.kind == g.kind).foldl (fun rest h => rest.flatMap fun x => x.minus h) [g]).isEmpty

/-- A grant names something: the corners or ends are in order, and HBM is in whole GiB (R379). -/
def Grant.shaped (g : Grant) : Bool :=
  match g.kind with
  | .cores => gd g.lo = gd g.hi && gx g.lo ≤ gx g.hi && gy g.lo ≤ gy g.hi
  | .hbm => g.lo.toNat ≤ g.hi.toNat && g.lo.toNat % 2 ^ 30 = 0 && (g.hi.toNat + 1) % 2 ^ 30 = 0
  | .aperture => true
  | _ => g.lo.toNat ≤ g.hi.toNat

/-- The lowest number that a table does not hold. -/
def firstGap {α : Type} (t : Tab α) : Nat := ((List.range (t.length + 1)).find? fun n => (t.find n).isNone).getD t.length

/-- Numbers from lo to hi, none of which a table holds, the first the lowest free one (R379). -/
def freshRun {α : Type} (t : Tab α) (lo hi : Nat) : Bool :=
  lo = firstGap t && (List.range (hi + 1 - lo)).all fun k => (t.find (lo + k)).isNone

/-- A range of physical addresses keeps off the mirror areas of the dies (R357). -/
def State.offMirror (s : State) (lo hi : Nat) : Bool :=
  ([0, 1, 2, 3] : List DieId).all fun d =>
    let m := d.toNat * 2 ^ 37 + (s.die d).mirbase
    hi < m || m + 135168 * 8192 ≤ lo

/-- How many of a counted kind all functions hold. -/
def State.heldAll (s : State) (k : FuncSt → Nat) : Nat := sum (s.funcs.map fun p => k p.2)

/-- A grant within its limits: aligned rectangles of cores (R264), whole GiB off the mirror areas (R357), numbers that exist, and for
queues and vectors numbers that go on from the lowest not held (R379, R382). -/
def State.grantOk (s : State) (f : FuncId) (g : Grant) : Bool :=
  let lo := g.lo.toNat
  let hi := g.hi.toNat
  let below (n : Nat) : Bool := lo ≤ hi && hi < n
  match g.kind with
  | .cores =>
    let w := gx g.hi + 1 - gx g.lo
    let h := gy g.hi + 1 - gy g.lo
    gd g.lo = gd g.hi && gd g.lo < 4 && gx g.lo ≤ gx g.hi && gy g.lo ≤ gy g.hi && gx g.hi < 8 && gy g.hi < 8
      && isPow2 w && isPow2 h && gx g.lo % w = 0 && gy g.lo % h = 0
  | .hbm => below (2 ^ 39) && lo % 2 ^ 30 = 0 && (hi + 1) % 2 ^ 30 = 0 && s.offMirror lo hi
  | .l2class => below 14
  | .hbmClass => below 4
  | .key => below 1024
  | .porterQueue => below 256 && freshRun (s.func f).pqs lo hi && s.heldAll (fun x => x.pqs.length) + (hi + 1 - lo) ≤ 256
  | .vector => below 2048 && freshRun (s.func f).vec lo hi && s.heldAll (fun x => x.vec.length) + (hi + 1 - lo) ≤ 2048
  | .session => below 8192
  | .resident => below 256
  | .window => below 32
  | .memQueue => below (4 * 4096)
  | .priv => below 256 && (List.range (hi + 1 - lo)).all fun k => ((s.func f).pqs.find (lo + k)).isSome
  | .aperture => true

/-- A resource enters a function's holding; queues, vectors and PRIV bits appear in its BAR0 (R378, R379, R382). -/
def FuncSt.take (x : FuncSt) (g : Grant) : FuncSt :=
  let span := (List.range (g.hi.toNat + 1 - g.lo.toNat)).map (· + g.lo.toNat)
  let x := { x with grants := x.grants ++ [g] }
  match g.kind with
  | .porterQueue => { x with pqs := span.foldl (fun (t : Tab PorterQ) k => t.put k .reset) x.pqs }
  | .vector => { x with vec := span.foldl (fun (t : Tab VecSt) k => t.put k .reset) x.vec }
  | .priv => { x with pqs := x.pqs.map fun p => if span.contains p.1 then (p.1, { p.2 with priv := true }) else p }
  | .aperture => { x with bar2 := g.lo }
  | _ => x

/-- Meaning of ALLOC: function 0 grants a range of a resource that no other function holds (R379, R381). -/
def execAlloc (func target : FuncId) (kind : ResKind) (lo hi : Word) (s : State) : Result :=
  mailbox func 1 [target.toNat, kindNo kind, lo.toNat, hi.toNat] true (some target) s fun s =>
    let g : Grant := ⟨kind, lo, hi⟩
    let held := s.funcs.any fun p => p.1 != target.toNat && p.2.grants.any g.meets
    if !s.grantOk target g || held then none
    else some (s.modFunc target fun x => x.take g)

/-- A live instance uses a resource of its function: the cores, classes, session or resident slot of its task; and what its
pages, keys, queues and packets may name (R379, R381, log 22). -/
def InstSt.uses (i : InstSt) (g : Grant) : Bool :=
  let d := i.tsk.desc
  let has (n : Nat) : Bool := g.lo.toNat ≤ n && n ≤ g.hi.toNat
  match g.kind with
  | .cores =>
    gd g.lo = tdDie d && (tdPlace d = 1 || (gx g.lo < tdRx d + tdW d && tdRx d ≤ gx g.hi && gy g.lo < tdRy d + tdH d && tdRy d ≤ gy g.hi))
  | .l2class => has (tdL2c d)
  | .hbmClass => has (tdHsc d)
  | .session => has (tdSession d)
  | .resident => tdFlag d 4 && has (tdResslot d)
  | .porterQueue | .priv => match i.asker with
    | .porter _ q _ => has q.toNat
    | _ => false
  | .vector | .aperture => false
  | .hbm | .key | .window | .memQueue => true

/-- A resource leaves a function's holding, with the entries that follow it: steering entries and egress bindings of a session,
a resident slot, queues, vectors and windows (R379). -/
def State.drop (s : State) (f : FuncId) (g : Grant) : State :=
  let has (n : Nat) : Bool := g.lo.toNat ≤ n && n ≤ g.hi.toNat
  let s := s.modFunc f fun x => { x with grants := withoutGrant x.grants g }
  match g.kind with
  | .session =>
    { s with dies := s.dies.mapV fun x =>
      { x with steer := x.steer.filter fun p => !has (p.1 / 2), binds := x.binds.filter fun p => !has p.2.session.toNat } }
  | .resident => s.modPkg fun p => { p with res := p.res.filter fun q => !has q.1 }
  | .porterQueue => s.modFunc f fun x => { x with pqs := x.pqs.filter fun p => !has p.1 }
  | .vector => s.modFunc f fun x => { x with vec := x.vec.filter fun p => !has p.1 }
  | .priv => s.modFunc f fun x => { x with pqs := x.pqs.map fun p => if has p.1 then (p.1, { p.2 with priv := false }) else p }
  | .window => s.modPkg fun p => { p with fwin := p.fwin.map fun q => if has q.1 then (q.1, { q.2 with en := false }) else q }
  | .memQueue =>
    { s with dies := s.dies.map fun p => (p.1, { p.2 with queues := p.2.queues.filter fun q => !has (p.1 * 4096 + q.1) }) }
  | .aperture => s.modFunc f fun x => { x with bar2 := 0 }
  | _ => s

/-- Meaning of RELEASE: what the function holds of a range, in one grant or several, is withdrawn, unless a live instance uses it or the
interface is locked (R381, R392). -/
def execRelease (func target : FuncId) (kind : ResKind) (lo hi : Word) (s : State) : Result :=
  mailbox func 2 [target.toNat, kindNo kind, lo.toNat, hi.toNat] true (some target) s fun s =>
    let g : Grant := ⟨kind, lo, hi⟩
    let used := s.dies.any fun p => p.2.insts.any fun q => q.2.func == target && q.2.uses g
    if !g.shaped || !coveredBy (s.func target).grants g || used then none else some (s.drop target g)

/-! ### QCFG, STEER, EGRESS, SESS, ASROOT (R381) -/

/-- Meaning of QCFG: a memory queue configured, empty (R238). Of an outbox the host names only who may pop (R266). -/
def execQcfg (func : FuncId) (die : DieId) (qnum : Bits12) (base : Word) (lrsz : Bits8) (push : Imm32) (pdev : PushDevs)
    (pop : Imm32) (mirror : Word) (s : State) : Result :=
  mailbox func 3 (die.toNat :: qnum.toNat :: base.toNat :: lrsz.toNat :: push.toNat :: pop.toNat :: mirror.toNat
    :: pdev.flatMap fun p => [p.1.toNat, p.2.toNat]) false (some func) s fun s =>
    let n := qnum.toNat
    if 0xFF8 ≤ n && func = 0 then (s.queue? die n).map fun q => s.setQueue die n { q with pop := pop }
    else if !s.holds func .memQueue (die.toNat * 4096 + n) || base.toNat % 64 != 0 || 2 ^ 57 ≤ base.toNat || 23 < lrsz.toNat
        || mirror.toNat % 16 != 0 || 2 ^ 57 ≤ mirror.toNat then none
    else some (s.setQueue die n
      { func := func, base := base, lrsz := lrsz.toNat, push := push, pop := pop, pushDev := pdev,
        mirror := if mirror = 0 then none else some mirror, head := 0, tail := 0, recs := [], drops := 0 })

/-- Bits of word 0 of a steering entry that are not reserved (R338). -/
def steerMask : Word := 0x00000FFF0FFF0773

/-- Meaning of STEER: word 0 of an entry of a session that the function holds is written; an armed entry is disarmed first, its
slots READY with their contents (R338, R379, R381). -/
def execSteer (func : FuncId) (die : DieId) (entry : Bits14) (w0 : Word) (s : State) : Result :=
  mailbox func 4 [die.toNat, entry.toNat, w0.toNat] false (some func) s fun s =>
    let i := entry.toNat
    if !s.holds func .session (i / 2) || 255 < bits w0 23 16 + bits w0 27 24 then none
    else
      let s := s.disarmEntry die i
      some (s.setSteer die i { s.steerAt die i with w0 := w0 &&& steerMask, fresh := true })

/-- Meaning of EGRESS: a binding of a session that the function holds (R342, R379, R381). -/
def execEgress (func : FuncId) (die : DieId) (eix : Bits14) (port mode : Bits8) (session : Bits16) (ip : Bits128) (job pid : Imm32)
    (s : State) : Result :=
  mailbox func 5 [die.toNat, eix.toNat, port.toNat, mode.toNat, session.toNat, ip.toNat, job.toNat, pid.toNat] false (some func) s fun s =>
    let old := (s.die die).binds.find eix.toNat
    if 1 < port.toNat || 2 < mode.toNat || !s.holds func .session session.toNat || old.any (fun b => b.func != func) then none
    else
      let b : BindSt := { func := func, session := session, port := port = 1, mode := mode, ip := ip, job := job, pid := pid }
      some (s.modDie die fun x => { x with binds := x.binds.put eix.toNat b })

/-- Meaning of SESS: the record of a session that the function holds (R356, R379). -/
def execSess (func : FuncId) (session : Bits16) (prim : Bits2) (stateva : Word) (statelen : Imm32) (shadowva : Word)
    (shadow : Bits16) (s : State) : Result :=
  mailbox func 6 [session.toNat, prim.toNat, stateva.toNat, statelen.toNat, shadowva.toNat, shadow.toNat] false none s fun s =>
    if !s.holds func .session session.toNat || stateva.toNat % 64 != 0 || shadowva.toNat % 64 != 0 || statelen.toNat % 64 != 0
        || 65536 < statelen.toNat then none
    else some (s.modSess session.toNat fun e => { e with
      prim := prim, stateva := stateva, statelen := statelen, shadowva := shadowva, shadow := shadow, func := func })

/-- Meaning of ASROOT: the root of an address space, aligned to 2 MiB (R367). -/
def execAsroot (func : FuncId) (asn : Bits12) (root : Word) (s : State) : Result :=
  mailbox func 9 [asn.toNat, root.toNat] false (some func) s fun s =>
    if root.toNat % 2 ^ 21 != 0 || 2 ^ 52 ≤ root.toNat then none
    else some (s.modFunc func fun x => { x with roots := x.roots.put asn.toNat root })

/-! ### INSTALL and REMOVE (R70, R71, R195, R387) -/

/-- A weights section: its slice offset, whether scale slices, Q, and its bytes with their poison. -/
structure Weights where
  off : Nat
  scl : Bool
  q : Nat
  data : List (Byte × Bool)

/-- Bytes with poison read for a function in address space 0. -/
def State.readFunc (s : State) (far : FarReads) (f : FuncId) (va n : Nat) : State × Option (List (Byte × Bool)) :=
  match s.span (.ofFunc f) .read va n with
  | .ok l =>
    let o := s.farRead far va false l
    (o.1, o.2.toOption)
  | .bad _ => (s, none)

/-- The same without the poison. -/
def State.readPlain (s : State) (far : FarReads) (f : FuncId) (va n : Nat) : State × Option (List Byte) :=
  let o := s.readFunc far f va n
  (o.1, o.2.map fun l => l.map Prod.fst)

/-- Steps of a placement: 16,384 bytes each. -/
def Weights.steps (w : Weights) : Nat := w.data.length / 16384
/-- Bytes that a step writes to each slice (R213). -/
def Weights.per (w : Weights) : Nat := if w.q = 2 then 64 else 128
/-- A section within its limits (R213, R387). -/
def Weights.ok (w : Weights) : Bool :=
  w.q ≤ 2 && w.off % 64 = 0 && w.data.length % 16384 = 0 && w.off + w.per * w.steps ≤ (if w.scl then 2048 else 65536)

/-- The weights sections of an image, if it can be read (R71, R387). -/
def State.readWeights (s : State) (far : FarReads) (f : FuncId) (image off : Nat) : Nat → State × Option (List Weights)
  | 0 => (s, some [])
  | n + 1 =>
    match s.readWeights far f image off n with
    | (s, none) => (s, none)
    | (s, some l) => match s.readPlain far f (image + off + 32 * n) 32 with
      | (s, none) => (s, none)
      | (s, some h) =>
        if field h 4 1 != 4 then (s, some l)
        else
          let a := field h 24 8
          let o := s.readFunc far f (image + field h 16 8) (field h 8 8)
          (o.1, o.2.map fun d => l ++ [⟨a % 2 ^ 16, a.testBit 16, a / 2 ^ 17 % 4, d⟩])

/-- The descriptors of a resident image keep to R387: each is RESIDENT with the slot. -/
def State.residentTab (s : State) (far : FarReads) (f : FuncId) (dtab slot : Nat) : Nat → State × Bool
  | 0 => (s, true)
  | n + 1 =>
    let p := s.residentTab far f dtab slot n
    let o := p.1.readPlain far f (dtab + 256 * n) 256
    (o.1, p.2 && o.2.any fun d => tdFlag d 4 && tdResslot d = slot)

/-- An image read for INSTALL: its number of tasks and its weights, or none where it breaks R387. Its task records are not read: what
an image whose records break R74 does is open (R74, log 69). -/
def State.readImage (s : State) (far : FarReads) (f : FuncId) (image dtab slot : Nat) : State × Option (Nat × List Weights) :=
  match s.readPlain far f image 64 with
  | (s, none) => (s, none)
  | (s, some h) =>
    if field h 0 4 != 0x4F50415A || field h 4 2 != 1 || field h 6 2 != 3 || field h 8 2 != slot then (s, none)
    else match s.readWeights far f image (field h 24 8) (field h 10 2) with
      | (s, none) => (s, none)
      | (s, some l) =>
        let o := s.residentTab far f dtab slot (field h 20 4)
        (o.1, if l.all Weights.ok && o.2 then some (field h 20 4, l) else none)

/-- A section written to the slices of a core, as the steps of a WLOAD would (R213, R387). -/
def CoreSt.placeWeights (x : CoreSt) (w : Weights) : CoreSt :=
  (List.range w.steps).foldl (fun (x : CoreSt) k =>
    (List.range (if w.q = 2 then 256 else 128)).foldl (fun (y : CoreSt) j =>
      let l := (w.data.drop (16384 * k + w.per * j)).take w.per
      let c := if w.q = 1 then 128 + j else j
      if w.scl then { y with wsc := putSlice y.wsc 32 c (w.off + w.per * k) l }
      else { y with wel := putSlice y.wel 1024 c (w.off + w.per * k) l }) x) x

/-- Stripes that a section writes, in the form of a weight grant (R195). -/
def Weights.stripes (w : Weights) : Word :=
  let one := if w.scl then 2 ^ 16 else
    sum ((List.range 16).map fun s => if w.off < 4096 * (s + 1) && 4096 * s < w.off + w.per * w.steps then 2 ^ s else 0)
  BitVec.ofNat 64 ((if w.q = 1 then 0 else one) + (if w.q = 0 then 0 else one * 2 ^ 32))

/-- Cores that a pair of masks names (R381). -/
def maskCores (dmask : Bits8) (cmask : Word) : List CoreId :=
  ([0, 1, 2, 3] : List DieId).flatMap fun d => (dieCores d).filter fun c => dmask.getLsbD d.toNat && cmask.getLsbD (8 * coreY c + coreX c)

/-- Meaning of INSTALL: a checked image's weights are placed on every core named, and their stripes leave every weight grant of
those cores (R195, R387). -/
def execInstall (func : FuncId) (rslot dmask : Bits8) (cmask image : Word) (tab : TabFar) (s : State) : Result :=
  mailbox func 7 [rslot.toNat, dmask.toNat, cmask.toNat, image.toNat, tab.1.toNat] false none s fun s =>
    if !s.holds func .resident rslot.toNat then none
    else match s.readImage tab.2 func image.toNat tab.1.toNat rslot.toNat with
      | (_, none) => none
      | (s, some (n, l)) =>
        let st := l.foldl (fun m w => m ||| w.stripes) (0 : Word)
        let s := (maskCores dmask cmask).foldl (fun (s : State) c => s.modCore c fun x =>
          { (l.foldl CoreSt.placeWeights x) with wgrant := x.wgrant.mapV fun g => g &&& ~~~ st }) s
        let r : ResSt := { func := func, ntask := n, dtab := tab.1, dmask := dmask, cmask := cmask, stripes := st }
        some (s.modPkg fun p => { p with res := p.res.put rslot.toNat r })

/-- Meaning of REMOVE: a resident slot is removed, unless a live instance uses it (R381) or a shadow task, whose weights it pins (R361).
-/
def execRemove (func : FuncId) (rslot : Bits8) (s : State) : Result :=
  mailbox func 8 [rslot.toNat] false none s fun s =>
    let n := rslot.toNat
    let names (d : List Byte) : Bool := tdFlag d 4 && tdResslot d = n
    let used := s.dies.any fun p => p.2.insts.any (fun q => names q.2.tsk.desc)
      || p.2.tasks.any fun q => names q.2.desc && s.isShadow ⟨BitVec.ofNat 2 p.1, q.2⟩
    match s.pkg.res.find n with
    | none => none
    | some r => if r.func != func || used then none else some (s.modPkg fun p => { p with res := p.res.del n })

/-! ### CWM and SMAP (R276, R278, R363) -/

/-- The function that holds an L2 class. -/
def State.classOwner (s : State) (c : Nat) : Option Nat :=
  (s.funcs.find? fun p => p.2.grants.any fun g => g.kind == .l2class && g.lo.toNat ≤ c && c ≤ g.hi.toNat).map Prod.fst

/-- A mask shares a way with a class of another function (R276). -/
def State.sharesWay (s : State) (m : Tab Imm32) (c : Nat) (ways : Bits16) : Bool :=
  (List.range 14).any fun k => k != c && (s.classOwner k).isSome && s.classOwner k != s.classOwner c
    && (m.val 0 k &&& ways.zeroExtend 32) != 0

/-- A core runs a task of a class. -/
def State.runsClass (s : State) (c : CoreId) (n : Nat) : Bool :=
  (s.core c).occupied.any fun k => (s.instAt (coreDie c) (bInst (s.seat c k).billet)).any fun i => tdL2c i.tsk.desc = n

/-- The cores that run tasks of a class are drained, each seat under its own task's policy, and leave the admitted capacity until the
resize is applied (R278, R336). -/
def State.drainClass (s : State) (d : DieId) (n : Nat) : State :=
  let cs := (dieCores d).filter fun c => s.runsClass c n && !s.gone c
  cs.foldl State.takeAway (s.modDie d fun x => { x with draining := x.draining ++ cs })

/-- Meaning of CWM: the new mask is named, and the cores of a class that loses ways are drained; it takes effect with CWM_APPLY
(R276, R278). -/
def execCwm (func : FuncId) (die : DieId) (cls : Bits4) (ways : Bits16) (s : State) : Result :=
  mailbox func 0xA [die.toNat, cls.toNat, ways.toNat] true none s fun s =>
    let x := s.die die
    let m := (x.cwmNew.getD x.cwm)
    let c := cls.toNat
    if c < 14 && s.sharesWay m c ways then none
    else
      let s := s.setDie die { x with cwmNew := some (m.put c (ways.zeroExtend 32)) }
      some (if (s.die die).losing c then s.drainClass die c else s)

/-- Meaning of SMAP: a new slot map that gives every class a slot; it takes effect with SLOT_MAP_APPLY (R363). -/
def execSmap (func : FuncId) (die : DieId) (map : Billet) (s : State) : Result :=
  mailbox func 0xB [die.toNat, map.toNat] true none s fun s =>
    if slotMapOk map then some (s.modDie die fun x => { x with smapNew := some map }) else none

/-- Meaning of MAILBOX_UNKNOWN_TYPE: STATUS 2 (R380). -/
def execMailboxUnknownType (func : FuncId) (type : Bits8) (s : State) : Result :=
  .next <|
    if 1 ≤ type.toNat && type.toNat ≤ 0xB then s
    else if !(s.func func).hmdb || field (s.func func).mreq 0 1 != type.toNat then s
    else s.mailAnswer func (if s.pkg.safe then 1 else 2)

/-- Meaning of CWM_APPLY: the cores drained are empty and no seat runs a task of a class that loses ways any more, so that its tiles have
gone with its checkpoints; the dirty lines of the lost ways are written back and those ways invalidated, and the new masks take effect on
every slice of the die at once (R278). -/
def execCwmApply (die : DieId) (s : State) : Result :=
  let x := s.die die
  let runs := x.draining.any (fun c => !(s.core c).occupied.isEmpty)
    || x.insts.any fun p => !p.2.seats.isEmpty && x.losing (tdL2c p.2.tsk.desc)
  .next <| match x.cwmNew with
    | none => s
    | some m =>
      if runs then s
      else
        let lost := x.cwm.foldl (fun w p => w ||| (p.2 &&& ~~~ m.val 0 p.1)) (0 : Imm32)
        let s : State := { s with l2 := s.l2.expel 0 fun n e => l2Home n / 64 = die.toNat && lost.getLsbD e.way }
        s.setDie die { x with cwm := m, cwmNew := none, draining := [] }

end Sys2Proof.Machine
end

