-- ==== Sys2Proof/Machine/EvPorter.lean ====
section
/-!
DEFINITION. The porter (R382 to R387): its queues, the start of packets in cell order, their effects and their completion; and
the counting of interrupts (R389).
-/
namespace Sys2Proof.Machine

/-! ### The porter's own accesses (R382, R384) -/

/-- Where a host PCIe address lies: in the physical map, or beyond it, where only the porter's LOC = 0 form reaches (R366, R382). -/
def hostPa (a : Nat) : Nat := if a < 2 ^ 50 then 2 ^ 51 + a else 2 ^ 58 + a

/-- A porter address keeps to its form (R382). -/
def paOk (a : Nat) : Bool := a / 2 ^ 57 % 2 ^ 6 = 0
/-- A porter address that is a multiple of n. -/
def paMul (a n : Nat) : Bool := paOk a && a % n = 0

/-- A porter address translated: a host address as it is, else in the function's address space 0 (R382). -/
def State.porterSpan (s : State) (f : FuncId) (acc : AccKind) (a n : Nat) : Span :=
  if a / 2 ^ 63 % 2 = 0 then .ok [⟨⟨hostPa (a % 2 ^ 57), 0, false, false, 0, 0, 0, (Who.ofFunc f).cl⟩, n⟩]
  else s.span (.ofFunc f) acc (a % 2 ^ 57) n

/-- A fault of the porter's own accesses is recorded with UNIT 5 (R371, R384). -/
def State.porterFault (s : State) (f : FuncId) (x : XFault) : State := s.recordFault (.ofFunc f) (mkCore 0 0 0) 0 5 0 x

/-- What a poisoned read of the porter counts as: the porter cannot carry poison (R161, log 23). -/
def poisFault (a : Nat) : XFault := ⟨fPoison, 0, 0, a % 2 ^ 57, 0, .read, false, 0⟩

/-- Bytes that the porter reads, or the fault; what another device or the host answers to the read at an address is among those
given (R366, R384). -/
def State.porterRead (s : State) (far : FarReads) (f : FuncId) (a n : Nat) : State × Except XFault (List Byte) :=
  match s.porterSpan f .read a n with
  | .bad x => (s, .error x)
  | .ok l => match s.farRead far a false l with
    | (t, .error x) => (t, .error x)
    | (t, .ok b) => (t, if b.any Prod.snd then .error (poisFault a) else .ok (b.map Prod.fst))

/-- Bytes that the porter writes, and the fault: a refused write changes nothing; what another device answers is among those given
(R366, R376, R384). -/
def State.porterWrite (s : State) (far : FarReads) (f : FuncId) (a : Nat) (b : List Byte) : State × Option XFault :=
  match s.porterSpan f .write a b.length with
  | .bad x => (s, some x)
  | .ok l => (s.putSegs l b, farBad far a .write false l)

/-! ### Packets (R383, R385) -/

/-- Fields of a packet. -/
def pkType (b : List Byte) : Nat := field b 0 1
def pkBar (b : List Byte) : Bool := (field b 1 1).testBit 0
def pkCpl (b : List Byte) : Bool := (field b 1 1).testBit 1
def pkNcell (b : List Byte) : Nat := field b 2 1
def pkTag (b : List Byte) : Nat := field b 4 4
def pkCplAddr (b : List Byte) : Nat := field b 8 8
def pkNt (b : List Byte) : Nat := field b 41 1
def pkNf (b : List Byte) : Nat := field b 42 1

/-- Cells of a type. -/
def typeCells (t : Nat) : Nat := if t = 1 || t = 2 then 3 else 1

/-- The header of a packet keeps to R383. -/
def headOk (b : List Byte) : Bool :=
  let c := pkCplAddr b
  pkType b ≤ 10 && pkNcell b = typeCells (pkType b) && field b 1 1 < 4 && field b 3 1 = 0
    && if pkCpl b then paMul c 16 else c = 0

/-- Bytes lo to hi - 1 of a packet are zero. -/
def zero (b : List Byte) (lo hi : Nat) : Bool := field b lo (hi - lo) = 0

/-- A condition keeps to R385: its OP at byte `op` and its address at byte `a`. -/
def condOk (b : List Byte) (a op : Nat) : Bool := paMul (field b a 8) 8 && field b op 1 ≤ 3

/-- The body of a packet keeps to R385 and R386, for a function with the vectors given. -/
def bodyOk (b : List Byte) (vec : Tab VecSt) : Bool :=
  match pkType b with
  | 0 => zero b 16 64
  | 1 => zero b 16 64
  | 2 => field b 16 2 < 256 && zero b 20 64 && zero b 64 72
  | 3 => condOk b 16 40 && zero b 41 44 && zero b 48 64
  | 4 => paOk (field b 16 8) && field b 32 1 ≤ 1 && zero b 33 64
  | 5 => condOk b 16 40 && pkNt b + pkNf b ≤ 16 && zero b 43 64
  | 6 => paMul (field b 16 8) 64 && 1 ≤ field b 24 2 && field b 24 2 ≤ 256 && 1 ≤ field b 26 2 && condOk b 32 28
      && zero b 29 32 && zero b 56 64
  | 7 => paMul (field b 16 8) 16 && zero b 24 64
  | 8 => (vec.find (field b 16 2)).isSome && field b 18 1 ≤ 1 && zero b 19 64
  | 9 => (field b 16 1 = 4 || field b 16 1 = 6) && zero b 17 64
  | 10 => field b 22 1 ≤ 2 && zero b 23 24 && zero b 32 64
  | _ => false

/-- A packet's kind: its TYPE, or 11 where it is malformed (R383). -/
def pkKind (b : List Byte) (vec : Tab VecSt) : Nat := if headOk b && bodyOk b vec then pkType b else 11

/-- Cells that the packet at the head of some cells occupies: a malformed one occupies one (R383). -/
def pkCells (vec : Tab VecSt) (b : List Byte) : Nat := if pkKind b vec = 11 then 1 else pkNcell b

/-- Kind of a packet whose cells have been taken: one that names more cells than it occupies is malformed (R383). -/
def gotKind (b : List Byte) (vec : Tab VecSt) : Nat := if b.length = 64 * pkNcell b then pkKind b vec else 11

/-- Packets fill some cells exactly, and each has a property; the fuel is the number of cells. -/
def fills (vec : Tab VecSt) (p : Nat → Bool) : Nat → List Byte → Bool
  | 0, b => b.isEmpty
  | n + 1, b =>
    let m := 64 * pkCells vec b
    b.isEmpty || (p (pkKind b vec) && m ≤ b.length && fills vec p n (b.drop m))

/-- An arm holds no PRED or REARM, and its packets fill it exactly (R386). -/
def armOk (vec : Tab VecSt) (b : List Byte) : Bool := fills vec (fun k => k != 5 && k != 6) 16 b

/-- A command graph holds no PRED, no REARM and no malformed packet, and its packets fill it exactly (R386). -/
def graphOk (vec : Tab VecSt) (b : List Byte) : Bool := fills vec (fun k => k != 11 && k != 5 && k != 6) 256 b

/-! ### The start of packets (R382, R384) -/

/-- A queue of a function. -/
def State.pq (s : State) (f : FuncId) (q : Bits8) : Option PorterQ := (s.func f).pqs.find q.toNat

/-- A queue replaced. -/
def State.setPq (s : State) (f : FuncId) (q : Bits8) (r : PorterQ) : State :=
  s.modFunc f fun x => { x with pqs := x.pqs.put q.toNat r }

/-- Address of the cell at an index (R382). -/
def PorterQ.cell (r : PorterQ) (i : Nat) : Nat :=
  r.base.toNat / 2 ^ 63 * 2 ^ 63 + (r.base.toNat % 2 ^ 57 + 64 * (i % 2 ^ r.lsz)) % 2 ^ 57

/-- Cells valid and not read. -/
def PorterQ.ready (r : PorterQ) : Nat := (r.tail - r.head).toNat

/-- Cells of a ring read from an index: those read, and the fault of the first that could not be. -/
def State.readCells (s : State) (far : FarReads) (f : FuncId) (r : PorterQ) (i : Nat) : Nat → State × List Byte × Option XFault
  | 0 => (s, [], none)
  | n + 1 => match s.porterRead far f (r.cell i) 64 with
    | (s, .error x) => (s, [], some x)
    | (s, .ok b) =>
      let p := s.readCells far f r (i + 1) n
      (p.1, b ++ p.2.1, p.2.2)

/-- The next packet of a queue: its cells and the queue once they are read, the fault of a ring cell with the index in cells, or
none yet. -/
inductive Fetch where
  | none
  | fault (n : Nat) (x : XFault)
  | got (b : List Byte) (r : PorterQ)

/-- The packet that the queue would start next: of a graph that runs, of a chosen arm, or of the ring (R384, R386). -/
def State.fetchPkt (s : State) (far : FarReads) (f : FuncId) (r : PorterQ) : State × Fetch :=
  match r.rearm with
  | some g =>
    if g.left.isEmpty then (s, .none)
    else
      let n := 64 * pkCells (s.func f).vec g.left
      (s, .got (g.left.take n) { r with rearm := some { g with left := g.left.drop n } })
  | none =>
    if !r.arm.isEmpty then
      let n := 64 * pkCells (s.func f).vec r.arm
      (s, .got (r.arm.take n) { r with arm := r.arm.drop n })
    else if r.ready = 0 then (s, .none)
    else match s.readCells far f r r.head.toNat 1 with
      | (s, _, some x) => (s, .fault 0 x)
      | (s, b, none) =>
        let n := pkCells (s.func f).vec b
        if r.ready < n then (s, .none)
        else match s.readCells far f r (r.head.toNat + 1) (n - 1) with
          | (s, c, some x) => (s, .fault (1 + c.length / 64) x)
          | (s, c, none) =>
            let m := pkCells (s.func f).vec (b ++ c)
            (s, .got ((b ++ c).take (64 * m)) { r with head := r.head + BitVec.ofNat 32 m })

/-- Packets started that a BAR waits for: all but the REARM whose graph is being started (R384, R386). -/
def PorterQ.earlier (r : PorterQ) : List Pkt :=
  match r.rearm with
  | none => r.pkts
  | some g => r.pkts.filter fun p => p.id != g.id

/-- The porter may start packets of the queue (R384, R392, R396, R397). -/
def State.porterRuns (s : State) (f : FuncId) (r : PorterQ) : Bool :=
  r.en && !r.err && !s.pkg.safe && !s.pkg.supply && (s.func f).tdisp != .error && r.pkts.length < 64

/-- A fault on a read of the ring's cells stops the queue at the first cell that could not be read (R384). -/
def State.ringFault (s : State) (f : FuncId) (q : Bits8) (r : PorterQ) (n : Nat) (x : XFault) : State :=
  (s.setPq f q { r with head := r.head + BitVec.ofNat 32 n, err := true, en := false }).porterFault f x

/-- The start of a queue's next packet, if it is of the kind given and its conditions hold: it enters the list of packets started,
and its effect follows (R384). -/
def startPkt (f : FuncId) (q : Bits8) (far : FarReads) (kind : Nat) (s : State) (eff : State → Pkt → State) : Result :=
  .next <| match s.pq f q with
    | none => s
    | some r =>
      if !s.porterRuns f r then s
      else match s.fetchPkt far f r with
        | (_, .none) => s
        | (u, .fault n x) => u.ringFault f q r n x
        | (u, .got b t) =>
          if gotKind b (s.func f).vec != kind then s
          else if (pkBar b || kind = 5) && !r.earlier.isEmpty then s
          else
            let p : Pkt := { id := r.nextId, cells := b, done := false, status := 0, result := 0, at0 := s.cyc, inst := none,
                             graph := r.rearm.isSome }
            eff (u.setPq f q { t with pkts := t.pkts ++ [p], nextId := r.nextId + 1 }) p

/-- A packet is done with a status and a result; its completion follows with PACKET_COMPLETE (R384). -/
def State.donePkt (s : State) (f : FuncId) (q : Bits8) (p : Pkt) (status result : Nat) : State :=
  s.modPkt f q p.id fun x => { x with done := true, status := status, result := BitVec.ofNat 64 result }

/-- A memory fault of a packet: status 4 and its code, and a fault-queue record (R384). -/
def State.faultPkt (s : State) (f : FuncId) (q : Bits8) (p : Pkt) (x : XFault) : State :=
  (s.porterFault f x).donePkt f q p 4 x.code.toNat

/-! ### Doorbells (R382) -/

/-- Meaning of PORTER_DOORBELL: a write to QTAIL makes cells valid, or sets ERR and clears EN on an overrun (R382). -/
def execPorterDoorbell (func : FuncId) (q : Bits8) (tail : Imm32) (s : State) : Result :=
  .next <| match s.pq func q with
    | none => s
    | some r =>
      let r := { r with tail := tail }
      s.setPq func q (if 2 ^ r.lsz < r.ready then { r with err := true, en := false } else r)

/-- Meaning of QUEUE_ENABLE: EN := 1 clears ERR and sets QHEAD := QTAIL (R382). -/
def execQueueEnable (func : FuncId) (q : Bits8) (s : State) : Result :=
  .next <| match s.pq func q with
    | none => s
    | some r => s.setPq func q { r with en := true, err := false, head := r.tail }

/-! ### Packets that complete at their start (R385, R389) -/

/-- Meaning of the porter's NOP (R385). -/
def execPorterNop (func : FuncId) (pq : PqFar) (s : State) : Result :=
  startPkt func pq.1 pq.2 0 s fun s p => s.donePkt func pq.1 p 0 0

/-- Meaning of MALFORMED_PACKET: one cell, status 1 (R383). -/
def execMalformedPacket (func : FuncId) (pq : PqFar) (s : State) : Result :=
  startPkt func pq.1 pq.2 11 s fun s p => s.donePkt func pq.1 p 1 0

/-- Old value and state of an add of the porter to a translated range; at a host address it is a FetchAdd request that the root
complex may refuse, and at another device a request; each with the answer given (R385, R390). -/
def State.porterAdd (s : State) (f : FuncId) (va : Nat) (l : List Seg) (v : Nat) (a : FarAns) : State × Except XFault Nat :=
  let bad (c : Bits16) : XFault := ⟨c, 0, 0, va % 2 ^ 57, 0, .atomic, false, (l.head?.map fun g => g.xl.pa).getD 0⟩
  let add (s : State) : State × Except XFault Nat :=
    let old := leNat (s.rdSegs l)
    (s.putSegs l (leBytes 8 (old + v)), .ok old)
  match l with
  | [] => (s, .ok 0)
  | g :: _ =>
    if isHost g.xl.pa then
      if !(s.func f).aore then (s, .error (bad fHatom))
      else match farFault a 0 with
        | some p => (s, .error (bad p.1))
        | none => add s
    else if isFab g.xl.pa then
      let t := s.fabTarget g.xl.pa
      let u := s.send (.request t.1 t.2 (.atomic .add true (BitVec.ofNat 64 v)) [] [] g.xl.who.link)
      match farFault a 0 with
      | some p => (u, .error (bad p.1))
      | none => (u, if a.pois.isEmpty then .ok (field a.data 0 8) else .error (bad fPoison))
    else if s.poisSegs l then (s, .error (bad fPoison))
    else add s

/-- Meaning of SIGNAL: a release write, or an atomic add, of 8 bytes at .sy (R385, R390). -/
def execSignal (func : FuncId) (pq : PqFar) (s : State) : Result :=
  startPkt func pq.1 pq.2 4 s fun s p =>
    let b := p.cells
    let a := field b 16 8
    if field b 32 1 = 1 then
      match s.porterSpan func .atomic a 8 with
      | .bad x => s.faultPkt func pq.1 p x
      | .ok l => match s.porterAdd func a l (field b 24 8) (farOf pq.2 a) with
        | (t, .error x) => t.faultPkt func pq.1 p x
        | (t, .ok old) => t.donePkt func pq.1 p 0 old
    else match s.porterWrite pq.2 func a (leBytes 8 (field b 24 8)) with
      | (t, some x) => t.faultPkt func pq.1 p x
      | (t, none) => t.donePkt func pq.1 p 0 0

/-- Meaning of TSTAMP: the ptime and the CYC of its start are written (R385). -/
def execTstamp (func : FuncId) (pq : PqFar) (s : State) : Result :=
  startPkt func pq.1 pq.2 7 s fun s p =>
    match s.porterWrite pq.2 func (field p.cells 16 8) (leBytes 8 (s.ptimeAt p.at0) ++ leBytes 8 p.at0) with
    | (t, some x) => t.faultPkt func pq.1 p x
    | (t, none) => t.donePkt func pq.1 p 0 0

/-! ### Interrupts (R388, R389) -/

/-- A condition to send holds: enough counts, time elapsed, or FLUSH (R389). -/
def VecSt.fire (v : VecSt) (now : Nat) : Bool :=
  v.pend != 0 && (v.ccnt.toNat ≤ v.pend.toNat || (v.ctime != 0 && v.since + usCyc v.ctime.toNat ≤ now) || v.flush)

/-- A vector's message is sent if a condition holds and it is not masked; PEND is then cleared (R389). -/
def State.sendVec (s : State) (f : FuncId) (n : Nat) : State :=
  match (s.func f).vec.find n with
  | none => s
  | some v =>
    if v.masked || !v.fire s.cyc then s
    else (s.modFunc f fun x => { x with vec := x.vec.put n { v with pend := 0, flush := false } }).send (.msix f n)

/-- Meaning of INTR: PEND counts, saturating, and the message is sent when coalescing allows (R389). -/
def execIntr (func : FuncId) (pq : PqFar) (s : State) : Result :=
  startPkt func pq.1 pq.2 8 s fun s p =>
    let n := field p.cells 16 2
    let flush := field p.cells 18 1 = 1
    let s := match (s.func func).vec.find n with
      | none => s
      | some v =>
        let w : VecSt := { v with
          pend := BitVec.ofNat 8 (min 255 (v.pend.toNat + 1)), since := if v.pend = 0 then s.cyc else v.since
          flush := v.flush || flush }
        (s.modFunc func fun x => { x with vec := x.vec.put n w }).sendVec func n
    s.donePkt func pq.1 p 0 0

/-! ### Launches (R385, R387) -/

/-- The die whose dispatcher takes a packet's launch: the one that the descriptor names, if it can be read. -/
def State.launchDie (s : State) (f : FuncId) (desc : Nat) : DieId :=
  match s.rdVa (.ofFunc f) (desc % 2 ^ 57) 4 with
  | none => 0
  | some b => BitVec.ofNat 2 (field b 3 1)

/-- A packet's launch enters the dispatcher's queue; PRIV permits supervisor tasks (R315, R385). -/
def State.porterLaunch (s : State) (f : FuncId) (q : Bits8) (p : Pkt) (rec : List Byte) : State :=
  let priv := ((s.pq f q).map PorterQ.priv).getD false
  let r : LaunchReq := { asker := .porter f q p.id, func := f, asn := 0, priv := priv, record := some rec, va := 0 }
  s.modDie (s.launchDie f (lrDesc rec)) fun x => { x with lreq := x.lreq ++ [r] }

/-- Meaning of LAUNCH: cells 1 and 2 are the launch record (R385). -/
def execPorterLaunch (func : FuncId) (pq : PqFar) (s : State) : Result :=
  startPkt func pq.1 pq.2 1 s fun s p => s.porterLaunch func pq.1 p (p.cells.drop 64)

/-- The descriptor of a LAUNCH_RES, if its slot is installed and held, its task exists and its XB values are multiples of 64
(R387). -/
def State.resDesc (s : State) (f : FuncId) (b : List Byte) : Option Nat :=
  match s.pkg.res.find (field b 16 2) with
  | none => none
  | some r =>
    let rec' := b.drop 64
    if r.func != f || !s.holds f .resident (field b 16 2) || r.ntask ≤ field b 18 2
        || !(List.range 8).all (fun i => (lrXb rec' i).toNat % 64 = 0) then none
    else some (r.dtab.toNat + 256 * field b 18 2)

/-- Meaning of LAUNCH_RES: a task of a resident slot is launched from its descriptor table, or status 5 (R387). -/
def execLaunchRes (func : FuncId) (pq : PqFar) (s : State) : Result :=
  startPkt func pq.1 pq.2 2 s fun s p =>
    match s.resDesc func p.cells with
    | none => s.donePkt func pq.1 p 5 0
    | some d => s.porterLaunch func pq.1 p (setBytes (p.cells.drop 64) 0 (leBytes 8 d))

/-! ### Conditions (R385) -/

/-- The value of a condition's word, and whether the condition holds. -/
def condHolds (op mask value v : Nat) : Bool :=
  let m := v &&& mask
  match op with
  | 0 => m = value
  | 1 => m != value
  | 2 => value ≤ m
  | _ => m < value

/-- A condition of a packet tested: OP at byte `op`, ADDR, MASK and VALUE from byte `a`. -/
def State.testCond (s : State) (far : FarReads) (f : FuncId) (b : List Byte) (a op : Nat) : State × Except XFault (Nat × Bool) :=
  match s.porterRead far f (field b a 8) 8 with
  | (s, .error x) => (s, .error x)
  | (s, .ok w) => (s, .ok (leNat w, condHolds (field b op 1) (field b (a + 8) 8) (field b (a + 16) 8) (leNat w)))

/-- Meaning of WAITMEM: it has started, and waits (R385). -/
def execWaitmem (func : FuncId) (pq : PqFar) (s : State) : Result := startPkt func pq.1 pq.2 3 s fun s _ => s

/-- A packet started, by its place in the list of those not completed, of a type and not done. -/
def State.pktAt (s : State) (f : FuncId) (q : Bits8) (idx : Bits8) (type : Nat) : Option Pkt :=
  match s.pq f q with
  | none => none
  | some r => match r.pkts[idx.toNat]? with
    | none => none
    | some p => if !p.done && pkType p.cells = type then some p else none

/-- Meaning of WAITMEM_SATISFIED: the condition holds; or its read faults (R384, R385). -/
def execWaitmemSatisfied (func : FuncId) (q : Bits8) (pkt : PktFar) (s : State) : Result :=
  .next <| match s.pktAt func q pkt.1 3 with
    | none => s
    | some p => match s.testCond pkt.2 func p.cells 16 40 with
      | (s, .error x) => s.faultPkt func q p x
      | (s, .ok (v, ok)) => if ok then s.donePkt func q p 0 v else s

/-- Meaning of WAITMEM_TIMEOUT: TMO has passed (R385). -/
def execWaitmemTimeout (func : FuncId) (q : Bits8) (pkt : PktFar) (s : State) : Result :=
  .next <| match s.pktAt func q pkt.1 3 with
    | none => s
    | some p =>
      let tmo := field p.cells 44 4
      if tmo = 0 || s.cyc < p.at0 + usCyc tmo then s
      else match s.testCond pkt.2 func p.cells 16 40 with
        | (s, .error x) => s.faultPkt func q p x
        | (s, .ok (v, _)) => s.donePkt func q p 3 v

/-! ### PRED and REARM (R386) -/

/-- The arms of a PRED have been read: the queue's head passes both, and the chosen one is to start. -/
def State.chooseArm (s : State) (f : FuncId) (q : Bits8) (n : Nat) (arm : List Byte) : State :=
  match s.pq f q with
  | none => s
  | some r => s.setPq f q { r with head := r.head + BitVec.ofNat 32 n, arm := arm }

/-- Meaning of PRED: once both arms are valid they are read, the condition is tested, and the chosen arm is to start; a fault of
the condition or an arm that R386 does not allow skips both (R384, R386). -/
def execPred (func : FuncId) (pq : PqFar) (s : State) : Result :=
  let started := startPkt func pq.1 pq.2 5 s fun s p =>
    let nt := pkNt p.cells
    let nf := pkNf p.cells
    match s.pq func pq.1 with
    | none => s
    | some r => match s.readCells pq.2 func r r.head.toNat (nt + nf) with
      | (s, c, some x) => s.ringFault func pq.1 { r with pkts := r.pkts.filter fun k => k.id != p.id } (c.length / 64) x
      | (s, c, none) =>
        if !armOk (s.func func).vec (c.take (64 * nt)) || !armOk (s.func func).vec (c.drop (64 * nt)) then
          (s.chooseArm func pq.1 (nt + nf) []).donePkt func pq.1 p 1 0
        else match s.testCond pq.2 func p.cells 16 40 with
          | (s, .error x) => (s.chooseArm func pq.1 (nt + nf) []).faultPkt func pq.1 p x
          | (s, .ok (_, true)) => (s.chooseArm func pq.1 (nt + nf) (c.take (64 * nt))).donePkt func pq.1 p 0 1
          | (s, .ok (_, false)) => (s.chooseArm func pq.1 (nt + nf) (c.drop (64 * nt))).donePkt func pq.1 p 0 0
  match s.pq func pq.1, started with
  | some r, .next t =>
    let b := (s.readCells pq.2 func r r.head.toNat 1).2.1
    if pkType b = 5 && r.rearm.isNone && r.arm.isEmpty && r.ready < 1 + pkNt b + pkNf b then .next s else .next t
  | _, o => o

/-- A queue's REARM has ended or goes on. -/
def State.setRearm (s : State) (f : FuncId) (q : Bits8) (g : Option RearmSt) : State :=
  match s.pq f q with
  | none => s
  | some r => s.setPq f q { r with rearm := g }

/-- REARM tests its condition: it ends, or reads its graph afresh and starts another iteration (R386). -/
def State.rearmTest (s : State) (far : FarReads) (f : FuncId) (q : Bits8) (p : Pkt) (n : Nat) : State :=
  let stop (s : State) := s.setRearm f q none
  match s.testCond far f p.cells 32 28 with
  | (s, .error x) => (stop s).faultPkt f q p x
  | (s, .ok (_, ok)) =>
    if !ok || field p.cells 26 2 ≤ n then (stop s).donePkt f q p 0 n
    else match s.porterRead far f (field p.cells 16 8) (64 * field p.cells 24 2) with
      | (s, .error x) => (stop s).faultPkt f q p x
      | (s, .ok g) =>
        if graphOk (s.func f).vec g then s.setRearm f q (some { id := p.id, iters := n, left := g })
        else (stop s).donePkt f q p 1 n

/-- Meaning of REARM (R386). -/
def execRearm (func : FuncId) (pq : PqFar) (s : State) : Result :=
  startPkt func pq.1 pq.2 6 s fun s p => s.rearmTest pq.2 func pq.1 p 0

/-- Meaning of REARM_ITERATION: every packet of the iteration has completed: it is counted and the condition tested again
(R386). -/
def execRearmIteration (func : FuncId) (pq : PqFar) (s : State) : Result :=
  .next <| match s.pq func pq.1 with
    | none => s
    | some r => match r.rearm with
      | none => s
      | some g =>
        if !g.left.isEmpty || r.pkts.any Pkt.graph then s
        else match r.pkts.find? fun p => p.id = g.id with
          | none => s
          | some p => s.rearmTest pq.2 func pq.1 p (g.iters + 1)

/-! ### FENCE and RESUME (R385) -/

/-- Meaning of FENCE: it has started, and completes when every earlier packet has (R385). -/
def execPorterFence (func : FuncId) (pq : PqFar) (s : State) : Result := startPkt func pq.1 pq.2 9 s fun s _ => s

/-- Entries of a queue in a checkpoint. -/
def Saved.queue (v : Saved) : Nat → List Entry
  | 0 => v.h0
  | 1 => v.h1
  | _ => v.te

/-- An entry of a checkpoint replaced, with its other half where it is of the whole array. -/
def Saved.modEntry (v : Saved) (n : Nat) (e : Entry) (f : Entry → List Entry) : Saved :=
  let go (l : List Entry) : List Entry := l.flatMap fun x => if x.seq = e.seq && x.opc = e.opc && x.enq = e.enq then f x else [x]
  if n != 2 && e.whole then { v with h0 := go v.h0, h1 := go v.h1 }
  else match n with
    | 0 => { v with h0 := go v.h0 }
    | 1 => { v with h1 := go v.h1 }
    | _ => { v with te := go v.te }

/-- The oldest FAULTED entry of a checkpoint resumed (R190, R237, R385). -/
def Saved.resumeEntry (v : Saved) (n : Nat) (e : Entry) (stamp : Word) : Saved :=
  if e.blk.isSome && e.nstep.toNat ≤ e.stepc.toNat then
    let v := v.modEntry n e fun _ => []
    { v with seat := { v.seat with
        inc := if e.sg = 0 then v.seat.inc else v.seat.inc ++ [(e.sg, 1)]
        sigs := v.seat.sigs ++ [(e.sg, n, e.seq.toNat)] } }
  else v.modEntry n e fun x => [{ x with st := .queued, stamp := stamp, stamped := stamp != 0, fcode := 0, fval := 0, again := true }]

/-- RESUME on an instance: the STEPC of the entry resumed, and the state; none where there is nothing to resume (R385). -/
def State.resumeOn (s : State) (f : FuncId) (inst strand n : Nat) (stamp : Word) : Option (Nat × State) :=
  let d : DieId := BitVec.ofNat 2 (inst / 2 ^ 30)
  match s.instAt d inst with
  | none => none
  | some i =>
    if i.func != f || i.done.isSome then none
    else match i.seats.find strand with
      | some (c, k) => match oldestFaulted ((s.core c).mine n k) with
        | none => none
        | some p => some (p.2.stepc.toNat, s.resumeEnt c n p.1 stamp)
      | none => match i.saved.find strand with
        | none => none
        | some v => match (v.queue n).find? fun e => e.st == .faulted with
          | none => none
          | some e => some (e.stepc.toNat, s.modInst d inst fun i => { i with saved := i.saved.put strand (v.resumeEntry n e stamp) })

/-- Meaning of RESUME: as EQFLUSH.r on the strand's oldest FAULTED entry, or status 6 (R190, R385). -/
def execResume (func : FuncId) (pq : PqFar) (s : State) : Result :=
  startPkt func pq.1 pq.2 10 s fun s p =>
    let b := p.cells
    match s.resumeOn func (field b 16 4) (field b 20 2) (field b 22 1) (BitVec.ofNat 64 (field b 24 8)) with
    | none => s.donePkt func pq.1 p 6 0
    | some (n, t) => t.donePkt func pq.1 p 0 n

/-! ### Completion (R384) -/

/-- The completion record (R384). -/
def cplRecord (p : Pkt) : List Byte :=
  leBytes 4 (pkTag p.cells) ++ leBytes 2 p.status ++ leBytes 1 (pkType p.cells) ++ [0] ++ leBytes 8 p.result.toNat

/-- A FENCE whose earlier packets have all completed is done (R385). -/
def fenceDone (r : PorterQ) (i : Nat) (p : Pkt) : Bool :=
  pkKind p.cells [] = 9 && !p.done && (r.pkts.take i).all fun k => match r.rearm with
    | none => false
    | some g => k.id = g.id

/-- Meaning of PACKET_COMPLETE: a packet that is done completes, and its record is written as a release at .sy; a fault of that
write loses the record (R384). -/
def execPacketComplete (func : FuncId) (q : Bits8) (pkt : PktFar) (s : State) : Result :=
  .next <| match s.pq func q with
    | none => s
    | some r => match r.pkts[pkt.1.toNat]? with
      | none => s
      | some p =>
        if !p.done && !fenceDone r pkt.1.toNat p then s
        else
          let s := s.setPq func q { r with pkts := r.pkts.eraseIdx pkt.1.toNat }
          if !pkCpl p.cells || !paMul (pkCplAddr p.cells) 16 then s
          else match s.porterWrite pkt.2 func (pkCplAddr p.cells) (cplRecord p) with
            | (s, some x) => s.porterFault func x
            | (s, none) => s

end Sys2Proof.Machine
end

