-- ==== Sys2Proof/Machine/LoadStore.lean ====
section
/-!
DEFINITION. Scalar and vector loads and stores, prefetch, tile moves and atomics of the A syllable (R99 to R109).
-/
namespace Sys2Proof.Machine

/-- F_ALIGN of an access that needs a multiple of n (R101). -/
def alignErr (ea : Word) (n : Nat) : List PCause := if ea.toNat % n = 0 then [] else [⟨70, 1, fAlign, ea, none⟩]

/-- A state after a load's write has been put in flight with a bound. -/
def At.flyLoad (e : At) (lat : Nat) (s : State) (w : Write) : State := e.flyOn s lat w

/-- A scalar load (R104): fixed latency without a token, with a miss freeze where its data is not present; else a result
outstanding. A load to s0 is performed and its value discarded. -/
def loadScalar (s : State) (i : Instr) (rt : SReg) (mem : AMem) (sz : Bits2) (sx : Bool) (wt : SemR) (acq : Option Scope) : Result :=
  attempt s i fun e =>
    let m := e.amem mem
    let n := 2 ^ sz.toNat
    let v := { scalarRes .load rt false wt m.ea e.s.cyc (sz.toNat + (if sx then 4 else 0)) with
      acq := acq.isSome, wide := acq.any scpWide }
    let pre := m.amod ++ m.pois ++ (if acq.isSome then alignErr m.ea n else [])
    match e.span .read m.ea n with
    | .bad f =>
      if wt = 0 then e.plan (pre ++ [accCause f m.ea]) e.s
      else e.plan pre (e.postInc m (e.failed e.s f m.ea { v with tags := 1 }))
    | .ok l => e.load pre (e.postInc m) (e.flyLoad 6) v (offsets l 0) ((e.s.whoSeat e.c e.k).walks (vaOf m.ea) n)

/-- Meaning of LD (R104). -/
def execLd (rt : SReg) (mem : AMem) (sz : Bits2) (sx : Bool) (wt : SemR) (s : State) : Result :=
  loadScalar s (.ld rt mem sz sx wt) rt mem sz sx wt none

/-- Meaning of LDA: an acquire at SCP, naturally aligned (R101, R104). -/
def execLda (rt : SReg) (mem : AMem) (sz : Bits2) (sx : Bool) (scp : Scope) (wt : SemR) (s : State) : Result :=
  loadScalar s (.lda rt mem sz sx scp wt) rt mem sz sx wt (some scp)

/-- Meaning of LDS: as LD, but an access that would fault, or that names an SO page, is not performed and gives 0 with its tag
set (R104, R160). -/
def execLds (rt : SReg) (mem : AMem) (sz : Bits2) (sx : Bool) (wt : SemR) (s : State) : Result :=
  attempt s (.lds rt mem sz sx wt) fun e =>
    let m := e.amem mem
    let n := 2 ^ sz.toNat
    let v := scalarRes .lds rt true wt m.ea e.s.cyc (sz.toNat + (if sx then 4 else 0))
    let deferred := e.plan m.amod (e.postInc m (if wt = 0 then e.flyOn e.s 6 (.s rt 0 true) else e.vresOn e.s v))
    match e.span .read m.ea n with
    | .bad _ => deferred
    | .ok l =>
      if m.tag || anySeg l (fun x => x.kind == 1) then deferred
      else e.load m.amod (e.postInc m) (e.flyLoad 6) v (offsets l 0) ((e.s.whoSeat e.c e.k).walks (vaOf m.ea) n)

/-- A scalar store (R104): translation failures are precise without a token; an error response is always imprecise. Of a poisoned
address and a poisoned datum the address is reported (log 68). -/
def storeScalar (s : State) (i : Instr) (rt : SReg) (mem : AMem) (sz : Bits2) (wt : SemR) (rel : Option Scope) : Result :=
  attempt s i fun e =>
    let m := e.amem mem
    let n := 2 ^ sz.toNat
    let pre := m.amod ++ m.pois ++ e.poisS 1 rt ++ (if rel.isSome then alignErr m.ea n else [])
    let v := { scalarRes .store 0 false wt m.ea e.s.cyc 0 with rel := rel.isSome, wide := rel.any scpWide }
    match e.span .write m.ea n with
    | .bad f =>
      if wt = 0 && !f.bus then e.plan (pre ++ [accCause f m.ea]) e.s
      else e.plan pre (e.postInc m (e.failed e.s f m.ea v))
    | .ok l => e.store pre (e.postInc m) v (withBytes l (leBytes n (e.sGet rt).1.toNat))

/-- Meaning of ST (R104). -/
def execSt (rt : SReg) (mem : AMem) (sz : Bits2) (wt : SemR) (s : State) : Result :=
  storeScalar s (.st rt mem sz wt) rt mem sz wt none

/-- Meaning of STL: a release at SCP, naturally aligned (R101, R104). -/
def execStl (rt : SReg) (mem : AMem) (sz : Bits2) (scp : Scope) (wt : SemR) (s : State) : Result :=
  storeScalar s (.stl rt mem sz scp wt) rt mem sz wt (some scp)

/-- Meaning of PREF: it never faults; with an illegal modifier or a poisoned base it does nothing; one that would fault or names
an SO page only advances the base (R99, R104). -/
def execPref (l2 : Bool) (mem : AMem) (s : State) : Result :=
  attempt s (.pref l2 mem) fun e =>
    let m := e.amem mem
    if m.tag || !m.amod.isEmpty then e.plan [] e.s
    else
      let done := match e.span .read m.ea 1 with
        | .bad _ => e.s
        | .ok l =>
          if anySeg l (fun x => x.kind == 1) then e.s
          else if l2 then e.s.l2Segs false l
          else e.look e.s (l.filter fun g => cachedX g.xl)
      e.plan [] (e.postInc m done)

/-- Lanes of a type, by number. -/
def laneList (t : Ty) : List Nat := List.range t.lanes

/-- A byte of a row belongs to an active lane. -/
def touchedBy (t : Ty) (act : Nat → Bool) (i : Nat) : Bool := act (8 * i / t.width)

/-- The write of a row read from memory: active lanes only; g by sector is poison in an active byte (R105). -/
def rowWrite (phys : Nat) (t : Ty) (act : Nat → Bool) (b : List (Byte × Bool)) : Write :=
  let hit := (List.range 1024).map (touchedBy t act)
  .row phys (BitVec.ofNat 8192 (leNat (hit.map fun h => if h then 255 else 0))) (BitVec.ofNat 8192 (leNat (b.map Prod.fst)))
    (sectorBits fun j => ((hit.drop (32 * j)).take 32).all id)
    (sectorBits fun j => (((b.zip hit).drop (32 * j)).take 32).any fun p => p.1.2 && p.2)

/-- A row result outstanding, for the active lanes of a row (R105). -/
def rowRes (kind : VKind) (phys : Nat) (t : Ty) (act : Nat → Bool) (sem : SemR) (ea : Word) (ck : Nat) : Vres :=
  match rowWrite phys t act [] with
  | .row p m _ f _ =>
    { Vres.none with kind := kind, dest := .row p m f, sem := sem, addr := BitVec.ofNat 64 (vaOf ea), ck := ck, key := 8 }
  | _ => Vres.none

/-- A state after a row load's write has been put in flight with a bound. -/
def At.flyRowLoad (e : At) (lat : Nat) (vt : VReg) (s : State) (w : Write) : State := e.flyRow s lat vt w []

/-- The state after the row that a tokened load is to write has been spoilt for engine commands (R115). -/
def At.spoilRow (e : At) (vt : VReg) (wt : SemR) (s : State) : State :=
  if wt = 0 then s else s.modSeat e.c e.k fun q => { q with spoils := q.spoils ++ [(false, q.winRow vt)] }

/-- Meaning of VLD (R105). -/
def execVld (vt : VReg) (mem : VMem) (g : Guard) (ty : Ty) (wt : SemR) (s : State) : Result :=
  attempt s (.vld vt mem g ty wt) fun e =>
    let m := e.vmem mem
    let act := e.active g
    let touched := touchedBy ty act
    let v := rowRes .load (e.q.phys (e.q.winRow vt)) ty act wt m.ea e.s.cyc
    let pre := m.amod ++ m.pois ++ alignErr m.ea 32
    let ps := e.parts .read m.ea touched
    let post (s : State) := e.spoilRow vt wt (e.postInc m s)
    match worstBad touched ps with
    | some f =>
      if wt = 0 then e.plan (pre ++ [accCause f m.ea]) e.s
      else e.plan pre (post (e.failed e.s f m.ea v.failed))
    | none => e.load pre post (e.flyRowLoad 8 vt) v (runParts ps touched) ((e.s.whoSeat e.c e.k).walks (vaOf m.ea) 1024)

/-- Meaning of VLDS: lanes whose access would fault, or that lie on an SO page, read 0, and the tags of their sectors are set
(R105, R160). -/
def execVlds (vt : VReg) (mem : VMem) (g : Guard) (ty : Ty) (wt : SemR) (s : State) : Result :=
  attempt s (.vlds vt mem g ty wt) fun e =>
    let m := e.vmem mem
    let act := e.active g
    let touched := touchedBy ty act
    let v := rowRes .lds (e.q.phys (e.q.winRow vt)) ty act wt m.ea e.s.cyc
    let whole := m.tag || m.ea.toNat % 32 != 0
    let ps := if whole then [] else (e.parts .read m.ea touched).filter fun p => match p.xl? with
      | some x => x.kind != 1
      | none => false
    e.load m.amod (fun s => e.spoilRow vt wt (e.postInc m s)) (e.flyRowLoad 8 vt) v (runParts ps touched)
      ((e.s.whoSeat e.c e.k).walks (vaOf m.ea) 1024)

/-- F_POISON of a stored row: the poisoned sectors that hold an active lane (R105). -/
def rowPois (r : Row) (n : VReg) (t : Ty) (act : Nat → Bool) : List PCause :=
  let o : Opnd := ⟨r, none, 2, n.toNat⟩
  match o.pois t.width ((laneList t).filter act) with
  | some v => [⟨60, 1, fPoison, v, none⟩]
  | none => []

/-- Meaning of VST (R105): of a poisoned address and a poisoned row the address is reported (log 68). -/
def execVst (vt : VReg) (mem : VMem) (g : Guard) (ty : Ty) (wt : SemR) (s : State) : Result :=
  attempt s (.vst vt mem g ty wt) fun e =>
    let m := e.vmem mem
    let act := e.active g
    let touched := touchedBy ty act
    let r := e.vGet vt
    let pre := m.amod ++ m.pois ++ rowPois r vt ty act ++ alignErr m.ea 32
    let ps := e.parts .write m.ea touched
    let v := scalarRes .store 0 false wt m.ea e.s.cyc 0
    match worstBad touched ps with
    | some f =>
      if wt = 0 && !f.bus then e.plan (pre ++ [accCause f m.ea]) e.s
      else e.plan pre (e.postInc m (e.failed e.s f m.ea v))
    | none =>
      let b := leBytes 1024 r.d.toNat
      e.store pre (e.postInc m) v ((runParts ps touched).map fun p => (p.2, (b.drop p.1).take p.2.len))

/-- An active lane of a gather or a scatter: its number, address and translation. -/
structure Lane where
  k : Nat
  ea : Word
  tr : Tr

/-- The lanes of a gather or a scatter: an element of vI is an unsigned index of elements (R105). -/
def At.lanes (e : At) (acc : AccKind) (ea : Word) (vi : VReg) (t : Ty) (act : Nat → Bool) : List Lane :=
  let w := e.s.whoSeat e.c e.k
  let ix : Opnd := ⟨e.vGet vi, none, 2, vi.toNat⟩
  ((laneList t).filter act).map fun k =>
    let a := ea + BitVec.ofNat 64 (ix.el t.width k * (t.width / 8))
    ⟨k, a, e.s.xlate w acc (vaOf a)⟩

/-- F_POISON of the index row (R105). -/
def At.idxPois (e : At) (vi : VReg) (t : Ty) (act : Nat → Bool) : List PCause := rowPois (e.vGet vi) vi t act

/-- F_ALIGN of the lowest lane that is not naturally aligned (R101). -/
def laneAlign (t : Ty) (l : List Lane) : List PCause :=
  match l.find? fun a => a.ea.toNat % (t.width / 8) != 0 with
  | some a => [⟨70, 1, fAlign, a.ea, none⟩]
  | none => []

/-- The lowest faulting lane. -/
def laneBad : List Lane → Option (XFault × Word)
  | [] => none
  | a :: r => match a.tr with
    | .bad f => some (f, a.ea)
    | .ok _ => laneBad r

/-- The fault of the lowest lane of an access that fails translation; else that of the lowest with an error response (R102, R105). -/
def laneBadW (l : List Lane) : Option (XFault × Word) :=
  let hard (a : Lane) : Bool := match a.tr with
    | .bad f => !f.bus
    | .ok _ => false
  match laneBad (l.filter hard) with
  | some p => some p
  | none => laneBad l

/-- The address of an access to lanes: that of its lowest lane on another device or at the host, which an error response names (R105),
else of its base. -/
def lanesAddr (l : List Lane) (ea : Word) : Word :=
  match l.find? fun a => match a.tr with
    | .ok x => isFab x.pa || isHost x.pa
    | .bad _ => false with
  | some a => BitVec.ofNat 64 (vaOf a.ea)
  | none => BitVec.ofNat 64 (vaOf ea)

/-- The segment of a granted lane. -/
def Lane.segs (t : Ty) (a : Lane) : List Seg := match a.tr with
  | .ok x => [⟨x, t.width / 8⟩]
  | .bad _ => []

/-- The parts of a gather: each active lane's element in its place in the row. -/
def laneParts (t : Ty) (l : List Lane) : List (Nat × Seg) := l.flatMap fun a => (a.segs t).map fun g => (a.k * (t.width / 8), g)

/-- Meaning of VGTH (R105). -/
def execVgth (vt : VReg) (mem : VMem) (vi : VReg) (g : Guard) (ty : Ty) (wt : SemR) (s : State) : Result :=
  attempt s (.vgth vt mem vi g ty wt) fun e =>
    let m := e.vmem mem
    let act := e.active g
    let ls := e.lanes .read m.ea vi ty act
    let pre := m.amod ++ m.pois ++ e.idxPois vi ty act ++ laneAlign ty ls
    let v := { rowRes .load (e.q.phys (e.q.winRow vt)) ty act wt m.ea e.s.cyc with addr := lanesAddr ls m.ea, key := 9 }
    let post (s : State) := e.spoilRow vt wt (e.postInc m s)
    match laneBadW ls with
    | some (f, a) =>
      if wt = 0 then e.plan (pre ++ [{ xCause 1 f with tval := BitVec.ofNat 64 (vaOf a) }]) e.s
      else e.plan pre (post (e.failed e.s f a { v.failed with addr := BitVec.ofNat 64 (vaOf a) }))
    | none =>
      e.load pre post (e.flyRowLoad 12 vt) v (laneParts ty ls)
        (ls.any fun a => (e.s.whoSeat e.c e.k).walks (vaOf a.ea) 1)

/-- Meaning of VSCT: lanes are written in rising order, so the highest of lanes that share an address remains (R105). -/
def execVsct (vt : VReg) (mem : VMem) (vi : VReg) (g : Guard) (ty : Ty) (wt : SemR) (s : State) : Result :=
  attempt s (.vsct vt mem vi g ty wt) fun e =>
    let m := e.vmem mem
    let act := e.active g
    let r := e.vGet vt
    let ls := e.lanes .write m.ea vi ty act
    let pre := m.amod ++ m.pois ++ e.idxPois vi ty act ++ rowPois r vt ty act ++ laneAlign ty ls
    let v := { scalarRes .store 0 false wt m.ea e.s.cyc 9 with addr := lanesAddr ls m.ea }
    match laneBadW ls with
    | some (f, a) =>
      if wt = 0 && !f.bus then e.plan (pre ++ [{ xCause 1 f with tval := BitVec.ofNat 64 (vaOf a) }]) e.s
      else e.plan pre (e.postInc m (e.failed e.s f a v))
    | none =>
      let d : Opnd := ⟨r, none, 2, 0⟩
      e.store pre (e.postInc m) v (ls.flatMap fun a =>
        (a.segs ty).map fun g => (g, leBytes (ty.width / 8) (d.el ty.width a.k)))

/-- Meaning of VFETCH: the row with its tags, taken at issue (R20, R106). -/
def execVfetch (pq : PqReg) (vs : VReg) (s : State) : Result :=
  attempt s (.vfetch pq vs) fun e => e.plan [] (e.fly 4 (.pq pq (e.vGet vs)))

/-- A slot is FILLING or DRAINING. -/
def moving (t : Tile) : Bool := t.st == .filling || t.st == .draining

/-- The write of a row from another row: active lanes with their sectors' tags (R105, R107). -/
def copyWrite (phys : Nat) (t : Ty) (act : Nat → Bool) (r : Row) : Write :=
  rowWrite phys t act (((leBytes 1024 r.d.toNat).zip (List.range 1024)).map fun p => (p.1, r.t.getLsbD (p.2 / 32)))

/-- The row of the granary that VTLD reads: free where a command of the seat writes it that no header wait has ordered (R223). -/
def At.granGet (e : At) (a : Nat) : Row :=
  if e.q.engineRow true a then ⟨Config.freeRow (2048 + a) e.s.free, Config.freeTags (2048 + a) e.s.free⟩ else e.x.granRow a

/-- Meaning of VTLD: held while the slot is FILLING or DRAINING (R107). -/
def execVtld (vt : VReg) (slot : Slot) (tr : Bits4) (g : Guard) (ty : Ty) (s : State) : Result :=
  attempt s (.vtld vt slot tr g ty) fun e =>
    let n := slot.toNat
    let w := copyWrite (e.q.phys (e.q.winRow vt)) ty (e.active g) (e.granGet (16 * n + tr.toNat))
    e.planH (e.x.tileErr e.k 1 n) (moving (e.x.tile n)) (e.flyRow e.s 8 vt w [])

/-- Meaning of VTST: held while the slot is FILLING, DRAINING or pinned (R107, R222); a row that a command of the seat reads or
writes without order is spoilt (R223). -/
def execVtst (vt : VReg) (slot : Slot) (tr : Bits4) (g : Guard) (ty : Ty) (s : State) : Result :=
  attempt s (.vtst vt slot tr g ty) fun e =>
    let n := slot.toNat
    let a := 16 * n + tr.toNat
    let s := match copyWrite 0 ty (e.active g) (e.vGet vt) with
      | .row _ m d f t => e.s.modCore e.c fun x =>
          { x with gran := x.gran.put a ((x.granRow a).merge m d f t) }.modTile n fun y => { y with wrAt := some e.s.cyc }
      | _ => e.s
    e.planH (e.x.tileErr e.k 1 n) (moving (e.x.tile n) || (e.x.tile n).pins != 0)
      (s.modSeat e.c e.k fun q => { q with spoils := q.spoils ++ [(true, a)] })

/-- An atomic performed here or sent away: at a host address it is performed when the host answers, on another device by that device
(R108, R295, R390, R423). Before one to a UO location the core writes back and invalidates its own line (R295). On a page with POR its
old value is tagged and memory is written (R108, R368, log 80). -/
def State.doAtomic (s : State) (c : CoreId) (k : SeatId) (v : Vres) (x : Xl) (o : FabOp) : State × Vres :=
  let s := s.uoAct c k (v.rel && v.wide) (v.acq && v.wide)
  if isFab x.pa then
    let t := s.fabTarget x.pa
    (s.send (.request t.1 t.2 o [] [] x.who.link), { v with remote := true, ready := false, todo := none })
  else if isHost x.pa then (s, { v with remote := true, ready := false, todo := some (.atomic x o) })
  else
    let s := if x.kind = 2 then s.modCore c fun y => { y with l1 := y.l1.filter fun p => !(p.1 = x.pa / 128 && p.2.uo) } else s
    let s := s.l2Segs true [⟨x, opWidth o⟩]
    let r := s.atomic x.kid x.pa o
    (r.2.2, { v with data := BitVec.ofNat 8192 r.1, tags := if r.2.1 || x.por then 1 else 0, ready := true, todo := none })

/-- An atomic of the A syllable: its causes, that of a poisoned address first (log 68), and its effect with the result outstanding
(R108, R109, R390, R423). -/
def atomicPlan (e : At) (rt : SReg) (ab : AReg) (w64 : Bool) (scp : Scope) (ord : Bits2) (wt : SemR) (pois : List PCause)
    (hostOk : Bool) (req : FabOp) : Plan :=
  let ea := (e.aGet ab).1
  let n := if w64 then 8 else 4
  let v := { scalarRes .atomic rt false wt ea e.s.cyc (if w64 then 3 else 2) with
    acq := ord.getLsbD 0, rel := ord.getLsbD 1, wide := scpWide scp }
  let pre := e.poisA 1 ab ++ pois ++ alignErr ea n
  match e.span .atomic ea n with
  | .bad f' =>
    if wt = 0 && !f'.bus then e.plan (pre ++ [accCause f' ea]) e.s
    else e.plan pre (e.failed e.s f' ea { v with tags := 1 })
  | .ok l =>
    let x := (l.headD ⟨⟨0, 0, false, false, 0, 0, 0, ⟨0, 0, 0⟩⟩, 0⟩).xl
    let sc := scp.code.toNat
    let out := (isHost x.pa && sc < 6) || (isFab x.pa && sc < 5)
    let val := BitVec.ofNat 64 (vaOf ea)
    let pre := pre
      ++ (if isHost x.pa && !(hostOk && (e.s.func e.q.func).aore) then [⟨90, 1, fHatom, val, none⟩] else [])
      ++ (if out then [⟨100, 1, fBus, ea, none⟩] else [])
    let v := v.over e.s l
    let wait := e.q.blockers v
    if !wait.isEmpty then e.plan pre (e.vresOn e.s { v with after := wait, ready := false, todo := some (.atomic x req) })
    else
      let r := (e.s.record e.c e.k l).doAtomic e.c e.k v x req
      e.plan pre (e.vresOn r.1 r.2)

/-- Meaning of AMO (R108, R109). -/
def execAmo (rt : SReg) (ab : AReg) (sb : SReg) (op : Aop) (w64 : Bool) (scp : Scope) (ord : Bits2) (wt : SemR)
    (s : State) : Result :=
  attempt s (.amo rt ab sb op w64 scp ord wt) fun e =>
    atomicPlan e rt ab w64 scp ord wt (e.poisS 1 sb) (op == .add || op == .swap) (.atomic op w64 (e.sGet sb).1)

/-- Meaning of AMOCAS: sB is written where memory equals the old sT (R108). -/
def execAmocas (rt : SReg) (ab : AReg) (sb : SReg) (w64 : Bool) (scp : Scope) (ord : Bits2) (wt : SemR)
    (s : State) : Result :=
  attempt s (.amocas rt ab sb w64 scp ord wt) fun e =>
    atomicPlan e rt ab w64 scp ord wt (e.poisS 1 sb ++ e.poisS 1 rt) true (.cas w64 (e.sGet rt).1 (e.sGet sb).1)

end Sys2Proof.Machine
end

