-- ==== Sys2Proof/Machine/EvSeat.lean ====
section
/-!
DEFINITION. Steps of a core's sequencer, its seats and its register die (R94, R153, R166 to R173, R328, R329, R431).
-/
namespace Sys2Proof.Machine

/-- A sector's tag set in a row. -/
def Row.spoil (r : Row) (j : Nat) : Row := { r with t := r.t ||| BitVec.ofNat 32 (2 ^ j) }

/-- Number of a counter of corrected errors. -/
def storNo : StorUnit → Nat
  | .vrf => 0
  | .l1d => 1
  | .table => 2
  | .queue => 3
  | .weights => 4
  | .granary => 5
  | .l2d => 6
  | .l2tag => 7

/-- A granule of a slice poisoned (R196). -/
def spoilGran (t : Tab Gran) (key : Nat) : Tab Gran := t.put key { t.val ⟨0, false⟩ key with p := true }

/-- An error in a line of the L1D: nothing where it is not held; a clean one is invalidated and fetched again (R191). -/
def State.l1Err (s : State) (c : CoreId) (n : Nat) (dirty : State) : State :=
  match (s.core c).l1.find n with
  | none => s
  | some e => if e.dirty then dirty else s.modCore c fun x => { x with l1 := x.l1.del n }

/-- An error that a core meets in storage (R191, R196, R217, R280): a corrected one is counted. An uncorrectable one poisons a sector of a
row or of a pq entry, a granule of the weight store, of the L2, or of a dirty L1D line; invalidates a clean L1D line or a translation; and
stops the core where it is met in a dirty line's tag, the seat table or a queue entry. With both tags of an L2 line the lines of its set
read as poisoned, and its slice is to be excluded (R280). -/
def State.storErr (s : State) (c : CoreId) : StorErr → State
  | .none => s
  | .corrected u => s.modCore c fun x => { x with fixes := x.fixes.put (storNo u) (x.fixes.val 0 (storNo u) + 1) }
  | .vrf row j => s.modCore c fun x => { x with vrf := x.vrf.put row.toNat ((x.row row.toNat).spoil j.toNat) }
  | .pq k n j => s.modSeat c k fun q => { q with pq := q.pq.put n.toNat ((q.pq.val .zero n.toNat).spoil j.toNat) }
  | .l1d line => s.l1Err c line.toNat (s.poison (granules (128 * line.toNat) 128))
  | .l1tag line => s.l1Err c line.toNat (s.stopCore c)
  | .icache => s
  | .table => s.stopCore c
  | .weights scale slice g => s.modCore c fun x =>
      if scale then { x with wsc := spoilGran x.wsc (32 * slice.toNat + g.toNat % 32) }
      else { x with wel := spoilGran x.wel (1024 * slice.toNat + g.toNat) }
  | .granary row j => s.modCore c fun x => { x with gran := x.gran.put row.toNat ((x.granRow row.toNat).spoil j.toNat) }
  | .l2d g => if (s.l2.lines.find (g.toNat / 2)).isSome then s.poison [g.toNat] else s
  | .l2tag line =>
      let set := (s.l2.lines.filter fun p => l2Same p.1 line.toNat).map Prod.fst
      let s := s.poison (set.flatMap fun n => granules (128 * n) 128)
      { s with l2 := { s.l2 with lost := insertNat s.l2.lost (l2Home line.toNat) } }
  | .tlb second i =>
    if second then s.modCluster (coreDie c) (clusterOf (coreX c) (coreY c)) fun u => { u with tlb2 := u.tlb2.eraseIdx i.toNat }
    else s.modCore c fun x => { x with tlb := x.tlb.eraseIdx i.toNat }

/-- Meaning of ISSUE_ATTEMPT: the ck of a core up to the point where a bundle's syllables run (R431), after a storage error
that the ck meets (R191). -/
def execIssueAttempt (core : CoreId) (err : StorErr) (s : State) : Result := .next ((s.storErr core err).front core)

/-- Meaning of STEPGAP: at the 4,097th bundle since the last STEP the seat takes F_STEPGAP, or a request is served in its
place (R94). -/
def execStepgap (core : CoreId) (s : State) : Result :=
  match (s.core core).issuing with
  | none => .next s
  | some k => .next (if (s.core core).mayIssue && 4096 ≤ (s.seat core k).gap && !(s.seat core k).pending s.cyc then
      (s.takeGap core k).fullEntry core else s)

/-- Meaning of ASYNC_CAUSE_TAKE: the issuing seat takes its oldest pending cause, unless its bundle has its load's answer (R59, R153). -/
def execAsyncCauseTake (core : CoreId) (s : State) : Result :=
  match (s.core core).issuing with
  | none => .next s
  | some k => .next (if (s.core core).mayIssue && (s.seat core k).pending s.cyc && !(s.core core).filling k then
      (s.takePending core k).fullEntry core else s)

/-- Meaning of SEAT_SWITCH: at a switch point, or while the core idles, the designated seat takes the core (R169). -/
def execSeatSwitch (core : CoreId) (s : State) : Result :=
  let x := s.core core
  .next (if x.swp || x.issuing.isNone then s.setCore core x.switchPoint else s)

/-- Meaning of LOAD_MISS_FILL: what a frozen load waits for has come, and issue goes on; `fill` is what another device or the host answers
to a load that was sent there (R59, R102). -/
def execLoadMissFill (fill : CoreAns) (s : State) : Result :=
  .next <| s.modCore fill.1 fun x =>
    { x with freeze := false, fill := x.fill.map fun f =>
        if f.code = some none then { f with code := some (some fill.2) } else { f with load := f.load.map fun a => some (a.getD fill.2) } }

/-- Meaning of DESIGNATE: the dispatcher writes NXT and NV as R323 chooses, and nothing else; with no seat issuing that is a
switch point (R166, R169, R323). -/
def execDesignate (core : CoreId) (nxt : SeatId) (nv : Bool) (s : State) : Result :=
  .next <| if s.choice core = (if nv then some nxt else none) then
    s.modCore core fun x =>
      { x with ctl := setBits x.ctl 2 0 (nxt.toNat + nv.toNat * 4), swp := x.swp || x.issuing.isNone }
  else s

/-- Meaning of PRQ_KILL (R328). -/
def execPrqKill (core : CoreId) (seat : SeatId) (s : State) : Result := .next (s.request core seat 1)
/-- Meaning of PRQ_CHECKPOINT (R328). -/
def execPrqCheckpoint (core : CoreId) (seat : SeatId) (s : State) : Result := .next (s.request core seat 2)
/-- Meaning of PRQ_DRAIN: it has no effect in the core (R168). -/
def execPrqDrain (core : CoreId) (seat : SeatId) (s : State) : Result := .next (s.request core seat 3)

/-- Meaning of FORCED_KILL: a kill request that no STEP has served in time empties the seat, whatever its state (R329). -/
def execForcedKill (core : CoreId) (seat : SeatId) (s : State) : Result :=
  let q := s.seat core seat
  .next <|
    if q.st != .empty && s.overdue core seat 1 then
      (s.killSeat core seat).modInst (coreDie core) (bInst q.billet) fun i => { i with forced := true }
    else s

/-- PMASK of a task descriptor permits a kill (R310, R329). -/
def State.mayKill (s : State) (d : DieId) (inst : Nat) : Bool :=
  match (s.die d).insts.find inst with
  | none => false
  | some i => tdMay i.tsk.desc 0

/-- Meaning of CKPT_REQUEST_TIMEOUT: a checkpoint request that has waited too long becomes a kill where the task permits one,
and otherwise stands (R329). -/
def execCkptRequestTimeout (core : CoreId) (seat : SeatId) (s : State) : Result :=
  let q := s.seat core seat
  .next <|
    if q.st != .empty && s.overdue core seat 2 && s.mayKill (coreDie core) (bInst q.billet) then s.request core seat 1
    else s

/-- A row group lies in the window of a valid billet (R172). -/
def CoreSt.groupUsed (x : CoreSt) (g : Nat) : Bool :=
  seatIds.any fun k =>
    let b := (x.seatAt k).billet
    bV b && bWbase b ≤ 64 * g && 64 * g < bWbase b + bW b

/-- Meaning of ROW_POWER_WRITE: the steward writes the row power states; a group of a window stays ACTIVE, code 3 changes
nothing, and a GATED group loses its rows (R172). -/
def execRowPowerWrite (core : CoreId) (val : Word) (s : State) : Result :=
  .next <| s.modCore core fun x =>
    (List.range 32).foldl (fun x g =>
      let v := bits val (2 * g + 1) (2 * g)
      if v = 3 || (v != 0 && x.groupUsed g) then x
      else
        let lose := v = 2 || bits x.gs (2 * g + 1) (2 * g) = 2
        { x with
          gs := setBits x.gs (2 * g + 1) (2 * g) v
          vrf := if lose then x.vrf.filter fun p => p.1 / 64 != g else x.vrf }) x

/-- Status word of a debug access: GATED, WOKE and WAKE (R173). -/
def debugStatus (gated woke : Bool) (wake : Nat) : Word :=
  BitVec.ofNat 64 (gated.toNat + woke.toNat * 2 + (if woke then wake % 41 else 0) * 2 ^ 16)

/-- Power state of a row's group, and the core with a DROWSY group woken by an access (R173). -/
def CoreSt.wakeRow (x : CoreSt) (row : Nat) : Nat × CoreSt :=
  let g := row / 64
  let st := bits x.gs (2 * g + 1) (2 * g)
  (st, if st = 1 then { x with gs := setBits x.gs (2 * g + 1) (2 * g) 0 } else x)

/-- A result for a physical row is on its way, of a bound that has not passed or of variable latency: the row is undefined (R31, R59). -/
def CoreSt.rowOpen (x : CoreSt) (p : Nat) : Bool :=
  x.seat.any fun q => (q.2.fly.any fun f => f.w.code = 128 + p) || q.2.vres.any fun v => match v.dest with
    | .row r _ _ => r = p
    | _ => false

/-- Meaning of DEBUG_ROW_READ (R59, R173). -/
def execDebugRowRead (core : CoreId) (row : Bits11) (s : State) : Result :=
  let (st, x) := (s.core core).wakeRow row.toNat
  let r := if st = 2 then Row.zero
    else if x.rowOpen row.toNat then ⟨Config.freeRow row.toNat s.free, Config.freeTags row.toNat s.free⟩ else x.row row.toNat
  .next ((s.setCore core x).send
    (.debugRow core row r.d r.t (debugStatus (st = 2) (st = 1) (Config.freeNat 1 s.free))))

/-- A row's results in flight after a debug write to it: which of the two writes remains is open (R31, R173). -/
def SeatSt.clash (q : SeatSt) (row free : Nat) : SeatSt :=
  { q with fly := q.fly.map fun f => match f.w with
      | .row p m d u g => if p = row then { f with w := .row p m (Config.freeRow p free) u (Config.freeTags p free) }
        else { f with w := .row p m d u g }
      | _ => f }

/-- Meaning of DEBUG_ROW_WRITE: a row of a GATED group is not written (R173). -/
def execDebugRowWrite (core : CoreId) (row : Bits11) (data : RowBits) (tags : Imm32) (s : State) : Result :=
  let (st, x) := (s.core core).wakeRow row.toNat
  let x := if st = 2 then x
    else { x with vrf := x.vrf.put row.toNat ⟨data, tags⟩, seat := x.seat.mapV fun q => q.clash row.toNat s.free }
  .next ((s.setCore core x).send
    (.debugRow core row data tags (debugStatus (st = 2) (st = 1) (Config.freeNat 1 s.free))))

/-! ### Results that land (R55, R102, R164, R170, R390, R419) -/

/-- The seat with a result put in place of the one of its number, or without it. -/
def SeatSt.putRes (q : SeatSt) (id : Nat) (v : Option Vres) : SeatSt :=
  { q with vres := q.vres.filterMap fun x => if x.id = id then v else some x }

/-- What an outstanding result still has to do, once every access before it has been performed (R284 to R290): a load binds its value or
is sent; a store, an atomic, an arrival, a launch, a trigger, a join or an increment takes effect. -/
def State.perform (s : State) (c : CoreId) (k : SeatId) (v : Vres) : State :=
  let put (s : State) (w : Option Vres) : State := s.modSeat c k fun q => q.putRes v.id w
  let v := { v with after := [] }
  let done := { v with todo := none }
  match v.todo with
  | none => s
  | some (.load l) =>
    let segs := l.map Prod.snd
    let t := s.l1Segs c (bL1w (s.seat c k).billet) false segs
    if isFar segs then put (t.askFar segs) (some { v with remote := true, ready := false })
    else put (t.uoAct c k false (v.acq && v.wide)) (some (s.landed done l FarAns.none))
  | some (.store l) =>
    let t := (s.uoAct c k (v.rel && v.wide) false).storeParts c k l
    put t (some (if remote (l.map Prod.fst) then { done with remote := true, ready := false } else done))
  | some (.atomic x o) =>
    let r := s.doAtomic c k v x o
    put r.1 (some r.2)
  | some (.arrive m) => put ((s.uoAct c k v.wide false).outward (v.ck + 2) (.bar (coreDie c) m)) (some done)
  | some (.launch r) => put ((s.uoAct c k true false).outward (v.ck + 2) (.launch (coreDie c) r)) (some done)
  | some .trig => put (s.trigger c k v.ck) none
  | some (.coll b j) =>
    match s.collFar j b with
    | some l => put (s.askSegs l) (some { v with remote := true })
    | none => (put (s.uoAct c k true false) (some done)).collRead j b FarAns.none
  | some (.inc sem n) => put (s.modSeat c k fun q => { q with
      inc := q.inc ++ [(sem, n)], recent := q.recent.map fun r => { r with sig := r.sig || r.ck ≤ v.ck } }) none
  | some (.push _) | some (.pop _) => s

/-- An access of a seat has been performed: what waited for it and for nothing else takes its turn (R284). -/
def State.unblock (s : State) (c : CoreId) (k : SeatId) : Nat → Nat → State
  | 0, _ => s
  | fuel + 1, id =>
    let go := (s.seat c k).vres.filter fun v => v.after.contains id && v.after.all (· = id)
    go.foldl (fun (s : State) v =>
      let s := s.perform c k v
      if (s.seat c k).vres.any fun w => w.id = v.id && w.isOpen then s else s.unblock c k fuel v.id)
      (s.modSeat c k fun q => { q with vres := q.vres.map fun v => { v with after := v.after.filter (· != id) } })

/-- The release that a result's increment carries reaches beyond the core (R296, R299 to R301). -/
def Vres.tokenWide (v : Vres) : Bool :=
  match v.kind with
  | .store => !v.rel || v.wide
  | .atomic | .barw => v.wide
  | .bara => v.wide && v.data.getLsbD 16
  | .qpop | .coll => true
  | _ => false

/-- What the performance of an access does to the seat and to UO lines: a token's release orders the stores before it for engine
commands, and its acquire reaches as far as the release (R287, R296, R297). -/
def State.covers (s : State) (c : CoreId) (k : SeatId) (v : Vres) : State :=
  let s := s.uoAct c k (v.sem != 0 && v.kind.isStore && v.tokenWide) (v.kind.isLoad && v.acq && v.wide)
  if v.sem = 0 then s
  else s.modSeat c k fun q =>
    let q := if v.kind.isStore then q.forget v.loc else q
    { q with
      recent := if v.rel then q.recent.filter fun r => v.ck ≤ r.ck else q.recent
      wide := if v.tokenWide then q.wide ||| BitVec.ofNat 16 (2 ^ v.sem.toNat) else q.wide }

/-- A result lands (R55, R102): it is outstanding no more, and what waited for it goes on. -/
def State.landRes (s : State) (c : CoreId) (k : SeatId) (i : Nat) (v : Vres) : State :=
  let s := s.modSeat c k fun q => { q with vres := q.vres.eraseIdx i }
  ((s.covers c k v).landVal c k v).unblock c k ((s.seat c k).vres.length + 1) v.id

/-- A record pushed to a queue of this device has been published (R240, R241). -/
def State.published (s : State) (v : Vres) : Bool :=
  let i := qidOf (v.addr)
  match s.qFind i with
  | none => true
  | some u => match u.recs.find? fun r => r.idx = v.key && !r.pad with
    | none => true
    | some r => r.pub

/-- Another device or the host owes the answer to a result that has been sent. -/
def Vres.sent (v : Vres) : Bool :=
  v.after.isEmpty && v.owed && (v.kind.isMem || v.kind == .qpush || v.kind == .qpop)

/-- The answer that the payload of a push waits for has come: the record is written, or the payload leaves; what an access that failed
should have brought is poisoned, and its cause is pending (R102, R240, R408, R419). -/
def State.pushCome (s : State) (c : CoreId) (k : SeatId) (v : Vres) (r : PushReq) (a : FarAns) (bad : Option (Bits16 × Word)) : State :=
  let l := farFill a (farParts r.segs 0) (s.nearBytes r.segs)
  let far := r.segs.flatMap fun g => List.replicate g.len (isFab g.xl.pa || isHost g.xl.pa)
  let b := if bad.isSome then (l.zip far).map fun p => if p.2 then (0, true) else p.1 else l
  let s := (s.pushWritten c k r b).modSeat c k fun q => q.putRes v.id
    (some { v with todo := none, remote := r.away, ready := !(r.away && r.ack) })
  match bad with
  | none => s
  | some e => s.pendCause c k ⟨e.1, 4, 0, e.2, 0⟩

/-- The answer that a pop waits for has come: the packet is copied, or its copy has been written; bytes that failed to be read count as
poisoned ones of no known value, and a copy that failed is an imprecise cause (R102, R241, R408, R419, log 60). -/
def State.popCome (s : State) (c : CoreId) (k : SeatId) (v : Vres) (r : PopReq) (a : FarAns) (bad : Option (Bits16 × Word)) : State :=
  let i := qidOf (BitVec.ofNat 64 r.raw)
  let fin (s : State) : State :=
    (s.popDone i).modSeat c k fun q => q.putRes v.id (some { v with todo := none, remote := false, ready := true })
  match r.read with
  | some l =>
    let b := if bad.isSome then (s.nearBytes l).map fun p => (p.1, true) else farFill a (farParts l 0) (s.nearBytes l)
    let b := match (s.qFind i).bind fun u => u.recs.head? with
      | some x => x.marked b
      | none => b
    let o := s.copyOut c k r.buf b
    if o.2 then o.1.modSeat c k fun q => q.putRes v.id (some { v with todo := some (.pop { r with read := none }) }) else fin o.1
  | none => match bad with
    | none => fin s
    | some e => (fin s).pendCause c k ⟨e.1, 4, 0, e.2, 0⟩

/-- A result may land: a value not known yet lands only if another device or the host gives it; an egress completion lands
through its own event; a margin request once the column has settled (R257); a push once its record is published (R241); and none
before what it waits for (R284). -/
def State.mayLand (s : State) (c : CoreId) (v : Vres) : Bool :=
  let x := s.core c
  v.sent || (v.after.isEmpty && v.ready && match v.kind with
    | .nsend => false
    | .mrgn => v.ck + 2 < s.cyc && x.guard ≤ s.colLevel c
    | .qpush => v.remote || s.published v
    | _ => true)

/-- A result with the answer that it brings: the bytes of a load, the old value of an atomic, which the host performs now, or the value of
an acknowledgement (R104, R108, R161, R390, R422). -/
def State.answered (s : State) (v : Vres) (a : FarAns) : State × Vres :=
  match v.todo with
  | some (.load l) => (s, { s.landed v l a with todo := none })
  | some (.atomic x o) =>
    let r := s.atomic x.kid x.pa o
    (r.2.2, { v with data := BitVec.ofNat 8192 r.1, tags := if r.2.1 || x.por then 1 else 0, ready := true, todo := none })
  | _ =>
    if !v.sent then (s, v)
    else match v.kind with
      | .qpush => (s, { v with data := BitVec.ofNat 8192 (field a.data 0 8), ready := true })
      | .atomic => (s, v.given ((List.range v.bytes).map (farByte a)))
      | _ => (s, { v with ready := true })

/-- The acknowledgement of a remote push reaches a suspended strand: the dispatcher keeps its result with the instance (R170). -/
def State.keepAck (s : State) (d : DieId) (n ix i : Nat) (a : FarAns) : State :=
  match ((s.instAt d n).bind fun y => y.saved.find ix).bind fun v => v.seat.vres[i]? with
  | none => s
  | some v =>
    if !(v.kind == .qpush && v.owed) then s
    else
      let w := (s.answered v a).2
      s.modInst d n fun y => { y with saved := y.saved.map fun p =>
        if p.1 = ix then (p.1, { p.2 with seat := p.2.seat.putRes v.id (some w) }) else p }

/-- Meaning of RESULT_LANDING: the result numbered `idx` of those outstanding lands; `ans` is what another device or the host answers.
With `sus` it is the acknowledgement of a strand that is suspended; and the descriptor of a collective that lies on another device comes
so (R55, R170, R390, R408, R422, R424). -/
def execResultLanding (core : CoreId) (seat : SeatId) (idx : Bits8) (sus : SusId) (ans : FarAns) (s : State) : Result :=
  .next <| match sus with
    | some (n, ix) => s.keepAck (coreDie core) n.toNat ix.toNat idx.toNat ans
    | none => match (s.seat core seat).vres[idx.toNat]? with
      | none => s
      | some v =>
        match v.todo, v.remote && v.after.isEmpty with
        | some (.coll b j), true =>
          ((s.modSeat core seat fun q => q.putRes v.id (some { v with todo := none, remote := false })).uoAct core seat true false).collRead j b ans
        | some (.push r), true => if ans.err.isSome then s else s.pushCome core seat v r ans none
        | some (.pop r), true => if ans.err.isSome then s else s.popCome core seat v r ans none
        | _, _ =>
          if !s.mayLand core v || ans.err.isSome then s
          else
            let r := s.answered v ans
            r.1.landRes core seat idx.toNat r.2

/-- Some part of what a result has been sent for lies on another device, or at the host (R366). -/
def Vres.away (v : Vres) : Bool :=
  v.sent && match v.todo with
    | some (.load l) => l.any fun p => isFab p.2.xl.pa
    | some (.push r) => anySeg r.segs fun x => isFab x.pa
    | some (.pop r) => (r.read.map fun l => anySeg l fun x => isFab x.pa).getD true
    | some _ => false
    | Option.none => v.kind != .qpush
def Vres.atHost (v : Vres) : Bool :=
  v.sent && match v.todo with
    | some (.load l) => l.any fun p => isHost p.2.xl.pa
    | some (.push r) => anySeg r.segs fun x => isHost x.pa
    | some (.pop r) => r.read.any fun l => anySeg l fun x => isHost x.pa
    | some (.atomic x _) => isHost x.pa
    | _ => false

/-- The address of an access whose answer failed: that of its buffer for a queue instruction, that of the lane where a row is gathered or
scattered and the answer names it (R102, R105, R241). -/
def Vres.errAddr (v : Vres) (a : FarAns) : Nat :=
  match v.todo with
  | some (.push r) => vaOf r.buf
  | _ => if v.key = 9 && a.addr != 0 then bits a.addr 56 0 else v.addr.toNat

/-- Code and value of a failed answer to an access, where that failure can happen to it (R102, R164, R390, R419): a link or a
target of another device; an atomic that the host refuses; a completion that times out or fails. -/
def Vres.answerErr (v : Vres) (a : FarAns) : Option (Bits16 × Word) :=
  let at' := v.errAddr a
  let amo := v.kind == .atomic
  let can : Bool := match a.err with
    | Option.none => false
    | some .bus => v.away || (v.atHost && !amo)
    | some .link => v.away
    | some (.hatom st) => v.atHost && amo && (st = 1 || st = 4)
    | some (.hcpl tmo st) => v.atHost && !(amo && !tmo && (st = 1 || st = 4))
  if can then farFault { a with addr := 0 } at' else Option.none

/-- An access fails after it left the core: its result lands as 0 with its tag, and the cause becomes pending; a speculative load drops an
F_BUS, and a speculative row load loses the lanes that failed and has no cause (R104, R105, R160, R164). A push or a pop goes on without
the bytes. -/
def State.failRes (s : State) (c : CoreId) (k : SeatId) (i : Nat) (v : Vres) (a : FarAns) (e : Bits16 × Word) : State :=
  match v.todo with
  | some (.push r) => s.pushCome c k v r a (some e)
  | some (.pop r) => s.popCome c k v r a (some e)
  | t =>
    let w := match t with
      | some (.load l) => s.landed v l a
      | _ => if v.kind == VKind.qpop then v else v.failed
    s.landRes c k i { w with
      bad := if v.kind == VKind.lds && (v.key = 8 || e.1 == fBus) then none else some e, ready := true, todo := none }

/-- A physical address of this device for the first location of an access on another device or at the host (R366, R375). -/
def State.paOfLoc (s : State) (l : List (Nat × Nat)) : Nat :=
  match l.find? fun p => 2 ^ 64 ≤ p.1 || isHost p.1 with
  | none => 0
  | some (x, _) =>
    if x < 2 ^ 64 then x
    else match s.pkg.fwin.find? fun p =>
        p.2.dev.toNat + 1 = x / 2 ^ 64 && p.2.base.toNat ≤ x % 2 ^ 64 && x % 2 ^ 64 < p.2.base.toNat + 2 ^ 45 with
      | none => 0
      | some p => 3 * 2 ^ 50 + p.1 * 2 ^ 45 + (x % 2 ^ 64 - p.2.base.toNat)

/-- Kind of access of a result, as the fault queue records it. -/
def VKind.acc (k : VKind) : AccKind :=
  match k with
  | .store | .qpop => .write
  | .atomic => .atomic
  | _ => .read

/-- Meaning of ERROR_RESPONSE (R102, R164, R375, R376, R390, R419): an error response is also recorded in the fault queue and in the log
of the target through which it came. -/
def execErrorResponse (core : CoreId) (seat : SeatId) (idx : Bits8) (ans : FarAns) (s : State) : Result :=
  .next <| match (s.seat core seat).vres[idx.toNat]? with
    | none => s
    | some v => match v.answerErr ans with
      | none => s
      | some e =>
        if ans.err = some .link && !s.linkGone v.ck then s else
        let w := s.whoSeat core seat
        let s := if ans.err = some .bus then
            s.recordFault w core seat 0 (bInst (s.seat core seat).billet)
              ⟨fBus, 10, 0, v.errAddr ans, 0, v.kind.acc, w.user, s.paOfLoc v.loc⟩
          else s
        s.failRes core seat idx.toNat v ans e

/-! ### The seat table (R166 to R168) -/

/-- Meaning of BILLET_WRITE (R32, R166, R167, R168, R219). -/
def execBilletWrite (core : CoreId) (seat : SeatId) (billet : Billet) (s : State) : Result :=
  .next (s.writeBillet core seat billet)

/-- Meaning of BILLET_RELEASE: the dispatcher clears V of a seat that is ENDED or HALTED (R168). -/
def execBilletRelease (core : CoreId) (seat : SeatId) (s : State) : Result :=
  let st := (s.seat core seat).st
  .next <| if st == .ended || st == .halted then (s.modCore core fun x => x.emptySeat seat).outIfEmpty core else s

/-- Meaning of SEAT_WAKE_DONE: rows active and state in place (R168, R172). -/
def execSeatWakeDone (core : CoreId) (seat : SeatId) (s : State) : Result :=
  .next <| s.modSeat core seat fun q => if q.st == .wake then { q with st := .resident } else q

/-- Meaning of CHECKPOINT_SAVE_DONE: once every result awaited has landed and no step of the seat runs, the seat is EMPTY and
its instance holds its state (R168, R170, R180, R235, R268, R272). -/
def execCheckpointSaveDone (core : CoreId) (seat : SeatId) (s : State) : Result :=
  .next <| if (s.core core).saveReady seat then (s.saveDone core seat).outIfEmpty core else s

end Sys2Proof.Machine
end

