-- ==== Sys2Proof/Machine/EvHost.lean ====
section
/-!
DEFINITION. Steps of the host interface: MSI-X (R388, R389), BAR2 (R378), host atomics (R390, R391), TDISP and SPDM (R392,
R393), bring-up and supply loss (R395 to R397).
-/
namespace Sys2Proof.Machine

/-! ### MSI-X (R388, R389) -/

/-- Meaning of INTR_TIMEOUT: CTIME has passed since PEND left 0 (R389). -/
def execIntrTimeout (func : FuncId) (vec : Bits11) (s : State) : Result := .next (s.sendVec func vec.toNat)

/-- A vector of a function changed, unless its interface is locked; a message is then sent if a condition holds
(R389, R392). -/
def State.setVec (s : State) (f : FuncId) (n : Nat) (g : VecSt → VecSt) : State :=
  match (s.func f).vec.find n with
  | none => s
  | some v =>
    if s.locked f then s.breach f 0x20000
    else (s.modFunc f fun x => { x with vec := x.vec.put n (g v) }).sendVec f n

/-- Meaning of MSIX_UNMASK (R389). -/
def execMsixUnmask (func : FuncId) (vec : Bits11) (s : State) : Result :=
  .next (s.setVec func vec.toNat fun v => { v with masked := false })

/-- Meaning of COALESCE_WRITE: CCNT 0 is taken as 1 (R388). -/
def execCoalesceWrite (func : FuncId) (vec : Bits11) (val : Word) (s : State) : Result :=
  .next (s.setVec func vec.toNat fun v =>
    { v with ccnt := BitVec.ofNat 8 (max 1 (bits val 7 0)), ctime := BitVec.ofNat 16 (bits val 31 16) })

/-! ### BAR0 (R378) -/

/-- A word of bytes that a buffer of 64 holds. -/
def bufWord (b : List Byte) (i : Nat) : Nat := field b (8 * i) 8

/-- Word w of a queue record (R382). -/
def PorterQ.word (r : PorterQ) (w : Nat) : Nat :=
  match w with
  | 0 => r.base.toNat
  | 1 => r.lsz + r.en.toNat * 2 ^ 8 + r.priv.toNat * 2 ^ 9 + r.err.toNat * 2 ^ 10 + r.pkts.length * 2 ^ 16
  | 2 => r.tail.toNat
  | _ => r.head.toNat

/-- A vector's message waits for its mask: its bit of the pending bit array (R378, R389). -/
def VecSt.waits (v : VecSt) (now : Nat) : Bool := v.masked && v.fire now

/-- What a read of the 8 bytes at a multiple of 8 in a function's BAR0 gives: the status mailbox of function 0, the timebase, the host
mailbox, the queue records, the MSI-X table, its pending bits and the coalescing table; zero where the function holds nothing
(R378, R382, R388, R396). -/
def State.bar0 (s : State) (f : FuncId) (off : Nat) : Word :=
  let x := s.func f
  let vec (n : Nat) (g : VecSt → Nat) : Nat := ((x.vec.find n).map g).getD 0
  BitVec.ofNat 64 <|
    if off < 0x100 then (if f = 0 then (s.pkg.mbox.val 0 (off / 8)).toNat else 0)
    else if 0x1000 ≤ off && off < 0x1020 then
      ([s.pkg.tbbase, s.pkg.tbcyc, s.pkg.tbrate, s.pkg.tbstat].getD ((off - 0x1000) / 8) 0).toNat
    else if 0x2000 ≤ off && off < 0x2040 then bufWord x.mreq ((off - 0x2000) / 8)
    else if off = 0x2040 then x.hmdb.toNat
    else if 0x2080 ≤ off && off < 0x20C0 then bufWord x.mresp ((off - 0x2080) / 8)
    else if 0x10000 ≤ off && off < 0x12000 then
      ((x.pqs.find ((off - 0x10000) / 32)).map fun r => r.word (off / 8 % 4)).getD 0
    else if 0x20000 ≤ off && off < 0x28000 then
      vec ((off - 0x20000) / 16) fun v => if off / 8 % 2 = 0 then v.addr.toNat else v.data.toNat + v.masked.toNat * 2 ^ 32
    else if 0x30000 ≤ off && off < 0x30100 then
      sum ((List.range 64).map fun i => vec (8 * (off - 0x30000) + i) fun v => (v.waits s.cyc).toNat * 2 ^ i)
    else if 0x38000 ≤ off && off < 0x3C000 then
      vec ((off - 0x38000) / 8) fun v => v.ccnt.toNat + v.ctime.toNat * 2 ^ 16 + v.pend.toNat * 2 ^ 40
    else 0

/-! ### BAR2 (R378, R391, R392) -/

/-- An access lies in a function's aperture. -/
def State.inBar2 (s : State) (f : FuncId) (off : Word) (n : Nat) : Bool := off.toNat + n ≤ (s.func f).bar2.toNat

/-- Bytes that a read asks for: 0 stands for 4,096 (R377). -/
def readLen (len : Bits12) : Nat := if len = 0 then 4096 else len.toNat

/-- Meaning of HOST_BAR2_READ: the function's access at virtual address `off` of its address space 0; a failed translation or an
interface in ERROR completes with Unsupported Request, poisoned data as a poisoned TLP (R378, R392); `len` is what another device
answers. -/
def execHostBar2Read (func : FuncId) (off : Word) (len : LenFar) (s : State) : Result :=
  let n := readLen len.1
  .next <|
    if !s.inBar2 func off n then s
    else if (s.func func).tdisp == .error then s.send (.hostRead func off [] false false)
    else match s.span (.ofFunc func) .read off.toNat n with
      | .bad f => (s.porterFault func f).send (.hostRead func off [] false false)
      | .ok l => match s.farRead len.2 off.toNat false l with
        | (s, .error f) => (s.porterFault func f).send (.hostRead func off [] false false)
        | (s, .ok b) => s.send (.hostRead func off (b.map Prod.fst) true (b.any Prod.snd))

/-- Meaning of HOST_BAR2_WRITE: a payload of at most 512 bytes is performed (R377), or dropped where its translation fails or the
interface is in ERROR (R378, R392). -/
def execHostBar2Write (func : FuncId) (off : Word) (data : Bytes) (s : State) : Result :=
  .next <|
    if 512 < data.length || !s.inBar2 func off data.length || (s.func func).tdisp == .error then s
    else match s.span (.ofFunc func) .write off.toNat data.length with
      | .bad f => s.porterFault func f
      | .ok l => s.putSegs l data

/-- The value that a host AtomicOp writes (R391). -/
def hostNew (op : HostOp) (n x y old : Nat) : Nat :=
  match op with
  | .fetchAdd => (old + x) % 2 ^ (8 * n)
  | .swap => x % 2 ^ (8 * n)
  | .cas => if old = x % 2 ^ (8 * n) then y % 2 ^ (8 * n) else old

/-- Meaning of HOST_ATOMIC: an AtomicOp of 32, 64 or, for CAS, 128 bits, naturally aligned, is performed at the home L2 slice; any
other, one that fails translation and one on poisoned memory change nothing (R391). -/
def execHostAtomic (func : FuncId) (off : Word) (op : HostOp) (sz : Bits2) (x y : Bits128) (s : State) : Result :=
  let n := 4 * 2 ^ sz.toNat
  let refuse (t : State) : State := t.send (.hostAtomic func off 0 false)
  .next <|
    if !s.inBar2 func off n then s
    else if (s.func func).tdisp == .error || 2 < sz.toNat || (sz = 2 && op != .cas) || off.toNat % n != 0 then refuse s
    else match s.span (.ofFunc func) .atomic off.toNat n with
      | .bad f => refuse (s.porterFault func f)
      | .ok l =>
        if s.poisSegs l || l.any (fun g => !isHbm g.xl.pa) then refuse s
        else
          let old := leNat (s.rdSegs l)
          (s.putSegs l (leBytes n (hostNew op n x.toNat y.toNat old))).send (.hostAtomic func off (BitVec.ofNat 128 old) true)

/-- Meaning of PCIE_COMPLETION_TIMEOUT: a request of a strand to the host is not answered: F_HCPL with bit 60 set (R390). -/
def execPcieCompletionTimeout (core : CoreId) (seat : SeatId) (idx : Bits8) (s : State) : Result :=
  let a : FarAns := { data := [], pois := [], err := some (.hcpl true 0), addr := 0, perf := false }
  .next <| match (s.seat core seat).vres[idx.toNat]? with
    | none => s
    | some v => match v.answerErr a with
      | none => s
      | some e => s.failRes core seat idx.toNat v a e

/-! ### TDISP (R392) -/

/-- Every instance of a function killed: bound ones by request, others at once. -/
def State.killFunc (s : State) (f : FuncId) : State :=
  s.dies.foldl (fun (s : State) (p : Nat × DieSt) => p.2.insts.foldl (fun (s : State) (q : Nat × InstSt) =>
    if q.2.func = f && q.2.done.isNone then s.endInst (BitVec.ofNat 2 p.1) q.1 none else s) s) s

/-- The keys of a function that are loaded. -/
def State.keysOf (s : State) (f : FuncId) : List Nat :=
  (s.pkg.keys.filter fun p => bits p.2.word 1 0 != 0 && bits p.2.word 6 2 = f.toNat).map Prod.fst

/-- Meaning of STOP_INTERFACE: the function's queues are disabled, its instances killed and its keys retired; once none of them holds a
seat and no access under the keys is outstanding the keys are cleared, and the interface is unlocked (R374, R392). -/
def execStopInterface (func : FuncId) (s : State) : Result :=
  let s := s.modFunc func fun x => { x with pqs := x.pqs.mapV fun r => { r with en := false } }
  let s := s.killFunc func
  let ks := s.keysOf func
  let s := ks.foldl (fun (s : State) k => s.retireKey k) s
  let bound := s.dies.any fun p => p.2.insts.any fun q => q.2.func == func && !q.2.seats.isEmpty
  .next <|
    if bound || (!ks.isEmpty && !s.settled func) then s
    else
      let s := ks.foldl (fun (s : State) k => s.clearKey k) s
      s.modFunc func fun x => { x with tdisp := .unlocked }

/-- Meaning of LOCK_INTERFACE: CONFIG_UNLOCKED becomes CONFIG_LOCKED (R392). -/
def execLockInterface (func : FuncId) (s : State) : Result :=
  .next <| if (s.func func).tdisp == .unlocked then s.modFunc func fun x => { x with tdisp := .locked } else s

/-- Meaning of START_INTERFACE: CONFIG_LOCKED becomes RUN (R392). -/
def execStartInterface (func : FuncId) (s : State) : Result :=
  .next <| if (s.func func).tdisp == .locked then s.modFunc func fun x => { x with tdisp := .run } else s

/-- The measurement blocks that a function's DOE mailbox shows: blocks 1 to 5, and its own interface report (R393). -/
def State.blocks (s : State) (f : FuncId) : List Digest :=
  let x := s.func f
  let td : Nat := match x.tdisp with
    | .unlocked => 0
    | .locked => 1
    | .run => 2
    | .error => 3
  s.pkg.meas ++ [Config.report td x.bar2.toNat x.pqs.length x.vec.length]

/-- Meaning of SPDM_REQUEST: SPDM 1.2 and 1.3 answer from the measurement blocks, signed with the alias key. A
FINISH (0xE5) that Imyuno accepts opens the function's secured session, an END_SESSION (0xEC) closes it. In the safe state only
function 0 is served (R393, R394, R396). -/
def execSpdmRequest (func : FuncId) (req : Bytes) (s : State) : Result :=
  let code := field req 1 1
  .next <|
    if s.pkg.safe && func != 0 then s
    else
      let s := s.modFunc func fun x => { x with
        doe := if code = 0xE5 then x.doe || Config.freeBool 80 s.free else if code = 0xEC then false else x.doe }
      s.send (.doe func (Config.spdm s.free s.pkg.akey (s.blocks func) [0x12, 0x13] req))

/-! ### Bring-up (R395, R396) -/

/-- Word 0 of the status mailbox (R396). -/
def statusWord (b : BootIn) : Word :=
  let ok := b.code = 0
  BitVec.ofNat 64 (b.stage.toNat + (!ok).toNat * 2 ^ 4 + (ok && b.stage = 6).toNat * 2 ^ 5 + b.code.toNat * 2 ^ 16
    + b.cfgver.toNat * 2 ^ 32)

/-- The stage that a failure code ends, 6 where there is none (R395). -/
def stageOf (code : Nat) : Nat := if code = 0 then 6 else min 5 code

/-- An outcome that the boot stages may have: the stages run in order, each failure has its stage's code, and a configuration version
below the minimum fails stage 1 (R395). -/
def bootOk (minver : Nat) (b : BootIn) : Bool :=
  b.code.toNat ≤ 7 && b.stage.toNat = stageOf b.code.toNat && (minver ≤ b.cfgver.toNat || b.code = 1)

/-- Usable slices of a die: those that boot found, without those that a steward excludes (R280, R396, log 95). -/
def usable (lost : List Nat) (d : Nat) (w : Word) : Word :=
  lost.foldl (fun w h => if h / 64 = d then w &&& ~~~ ((1 : Word) <<< (h % 64)) else w) w

/-- The status mailbox after the boot stages (R396). -/
def statusMailbox (lost : List Nat) (b : BootIn) : Tab Word :=
  [(0, statusWord b), (1, b.c0), (2, b.c1), (3, b.c2), (4, b.c3), (5, usable lost 0 b.l0), (6, usable lost 1 b.l1),
    (7, usable lost 2 b.l2), (8, usable lost 3 b.l3)]

/-- Vtrim of a die's columns as Gnotor sets it (R348). -/
def bootTrim (w : Word) : Tab Nat := (List.range 8).map fun x => (x, bits w (8 * x + 7) (8 * x))

/-- A steward's inbox or outbox as the head steward configures it at boot: LRSZ 8, the inbox pushed and the outbox popped by
function 0; where the ring lies is firmware's choice (R266). -/
def bootQueue (d k : Nat) : QueueSt :=
  { func := 0, base := BitVec.ofNat 64 (64 * (Config.policy 2 (d * 16 + k) % 2 ^ 51)), lrsz := 8
    push := if k < 8 then 1 else 0, pop := if k < 8 then 0 else 1, pushDev := [],
    mirror := none, head := 0, tail := 0, recs := [], drops := 0 }

/-- The stewards' queues of a die. -/
def bootQueues (d : Nat) : Tab QueueSt := (List.range 16).map fun k => (0xFF0 + k, bootQueue d k)

/-- Cores that boot excludes are OUT (R254, R396). -/
def bootCores (b : BootIn) : Tab CoreSt :=
  ((List.range 256).filter fun i => !(([b.c0, b.c1, b.c2, b.c3].getD (i / 64) 0).getLsbD (i % 64))).map fun i =>
    (i, { CoreSt.reset with mstate := .out })

/-- Meaning of POWER_ON_RESET: the machine is as after reset, and the boot stages have ended as `boot` says: ready, or in the safe
state with its code; excluded cores are OUT, Vtrim is set, and the measurement blocks and keys are derived. What lies in host memory and
in the configuration flash stays, and what the device has sent outward (R280, R348, R393 to R396). What no boot can find is no boot. -/
def execPowerOnReset (boot : BootIn) (s : State) : Result :=
  let z := State.reset
  let ms := (List.range 5).map fun i => Config.measure (i + 1) boot.cfgver.toNat
  .next <| if !bootOk s.pkg.minver boot then s else { z with
    mem := s.mem.filter fun p => 2 ^ 51 ≤ p.1
    out := s.out, free := s.free, agenda := s.agenda
    cores := bootCores boot
    dies := (List.range 4).map fun d => (d, { DieSt.reset with
      queues := if boot.code = 0 then bootQueues d else [], vtrim := bootTrim ([boot.v0, boot.v1, boot.v2, boot.v3].getD d 0) })
    l2 := { z.l2 with lost := s.l2.lost }
    pkg := { PkgSt.reset with
      mbox := statusMailbox s.l2.lost boot, safe := boot.code != 0, devnum := boot.devnum, minver := s.pkg.minver
      meas := ms, ident := Config.identity, akey := Config.aliasKey Config.identity (ms.take 4) } }

/-- Meaning of SUPPLY_LOSS_WARNING: F_SUPPLY is recorded; nothing starts any more; the lines are written back, HBM refreshes itself,
and the marker is sealed. The device stays stopped (R397). -/
def execSupplyLossWarning (s : State) : Result :=
  .next <|
    if s.pkg.supply then s
    else
      let s := (s.headLog fSupply s.cyc).modPkg fun p =>
        { p with supply := true, mbox := p.mbox.put 0 (p.mbox.val 0 0 ||| 0x40) }
      let d := s.l2.lines.filter fun p => p.2.dirty
      let ok := Config.freeBool 82 s.free
      let n := if ok then d.length else Config.freeNat 81 s.free % (d.length + 1)
      let s : State := { s with l2 := { s.l2 with
        lines := s.l2.lines.mapV fun e => { e with dirty := e.dirty && !ok }
        reqs := s.l2.reqs ++ if ok then d.map fun p => (p.1, 0) else [] } }
      s.send (.marker (BitVec.ofNat 64 s.cyc) (BitVec.ofNat 64 (s.ptimeAt s.cyc)) n ok)

end Sys2Proof.Machine
end

