-- ==== Sys2Proof/Machine/Links.lean ====
section
/-!
DEFINITION. The directions of links (R409 to R418): their state, the choice of a flit in a slot, reassembly, and the records
of their failures.
-/
namespace Sys2Proof.Machine

/-- Number of an end of a direction of a lane among the links: the log number is its low nine bits (R409). -/
def linkKey (l : LinkId) : Nat := l.port.toNat + 512 * (l.lane.toNat + 64 * (l.die.toNat + 4 * l.rx.toNat))

/-- An end of a link. -/
def State.link (s : State) (l : LinkId) : LinkSt := s.pkg.links.val .reset (linkKey l)

/-- An end of a link replaced. -/
def State.setLink (s : State) (l : LinkId) (x : LinkSt) : State :=
  s.modPkg fun p => { p with links := p.links.put (linkKey l) x }

/-- The links that exist: Damsa ports of two lanes, the package links of a die to its relay partner and to the I/O dies, and the links of
the meshes' routers, whose numbers follow from their places (R409). -/
def LinkId.real (l : LinkId) : Bool :=
  let p := l.port.toNat
  if p < 64 then l.lane.toNat < 2 && l.die = 0
  else if p < 256 then p < 80 && p % 4 < 3 && l.die = 0
  else
    let d := p % 4
    let x := (p - 256) / 4 % 8
    let y := (p - 256) / 32
    l.lane = 0 && (if d = 0 then x < 7 else if d = 1 then y < 7 else if d = 2 then 0 < x else 0 < y)

/-- A link between routers of a die: SECDED and no retry (R409). -/
def LinkId.mesh (l : LinkId) : Bool := 256 ≤ l.port.toNat

/-- A package link of a die that is fenced sends nothing (R359). -/
def State.linkFenced (s : State) (l : LinkId) : Bool :=
  let p := l.port.toNat
  64 ≤ p && p < 80 && (s.die (BitVec.ofNat 2 ((p - 64) / 4))).fenced

/-! ### Packets (R410) -/

/-- Fields of a header flit: TYPE, CH, LEN, SDEV, DDEV, TAG, FUNC, AGENT, ADDR, ATTR. -/
def hdType (d : BitVec 512) : Nat := (d.extractLsb' 0 8).toNat
def hdCh (d : BitVec 512) : Nat := (d.extractLsb' 8 8).toNat
def hdLen (d : BitVec 512) : Nat := (d.extractLsb' 16 16).toNat
def hdSdev (d : BitVec 512) : Nat := (d.extractLsb' 32 16).toNat
def hdDdev (d : BitVec 512) : Nat := (d.extractLsb' 48 16).toNat
def hdTag (d : BitVec 512) : Nat := (d.extractLsb' 64 32).toNat
def hdFunc (d : BitVec 512) : Nat := (d.extractLsb' 96 16).toNat
def hdAgent (d : BitVec 512) : Nat := (d.extractLsb' 112 16).toNat
def hdAddr (d : BitVec 512) : Nat := (d.extractLsb' 128 64).toNat
def hdAttr (d : BitVec 512) : Nat := (d.extractLsb' 192 16).toNat

/-- A packet keeps to R410: a header of a known type that names its class and channel, at most 4,096 payload bytes, and one flit for each
64 of them. -/
def TxIn.formed (p : TxIn) : Bool :=
  match p.flits with
  | [] => false
  | h :: r => 1 ≤ hdType h.1 && hdType h.1 ≤ 11 && hdCh h.1 = p.cls.toNat + 4 * p.chQ.toNat && hdLen h.1 ≤ 4096
      && r.length = (hdLen h.1 + 63) / 64 && hdSdev h.1 < 512 && hdDdev h.1 < 512 && hdAddr h.1 < 2 ^ 52 && hdAttr h.1 < 2 ^ 11

/-- A header flit with the fields that every packet has; BODY is zero (R410). -/
def mkHeader (type cls : Nat) (chQ : Bool) (len sdev ddev func addr : Nat) : BitVec 512 :=
  BitVec.ofNat 512 (type + (cls + 4 * chQ.toNat) * 2 ^ 8 + len * 2 ^ 16 + sdev * 2 ^ 32 + ddev * 2 ^ 48 + func * 2 ^ 96 + addr % 2 ^ 52 * 2 ^ 128)

/-- The header of the packet in which something leaves for another device: its TYPE, class, channel, length and devices (R410, R411). -/
def Out.header (sdev : Nat) : Out → Option (BitVec 512)
  | .request d a (.read _) _ _ c => some (mkHeader 1 c false 0 sdev d.toNat 0 a.toNat)
  | .request d a .write b _ c => some (mkHeader 3 c false b.length sdev d.toNat 0 a.toNat)
  | .request d a _ b _ c => some (mkHeader 5 c false b.length sdev d.toNat 0 a.toNat)
  | .fabricData d b ok _ c => some (mkHeader (if ok then (if b.isEmpty then 4 else 2) else 11) c false b.length sdev d.toNat 0 0)
  | .fabricPush d _ _ _ b _ c => some (mkHeader 7 c true b.length sdev d.toNat 0 0)
  | .queueAck d _ _ c => some (mkHeader 8 c true 0 sdev d.toNat 0 0)
  | .creditReturn d => some (mkHeader 10 0 false 0 sdev d.toNat 0 0)
  | _ => none

/-- The class in which what leaves the device travels: its originator's, that of the request that it answers, or K0 for what keeps the
links and queues going (R342, R411). -/
def Out.linkClass : Out → Option Nat
  | .frame _ _ c _ => some c
  | .fabricData _ _ _ _ c => some c
  | .fabricPush _ _ _ _ _ _ c => some c
  | .queueAck _ _ _ c => some c
  | .creditReturn _ => some 0
  | .request _ _ _ _ _ c => some c
  | .flit _ c _ _ _ _ => some c.toNat
  | .packet _ c _ => some c.toNat
  | .msix _ _ | .hostRead _ _ _ _ _ | .hostAtomic _ _ _ _ => some 2
  | .doe _ _ | .debugRow _ _ _ _ _ | .marker _ _ _ _ => none

/-! ### Suspension registers (R413, R415) -/

/-- P0, P2 and P3 of a suspension register. -/
def suspP0 (w : Word) : Nat := 2 ^ bits w 2 0
def suspP2 (w : Word) : Nat := 2 ^ bits w 6 4
def suspP3 (w : Word) : Nat := 2 ^ bits w 11 8

/-- A setting within the limits of R413, with G1 at least P3/2 (R415). -/
def suspOk (w : Word) : Bool :=
  let p0 : Int := suspP0 w
  let p3 : Int := suspP3 w
  let g1p0 := p0 * (p3 - 1 - p3 / suspP2 w) - p3
  2 ≤ bits w 2 0 && bits w 2 0 ≤ 6 && 3 ≤ bits w 6 4 && bits w 6 4 ≤ 6 && 4 ≤ bits w 11 8 && bits w 11 8 ≤ 8
    && bits w 6 4 + 1 ≤ bits w 11 8 && decide (p0 * p3 ≤ 2 * g1p0)

/-! ### The sending end (R411, R412, R414) -/

/-- Number of a class and channel among the credits. -/
def credKey (cls : Nat) (chQ : Bool) : Nat := 2 * cls + chQ.toNat

/-- Credits with which a trained link begins: each receiver holds 130 flit buffers for each class and channel (R412). -/
def credReset : Tab Nat := (List.range 8).map fun k => (k, 130)

/-- The place of the open packet of a class. -/
def LinkSt.openAt (x : LinkSt) (c : Nat) : Option Nat := x.tx.findIdx? fun p => p.cls.toNat = c && p.sent != 0

/-- The place of the oldest packet of a class and channel that waits. -/
def LinkSt.waitAt (x : LinkSt) (c : Nat) (q : Bool) : Option Nat :=
  x.tx.findIdx? fun p => p.cls.toNat = c && p.chQ == q && p.sent = 0

/-- A waiting packet may start: credit stands for each of its flits (R412). -/
def LinkSt.paid (x : LinkSt) (i : Nat) : Bool :=
  match x.tx[i]? with
  | none => false
  | some p => p.flits.length ≤ x.cred.val 0 (credKey p.cls.toNat p.chQ)

/-- The packet whose flit a class would send: its open one, else a waiting one with credit; the channels alternate when both
wait (R411, R412). -/
def LinkSt.nextOf (x : LinkSt) (c : Nat) : Option Nat :=
  match x.openAt c with
  | some i => some i
  | none =>
    let last := x.chn.val true c
    let cand (q : Bool) : Option Nat := (x.waitAt c q).bind fun i => if x.paid i then some i else none
    match cand (!last) with
    | some i => some i
    | none => cand last

/-- K0 has sent no flit in the previous P0 - 1 slots (R414). -/
def LinkSt.k0Free (x : LinkSt) : Bool :=
  match x.lastK0 with
  | none => true
  | some t => t + suspP0 x.susp ≤ x.n

/-- The packet that sends in this slot, by the reserved slots and the priorities (R414). -/
def LinkSt.pick (x : LinkSt) : Option Nat :=
  let p2 := suspP2 x.susp
  let k3 := if x.n % suspP3 x.susp = 0 then x.nextOf 3 else none
  let k2 := if x.n % suspP3 x.susp % p2 = p2 / 2 then x.nextOf 2 else none
  let k0 := if x.k0Free then x.nextOf 0 else none
  [k3, k2, k0, x.nextOf 1, x.nextOf 2, x.nextOf 3].findSome? id

/-- A class that has a packet waiting which lacks credit (R417). -/
def LinkSt.lacks (x : LinkSt) (c : Nat) : Bool :=
  (x.openAt c).isNone && (x.nextOf c).isNone && ((x.waitAt c false).isSome || (x.waitAt c true).isSome)

/-- Packets and credits that have come since the last slot. -/
def LinkSt.join (x : LinkSt) (arr : TxIns) (cred : Credits) : LinkSt :=
  { x with
    tx := x.tx ++ (arr.filter TxIn.formed).map fun p => ⟨p.cls, p.chQ, p.flits, 0⟩
    cred := cred.foldl (fun (t : Tab Nat) c =>
      let k := credKey c.1.toNat c.2.1
      t.put k (t.val 0 k + c.2.2.toNat)) x.cred }

/-- A flit of a packet sent: its credits are taken with the first one, and the packet leaves with the last one. -/
def LinkSt.sendFlit (x : LinkSt) (i : Nat) (p : TxPkt) : LinkSt :=
  let k := credKey p.cls.toNat p.chQ
  { x with
    tx := if p.sent + 1 = p.flits.length then x.tx.eraseIdx i else x.tx.set i { p with sent := p.sent + 1 }
    cred := if p.sent = 0 then x.cred.put k (x.cred.val 0 k - p.flits.length) else x.cred
    chn := if p.sent = 0 then x.chn.put p.cls.toNat p.chQ else x.chn
    lastK0 := if p.cls = 0 then some x.n else x.lastK0 }

/-- The end of a slot: n counts, and so do the slots for which a class has lacked credit (R414, R417). -/
def LinkSt.slotEnd (x : LinkSt) : LinkSt :=
  { x with
    n := x.n + 1
    starve := (List.range 4).foldl (fun (t : Tab Nat) c => if x.lacks c then t.put c (t.val 0 c + 1) else t.del c) x.starve }

/-! ### Records of failures (R164, R417) -/

/-- Value of F_HALF and F_STARVE (R417). -/
def portVal (l : LinkId) (cls : Nat) (dir : Bool) (reason flits : Nat) : Nat :=
  let p := l.port.toNat
  p + cls * 2 ^ 9 + dir.toNat * 2 ^ 11 + reason * 2 ^ 12 + flits * 2 ^ 16
    + (if 64 ≤ p && p < 256 then l.lane.toNat * 2 ^ 32 else 0) + (if 256 ≤ p then l.die.toNat * 2 ^ 40 else 0)

/-- A D record of a port: logged, and pushed as a FAULT event at the steward of cluster 0 of the link's die (R267, R417,
log 24). -/
def State.portRec (s : State) (l : LinkId) (code : Bits16) (v : Nat) : State :=
  (s.headLog code v).faultEvent (mkCore l.die 0 0) code v 0 0

/-- F_HALF of a class. -/
def State.half (s : State) (l : LinkId) (cls : Nat) (dir : Bool) (reason flits : Nat) : State :=
  s.portRec l fHalf (portVal l cls dir reason flits)

/-- The link goes down at an end: the sending end logs F_LINK and closes every open packet with F_HALF; the receiving end's
contexts stay until their timers end (R416, R418). -/
def State.dropLink (s : State) (l : LinkId) : State :=
  let x := s.link l
  if !x.up then s
  else if l.rx then s.setLink l { x with up := false, retry := 0 }
  else
    let cut := x.tx.filter fun p => p.sent != 0
    let s := (s.setLink l { x with up := false, retry := 0, tx := x.tx.filter fun p => p.sent = 0 }).headLog fLink l.port.toNat
    cut.foldl (fun (s : State) p => s.half l p.cls.toNat true 3 p.sent) s

/-! ### Reassembly (R416) -/

/-- A context that holds nothing. -/
def Ctx.idle : Ctx := ⟨false, [], 0⟩

/-- The context of a class at an end. -/
def LinkSt.ctx (x : LinkSt) (c : Nat) : Ctx := x.rx.val .idle c

/-- The end with a context replaced. -/
def LinkSt.setCtx (x : LinkSt) (c : Nat) (y : Ctx) : LinkSt := { x with rx := x.rx.put c y }

/-- A whole packet is delivered: it is passed on, and a control packet of class K0 of one flit gives back a credit toward its source
device (R411, R421, R422, log 90). -/
def State.deliver (s : State) (l : LinkId) (cls : Bits2) (fl : List (BitVec 512 × Bool)) : State :=
  let s := s.send (.packet l cls fl)
  match fl with
  | [h] => if cls = 0 && hdType h.1 = 10 && l.port.toNat < 64 then
      s.modPkg fun p => { p with cred := p.cred.put (hdSdev h.1) (p.cred.val 0 (hdSdev h.1) - 1) } else s
  | _ => s

/-- A good flit meets the context of its class (R416). -/
def State.takeFlit (s : State) (l : LinkId) (f : Flit) : State :=
  let c := f.cls.toNat
  let x := { s.link l with retry := 0 }
  let y := x.ctx c
  let d := (f.data, f.psn)
  let put (s : State) (y : Ctx) : State := s.setLink l (x.setCtx c y)
  if f.sop then
    let s := if y.opened then s.half l c false 2 y.flits.length else s
    if f.eop then (put s .idle).deliver l f.cls [d] else put s ⟨true, [d], s.cyc⟩
  else if !y.opened then (put s .idle).half l c false 2 0
  else if f.eop then (put s .idle).deliver l f.cls (y.flits ++ [d])
  else put s ⟨true, y.flits ++ [d], s.cyc⟩

end Sys2Proof.Machine
end

