-- ==== Sys2Proof/Machine/EvFabric.lean ====
section
/-!
DEFINITION. Steps of the fabric (R407 to R428): links, accesses from other devices, failures of transactions, collectives; and
writes to registers without a row of their own (R6).
-/
namespace Sys2Proof.Machine

/-! ### Links (R407, R412 to R418, R343) -/

/-- Meaning of LINK_TRAIN: the end of a link that exists is up with the credits of its receiver; a Damsa port whose partner reports the
device's own number stays down, with F_LINK at the port (R407, R409, R412). -/
def execLinkTrain (link : LinkId) (partner : Bits9) (s : State) : Result :=
  let x := s.link link
  .next <|
    if !LinkId.real link then s
    else if link.port.toNat < 64 && partner == s.pkg.devnum then
      (s.setLink link { x with up := false, partner := partner }).headLog fLink link.port.toNat
    else s.setLink link { x with
      up := true, partner := partner, n := 0, lastK0 := none, retry := 0, cred := credReset, starve := [] }

/-- Meaning of FLIT_SLOT: one slot of a sending end that is up: exactly one flit is sent, if any class is eligible (R412, R414); none by a
fenced die or during a hop of the fabric clock (R350, R359). -/
def execFlitSlot (link : LinkId) (arr : TxIns) (cred : Credits) (s : State) : Result :=
  let x := (s.link link).join arr cred
  .next <|
    if !x.up || link.rx || s.linkFenced link || s.pkg.hop.isSome then s
    else match x.pick with
      | none => s.setLink link x.slotEnd
      | some i => match x.tx[i]? with
        | none => s.setLink link x.slotEnd
        | some p => match p.flits[p.sent]? with
          | none => s.setLink link x.slotEnd
          | some f => (s.setLink link (x.sendFlit i p).slotEnd).send
              (.flit link p.cls (p.sent = 0) (p.sent + 1 = p.flits.length) f.2 f.1)

/-- Meaning of FLIT_RECEIVE: a flit whose check code fails is replayed by its sender, eight failed retries after it taking the link
down, while between routers there is no retry and it is poisoned; a good one meets its class's context (R409, R416, R418, log 25). -/
def execFlitReceive (link : LinkId) (flit : Flit) (s : State) : Result :=
  let x := s.link link
  .next <|
    if !x.up || !link.rx then s
    else if flit.ok then s.takeFlit link flit
    else if LinkId.mesh link then s.takeFlit link { flit with psn := true }
    else if x.retry < 8 then s.setLink link { x with retry := x.retry + 1 }
    else s.dropLink link

/-- CYC of 4,096 fk have passed since a CYC (R4, R416). -/
def fk4096 (t now : Nat) : Bool := 4 * 4096 ≤ 5 * (now - t)

/-- Meaning of REASSEMBLY_TIMEOUT: 4,096 fk without a flit of the class discard its partial packet (R416). -/
def execReassemblyTimeout (link : LinkId) (cls : Bits2) (s : State) : Result :=
  let x := s.link link
  let y := x.ctx cls.toNat
  .next <|
    if !y.opened || !fk4096 y.timer s.cyc then s
    else (s.setLink link (x.setCtx cls.toNat .idle)).half link cls.toNat false 1 y.flits.length

/-- Meaning of LINK_DOWN (R418). -/
def execLinkDown (link : LinkId) (s : State) : Result := .next (s.dropLink link)

/-- Meaning of STARVATION: a waiting class has lacked credit for 16 × P3 slots in a row: F_STARVE (R417). -/
def execStarvation (link : LinkId) (cls : Bits2) (s : State) : Result :=
  let x := s.link link
  .next <|
    if x.starve.val 0 cls.toNat < 16 * suspP3 x.susp then s
    else (s.setLink link { x with starve := x.starve.del cls.toNat }).portRec link fStarve (portVal link cls.toNat true 4 0)

/-- Meaning of SUSPENSION_WRITE: the head steward refuses a setting outside the limits (R413). -/
def execSuspensionWrite (link : LinkId) (val : Word) (s : State) : Result :=
  .next <| if suspOk val then s.setLink link { s.link link with susp := val &&& 0xF77 } else s

/-- Meaning of PORT_DOWN: an Ethernet port loses its link, or has it back (R343). -/
def execPortDown (die : DieId) (port back : Bool) (s : State) : Result :=
  .next (s.modDie die fun x => if port then { x with down1 := !back } else { x with down0 := !back })

/-! ### Transactions that fail (R419, R420, R422, R426) -/

/-- Devices that an outstanding result waits for: those of its locations, and that of a push (R419). -/
def Vres.owedBy (v : Vres) : List Nat :=
  if !v.owed then []
  else (v.loc.filter fun p => 2 ^ 64 ≤ p.1).map (fun p => p.1 / 2 ^ 64 - 1) ++ (if v.kind == .qpush && v.todo.isNone then [v.key] else [])

/-- An outstanding transaction fails: F_LINK for an access; for a push that awaits its acknowledgement the result 2^63 + 5 (R419,
R422). -/
def State.failTrans (s : State) (c : CoreId) (k : SeatId) (i : Nat) (v : Vres) : State :=
  if v.kind == .qpush && v.todo.isNone then
    s.landRes c k i { v with data := BitVec.ofNat 8192 (2 ^ 63 + 5), ready := true }
  else if v.kind.isMem || v.kind == .qpush || v.kind == .qpop then
    s.failRes c k i v { FarAns.none with err := some .link } (fLink, BitVec.ofNat 64 (v.errAddr FarAns.none))
  else s

/-- A collective with participants on other devices fails because a transaction of it failed (R426). -/
def State.failAway (s : State) (p : CollSt → Bool) : State :=
  (s.pkg.colls.filter fun x => x.dead.isNone && !x.done && p x && x.joined.any fun j => maskBelow (cdMask j.desc) 512 != 1).foldl
    (fun (s : State) x => s.failColl x 3) s

/-- Meaning of TRANSACTION_TIMEOUT: ETMO has passed since the request left (R419). -/
def execTransactionTimeout (core : CoreId) (seat : SeatId) (idx : Bits8) (s : State) : Result :=
  .next <| match (s.seat core seat).vres[idx.toNat]? with
    | none => s
    | some v =>
      if s.cyc < v.ck + usCyc s.pkg.etmo then s
      else if v.kind == .coll then s.failAway fun x => x.joined.any fun j => j.core = core && j.seat = seat && j.res = v.key
      else if v.owed then s.failTrans core seat idx.toNat v
      else s

/-- A device whose route used a link: the one that a Damsa port reaches; which others is the head steward's routing, and open (R420,
log 25). -/
def State.onRoute (s : State) (l : LinkId) (dev : Nat) : Bool :=
  (l.port.toNat < 64 && dev = (s.link l).partner.toNat) || Config.freeBool (8192 + dev) s.free

/-- Results of a seat that wait for a device on a dead route fail, the last first so that the places of the others stand. -/
def State.failSeat (s : State) (link : LinkId) (c : CoreId) (k : SeatId) : State :=
  let l := (s.seat c k).vres
  (List.range l.length).reverse.foldl (fun (s : State) i => match l[i]? with
    | none => s
    | some v => if v.owedBy.any (s.onRoute link) then s.failTrans c k i v else s) s

/-- An engine entry whose transactions are outstanding on a dead route: its running step fails, or a step whose writes have not been
performed, with F_LINK (R234, R419, R420). -/
def State.failEntry (s : State) (link : LinkId) (c : CoreId) (n ix : Nat) (e : Entry) : State :=
  let b := e.blk.getD []
  let on (acc : AccKind) (va len : Nat) : Bool := match s.span (s.whoEng c e) acc va len with
    | .bad _ => false
    | .ok l => l.any fun g => isFab g.xl.pa && s.onRoute link (s.fabTarget g.xl.pa).1.toNat
  let src := if e.opc = 0x06 then addr64 b 224 0 e.stepc.toNat % 2 ^ 57 else srcVa b e.stepc.toNat
  if e.busy && e.far.isSome && on .read src e.buf.length then s.stepFails c n ix e (fLink, BitVec.ofNat 64 src)
  else match e.wout with
    | [] => s
    | k :: r =>
      let lo := r.foldl min k
      let w : Nat × Bits16 × Word := (lo, fLink, BitVec.ofNat 64 (dstVa b lo))
      if !on .write (dstVa b lo) 1 || e.drop || e.st == .faulted then s
      else
        let s := s.modCore c fun x => x.modEnt n ix fun f => { f with wout := [] }
        if e.st == .running && e.busy then s.modCore c fun x => x.modEnt n ix fun f => { f with lwf := match f.lwf with
          | some v => if v.1 ≤ w.1 then some v else some w
          | none => some w }
        else s.rewind c n ix w

/-- The transactions of a core on a dead route fail (R420). -/
def State.failCore (s : State) (link : LinkId) (c : CoreId) : State :=
  let s := seatIds.foldl (fun (s : State) k => s.failSeat link c k) s
  [0, 1, 2].foldl (fun (s : State) n => ((s.core c).queue n).foldl (fun (s : State) p => s.failEntry link c n p.1 p.2) s) s

/-- Meaning of ROUTE_RECOMPUTE: the routes that used a dead link are recomputed; transactions outstanding on it fail. All of them have
ended then, so that what is sent later to a device takes the new route after them (R420, log 25). -/
def execRouteRecompute (link : LinkId) (s : State) : Result :=
  .next <|
    if (s.link link).up then s
    else
      let s := s.cores.foldl (fun (s : State) (p : Nat × CoreSt) => s.failCore link (BitVec.ofNat 8 p.1)) s
      s.failAway fun y => y.joined.any fun j =>
        (List.range 512).any fun d => (cdMask j.desc).testBit d && d != s.pkg.devnum.toNat && s.onRoute link d

/-! ### Accesses from other devices (R408, R421 to R423) -/

/-- Bytes that a fabric request touches. -/
def fabLen (op : FabOp) (data : Bytes) : Nat :=
  match op with
  | .read n => n.toNat
  | .write => data.length
  | o => opWidth o

/-- The function to whose range an access of a source device belongs, if the import table lets it reach it (R408). -/
def State.imported (s : State) (src : Bits9) (pa n : Nat) : Option FuncId :=
  let at' (a : Nat) : Option FuncId :=
    (s.pkg.imports.find? fun p => p.2.dev == src && p.2.gib = a / 2 ^ 30).map fun p => p.2.func
  if !isHbm pa || !isHbm (pa + n - 1) then none
  else match at' pa, at' (pa + n - 1) with
    | some f, some g => if f = g then some f else none
    | _, _ => none

/-- The key under which a function's range is reached by another device: that of the granule's contents where it is a loaded key of
the function, else the function's first loaded key, none where it has none (R408, log 26). -/
def State.rangeKid (s : State) (f : FuncId) (pa : Nat) : Nat :=
  let now := s.keyed.val 0 (granOf pa)
  let ids := (s.keysOf f).map fun k => keyIdOf k (s.keyWord k)
  if ids.contains now then now else ids.headD 0

/-- A request of another device refused: it gets an error response, which the target logs (R375, R408). -/
def State.refuseFab (s : State) (src : FarDev) (pa : Nat) (kind : AccKind) : State :=
  let tgt := if isHbm pa then pa / 2 ^ 37 % 4 else 8
  let l := s.pkg.tlog.val [] tgt ++ [⟨BitVec.ofNat 64 pa, BitVec.ofNat 64 (2 ^ 32 + src.1.toNat), kind, s.cyc⟩]
  (s.modPkg fun p => { p with tlog := p.tlog.put tgt (l.drop (l.length - 16)) }).send (.fabricData src.1 [] false [] src.2.toNat)

/-- A range that another device reaches, as its home slices see it: of slot class 2 (bulk), and of the L2 class of the accesses that
come from outside the device (R275, R408, log 43). -/
def fabSeg (kid pa n : Nat) : Seg := ⟨⟨pa, 1, true, false, kid, 2, kid, ⟨2, 15, 2⟩⟩, n⟩

/-- Meaning of FABRIC_ACCESS: a request at the target is checked against the import table and performed at the home slice; the answer
travels in the class of the request, with the poison of each granule (R408, R410, R411, R423). -/
def execFabricAccess (src : FarDev) (addr : Word) (op : FabOp) (data : Bytes) (pois : GranNos) (s : State) : Result :=
  let pa := bits addr 51 0
  let n := fabLen op data
  let answer (s : State) (b : List Byte) (p : List Nat) : State := s.send (.fabricData src.1 b true p src.2.toNat)
  .next <| match s.imported src.1 pa n with
    | none => s.refuseFab src pa (match op with
        | .read _ => .read
        | .write => .write
        | _ => .atomic)
    | some f =>
      let kid := s.rangeKid f pa
      let seg := fabSeg kid pa n
      let s := s.l2Segs (match op with
        | .read _ => false
        | _ => true) [seg]
      match op with
      | .read _ => answer s (s.rdBytes kid pa n) (poisGrans ((s.rdBytes kid pa n).zip (s.poisBytes [seg])))
      | .write =>
        answer (((s.wrBytes kid pa data).clean pa n).poison (pois.map fun g => granOf (pa + 64 * g))) [] []
      | o =>
        let r := s.atomic kid pa o
        answer r.2.2 (leBytes (opWidth o) r.1) (if r.2.1 then [0] else [])

/-- Meaning of REMOTE_PUSH_ARRIVAL: a payload lies whole in its staging slot: the queue is checked, and the payload waits for its
grant, or is discarded, counted and answered with its reason (R421, R422). -/
def execRemotePushArrival (die : DieId) (src : FarDev) (func : FuncId) (qnum : Bits12) (ack : Bool) (origin : Bits16)
    (pay : MarkedBytes) (s : State) : Result :=
  let no (s : State) (r : Nat) : State := s.ackRemote src.1 src.2.toNat ack origin (2 ^ 63 + r)
  .next <| match s.queue? die qnum.toNat with
    | none => no (s.modDie die fun x => { x with qdrop := x.qdrop + 1 }) 1
    | some u =>
      let drop := s.setQueue die qnum.toNat { u with drops := u.drops + 1 }
      if !u.pushDev.contains (src.1, func) then no drop 2
      else if u.rsz < recCells pay.1.length then no drop 3
      else s.modDie die fun x => { x with qreq := x.qreq ++
        [{ core := 0, seat := 0, qnum := qnum, push := true, cells := recCells pay.1.length, remote := true, dev := src.1, cls := src.2.toNat,
           ack := ack, origin := origin, payload := pay.1, pois := pay.2 }] }

/-! ### Collectives (R424 to R428) -/

/-- What another device brings for a rank, as an answer to a read. -/
def farAnsOf (b : FarBuf) : FarAns := ⟨b.data, b.pois, none, 0, true⟩

/-- What other devices bring for a rank, if they have. -/
def farRank (far : FarBufs) (n : Nat) : Option FarBuf := far.find? fun b => b.rank.toNat = n

/-- A participant's source buffer with the poison of each byte, if it can be read: a byte written since it joined has no known value
(R428), and of the parts behind a fabric window it is what their device brings (R408). -/
def State.srcOf (s : State) (parts : Nat) (j : Joiner) (far : FarBufs) : Option (List (Byte × Bool)) :=
  match s.span (s.whoJoin j) .read (cdSrc j.desc) (cdSrcLen j.desc parts) with
  | .ok l =>
    let b := ((s.nearBytes l).zip j.src).zipIdx.map fun p =>
      if p.1.1.1 = p.1.2 then p.1.1 else (Config.freeByte p.2 s.free, p.1.1.2)
    if remote l then (farRank far j.rank).map fun a => farFill (farAnsOf a) (farParts l 0) b else some b
  | .bad _ => none

/-- The source buffer of a participant on another device, with the poison of each byte. -/
def farBytes (b : FarBuf) : List (Byte × Bool) := (List.range b.data.length).map (farByte (farAnsOf b))

/-- The source buffers of the device's participants read: requests leave for their parts on other devices (R408). -/
def State.askSources (s : State) (parts : Nat) (l : List Joiner) : State :=
  l.foldl (fun (s : State) j => match s.span (s.whoJoin j) .read (cdSrc j.desc) (cdSrcLen j.desc parts) with
    | .ok l => s.askSegs l
    | .bad _ => s) s

/-- The source buffers by rank, if every rank has one (R426). -/
def State.sources (s : State) (parts : Nat) (l : List Joiner) (far : FarBufs) : Nat → Option (List (List (Byte × Bool)))
  | 0 => some []
  | n + 1 =>
    let p := match l.find? fun j => j.rank = n with
      | some j => s.srcOf parts j far
      | none => (farRank far n).map farBytes
    match p, s.sources parts l far n with
    | some b, some r => some (r ++ [b])
    | _, _ => none

/-- The fault of a buffer that a participant of the device cannot reach, if there is one: its source, then its destination. -/
def State.bufFault (s : State) (parts : Nat) (l : List Joiner) : Option (Joiner × XFault) :=
  l.findSome? fun j =>
    let w := s.whoJoin j
    match s.span w .read (cdSrc j.desc) (cdSrcLen j.desc parts), s.span w .write (cdDst j.desc) (cdDstLen j.desc parts) with
    | .bad f, _ => some (j, f)
    | _, .bad f => some (j, f)
    | _, _ => none

/-- A collective fails because a buffer of a participant faults: reason 4, and a fault-queue record (R371, R426). -/
def State.failBuf (s : State) (x : CollSt) (p : Joiner × XFault) : State :=
  (s.recordFault (s.whoJoin p.1) p.1.core p.1.seat 0 (bInst (s.seat p.1.core p.1.seat).billet) p.2).failColl x 4

/-- Ranks of the participants whose destination lies in part on another device, which has still to perform the writes (R301). -/
def State.farDst (s : State) (parts : Nat) (l : List Joiner) : List Nat :=
  (l.filter fun j => match s.span (s.whoJoin j) .write (cdDst j.desc) (cdDstLen j.desc parts) with
    | .bad _ => false
    | .ok l => remote l).map Joiner.rank

/-- Element e of a buffer with its poison. -/
def elemOf (w e : Nat) (b : List (Byte × Bool)) : Nat × Bool :=
  let x := (b.drop (w * e)).take w
  (leNat (x.map Prod.fst), x.any Prod.snd)

/-- The reduction of a list of leaves over the tree of R127 (R427). -/
def treeOf {α : Type} (r : Reduce α) (l : List (Nat × Bool)) : Nat × Bool :=
  rootOut r (treeLevels r.op (l.length.log2 + 1) (l.map fun p => some (r.leaf p.1, p.2)))

/-- An element of all ranks reduced (R427). -/
def reduceElem (c : Fcr) (t : Ty) (op : Nat) (l : List (Nat × Bool)) : Nat × Bool :=
  match op with
  | 0 => if t.isWide then treeOf (addF c t) l else treeOf (opE c t .add) l
  | 1 => treeOf (opE c t .min) l
  | _ => treeOf (opE c t .max) l

/-- What DST of rank q holds: elements with their poison (R427). -/
def collOut (d : List Byte) (c : Fcr) (t : Ty) (src : List (List (Byte × Bool))) (q : Nat) : List (Nat × Bool) :=
  let w := t.width / 8
  let n := cdCount d
  match cdKind d with
  | 0 => (List.range n).map fun e => reduceElem c t (cdOp d) (src.map (elemOf w e))
  | 1 => (List.range n).map fun e => reduceElem c t (cdOp d) (src.map (elemOf w (q * n + e)))
  | 2 => src.flatMap fun b => (List.range n).map fun e => elemOf w e b
  | _ => (List.range n).map fun e => elemOf w e (src.getD (cdRoot d) [])

/-- The two buffers of a participant overlap (R427). -/
def Joiner.overlaps (j : Joiner) (parts : Nat) : Bool :=
  let d := j.desc
  cdSrc d < cdDst d + cdDstLen d parts && cdDst d < cdSrc d + cdSrcLen d parts

/-- A participant's destination written; where its buffers overlap with no known bytes (R427, log 49). A granule of a poisoned element is
poisoned (R427). -/
def State.putDst (s : State) (parts : Nat) (j : Joiner) (w : Nat) (out : List (Nat × Bool)) : Option State :=
  let b := out.flatMap fun p => (leBytes w p.1).map fun x => (x, p.2)
  let b := if j.overlaps parts then (b.zip (List.range b.length)).map fun p => (Config.freeByte p.2 s.free, p.1.2) else b
  match s.span (s.whoJoin j) .write (cdDst j.desc) b.length with
  | .bad _ => none
  | .ok l => some ((s.l2Segs true l).storeMarked l b)

/-- Every destination of the device's participants written; none where a buffer faults. -/
def State.putAll (s : State) (parts w : Nat) (out : Nat → List (Nat × Bool)) : List Joiner → Option State
  | [] => some s
  | j :: r => match s.putDst parts j w (out j.rank) with
    | none => none
    | some t => t.putAll parts w out r

/-- The fcr that rank 0 captured (R427). -/
def rank0Fcr (l : List Joiner) (far : FarBufs) : Word :=
  match l.find? fun j => j.rank = 0 with
  | some j => j.fcr
  | none => ((farRank far 0).map fun b => b.fcr).getD 0

/-- A collective whose participants have all joined performed: every destination is written at once, those on other devices by requests;
none if one is missing, and reason 4 where a buffer faults (R301, R426, R427). -/
def State.runColl (s : State) (x : CollSt) (far : FarBufs) : State :=
  match x.joined with
  | [] => s
  | j :: _ =>
    let d := j.desc
    let parts := cdParts d j.lw j.lh
    match s.bufFault parts x.joined with
    | some p => s.failBuf x p
    | none => match cdTy d, s.sources parts x.joined far parts with
    | some t, some src =>
      match (s.askSources parts x.joined).putAll parts (t.width / 8) (collOut d (fcrOf (rank0Fcr x.joined far)) t src) x.joined with
      | none => s.failColl x 4
      | some u => u.modColl x.func x.key x.m fun y => { y with done := true, acks := s.farDst parts x.joined }
    | _, _ => s

/-- The end of a collective reaches the participant of a rank; the last one closes it. -/
def State.endJoin (s : State) (x : CollSt) (rank : Nat) : State :=
  match x.joined.find? fun j => j.rank = rank with
  | none => s
  | some j =>
    let rest := x.joined.filter fun k => k.rank != rank
    let s := s.tellJoin j none
    if rest.isEmpty then s.modPkg fun p => { p with colls := p.colls.filter fun y => !y.is x.func x.key x.m }
    else s.modColl x.func x.key x.m fun y => { y with joined := rest }

/-- What other devices tell of a collective that has been performed: whose destinations have been written. -/
def State.takeAcks (s : State) (x : CollSt) (far : FarBufs) : State :=
  s.modColl x.func x.key x.m fun y => { y with acks := y.acks.filter fun r => (farRank far r).isNone }

/-- Meaning of COLL_COMPLETE: all participants have joined and every DST is written: the participant of a rank is told; `far` is
what those on other devices bring, or the reason for which the collective failed there (R301, R426, R427). -/
def execCollComplete (func : FuncId) (key : Word) (m : Imm32) (rank : Bits16) (far : FarBufs) (s : State) : Result :=
  let is (x : CollSt) : Bool := x.is func key m.toNat && x.dead.isNone
  .next <| match s.pkg.colls.find? is with
    | none => s
    | some x => match far.findSome? fun b => b.why with
      | some r => if 1 ≤ r.toNat && r.toNat ≤ 4 then s.failColl x r.toNat else s
      | none =>
        let s := if x.done then s.takeAcks x far else s.runColl x far
        match s.pkg.colls.find? is with
        | none => s
        | some x => if x.done && x.acks.isEmpty then s.endJoin x rank.toNat else s

/-- Meaning of COLL_TIMEOUT: CTMO has passed since the first join and not all have joined: reason 3 (R426). -/
def execCollTimeout (func : FuncId) (key : Word) (m : Imm32) (s : State) : Result :=
  .next <| match s.pkg.colls.find? fun x => x.is func key m.toNat && x.dead.isNone && !x.done with
    | none => s
    | some x => match x.joined with
      | [] => s
      | j :: _ =>
        let tmo := cdTmo j.desc
        if tmo = 0 || s.cyc < j.at0 + usCyc tmo || cdParts j.desc j.lw j.lh ≤ x.joined.length then s else s.failColl x 3

/-! ### Registers without a row of their own (R6) -/

/-- A replay window setting within its limits (R249). -/
def mwinOk (w : Word) : Bool := 16 ≤ bits w 4 0 && bits w 4 0 ≤ 30 && 1 ≤ bits w 27 24

/-- Bits of mwin that are not reserved, and of a weight grant (R195, R249). -/
def mwinMask : Word := 0x70FFFFF1F
def grantMask : Word := 0x0001FFFF0001FFFF

/-- Stripes of a core that hold resident models (R387). -/
def State.resident (s : State) (c : CoreId) : Word :=
  s.pkg.res.foldl (fun (m : Word) (p : Nat × ResSt) =>
    if p.2.dmask.getLsbD (coreDie c).toNat && p.2.cmask.getLsbD (8 * coreY c + coreX c) then m ||| p.2.stripes else m) 0

/-- A queue record's word written by its function: QBASE and LSZ keep their values while EN = 1, and a locked interface refuses
their change; a base that is no multiple of 64 and an LSZ out of range are ignored (log 79); EN follows its bit (R382, R392). -/
def State.writeQueue (s : State) (f : FuncId) (q : Bits8) (w1 : Bool) (v : Word) : State :=
  match s.pq f q with
  | none => s
  | some r =>
    let lsz := bits v 4 0
    let change := if w1 then lsz != r.lsz else v != r.base
    if change && s.locked f then s.breach f 0x10000
    else if !w1 then (if r.en || v.toNat % 64 != 0 || !paOk v.toNat then s else s.setPq f q { r with base := v })
    else
      let r := if r.en || lsz < 4 || 16 < lsz then r else { r with lsz := lsz }
      if v.getLsbD 8 then s.setPq f q { r with en := true, err := false, head := r.tail }
      else s.setPq f q { r with en := false }

/-- Meaning of REGISTER_WRITE: the register takes what its access code lets it take; a value out of range is ignored (log 79), reserved bits
stay, and a read-only register ignores the write (R6, R195, R249, R366, R382, R388, R390, R408, R419). -/
def execRegisterWrite (reg : RegSel) (val : Word) (s : State) : Result :=
  .next <| match reg with
    | .mwin c => if mwinOk val then s.modCore c fun x => { x with mwin := val &&& mwinMask, overs := min x.overs (bits val 27 24) } else s
    | .mral c =>
      let old := (s.core c).raf.toNat
      let t := s.modCore c fun x => { x with raf := BitVec.ofNat 10 (bits val 9 0) }
      if old < bits val 9 0 then t.retest (t.countedCores (coreDie c)) else t
    | .wgrant c k => s.modCore c fun x => { x with wgrant := x.wgrant.put k.toNat (val &&& grantMask &&& ~~~ s.resident c) }
    | .withdraw c =>
      if !val.getLsbD 0 then s.modCore c fun x => { x with withdrawn := false }
      else if (s.core c).withdrawn then s
      else (s.modCore c fun x => { x with withdrawn := true }).takeAway c
    | .etmo => if 10 ≤ val.toNat && val.toNat ≤ 10000 then s.modPkg fun p => { p with etmo := val.toNat } else s
    | .fwinBase n =>
      if val.toNat % 2 ^ 45 != 0 then s
      else s.modPkg fun p =>
        let w := p.fwin.val ⟨0, 0, false, 0⟩ n.toNat
        { p with fwin := p.fwin.put n.toNat { w with base := val } }
    | .fwinCtl n => s.modPkg fun p =>
      let w : Fwin := ⟨val.extractLsb' 0 9, (p.fwin.val ⟨0, 0, false, 0⟩ n.toNat).base, val.getLsbD 9, val.extractLsb' 10 5⟩
      { p with fwin := p.fwin.put n.toNat w }
    | .importRow n => s.modPkg fun p =>
      let t := if val.getLsbD 63 then p.imports.put n.toNat ⟨val.extractLsb' 0 9, bits val 30 9, val.extractLsb' 31 5⟩
        else p.imports.del n.toNat
      { p with imports := t }
    | .reqEnable f => s.modFunc f fun x => { x with aore := val.getLsbD 0 }
    | .qBase f q => s.writeQueue f q false val
    | .qLsz f q => s.writeQueue f q true val
    | .vecMask f n => s.setVec f n.toNat fun v => { v with masked := val.getLsbD 0 }
    | .vecAddr f n => s.setVec f n.toNat fun v => { v with addr := val }
    | .vecData f n => s.setVec f n.toNat fun v => { v with data := val.extractLsb' 0 32 }
    | .hmdb f => if val.getLsbD 0 then s.modFunc f fun x => { x with hmdb := true } else s
    | .mailReq f i => s.modFunc f fun x =>
        { x with mreq := setBytes ((x.mreq ++ List.replicate 64 0).take 64) (8 * i.toNat) (leBytes 8 val.toNat) }
    | .readOnly _ _ => s

end Sys2Proof.Machine
end

