-- ==== Sys2Proof/Machine/EvMargin.lean ====
section
/-!
DEFINITION. Steps of the margin controller, the steward's windows and the voltage columns (R244 to R259, R348, R349).
-/
namespace Sys2Proof.Machine

/-! ### Windows (R254, R255) -/

/-- RAF after a window (R255). -/
def rafOfMax (rmax wl : Nat) : Nat := min 1023 (2 * ((5120 * rmax + 2 ^ wl - 1) / 2 ^ wl))

/-- The registers of a core at a window end: the window's count joins those of the last 15, RAF is rewritten by the greatest of the last
QN, AUTO is cleared after a window without F_REPLAY, and WCNT and WNUM go on (R252, R254, R255). -/
def CoreSt.closeWindow (x : CoreSt) : CoreSt :=
  let hist := (x.wcnt :: x.whist).take 15
  { x with
    whist := hist
    raf := BitVec.ofNat 10 (rafOfMax ((hist.take (max 1 (bits x.mwin 27 24))).foldl max 0) (bits x.mwin 4 0))
    auto := if x.wrep then x.auto else 0
    wrep := false, wcnt := 0, wnum := (x.wnum + 1) % 2 ^ 24 }

/-- The margin state of a core after a window, over its budget or not (R254): the core is quarantined when OVER reaches QN. -/
def State.judge (s : State) (c : CoreId) (beyond : Bool) : State :=
  let x := s.core c
  if !(x.mstate == .normal || x.mstate == .watch) then
    s.modCore c fun x => { x with overs := if beyond then min (bits x.mwin 27 24) (x.overs + 1) else 0 }
  else if !beyond then
    let s := s.modCore c fun x => { x with overs := 0, mstate := .normal }
    if x.mstate == .watch then s.marginEvent c else s
  else
    let n := min (bits x.mwin 27 24) (x.overs + 1)
    let s := s.modCore c fun x => { x with overs := n }
    if bits x.mwin 27 24 ≤ n then s.quarantine c
    else
      let s := s.modCore c fun x => { x with mstate := .watch, floor := BitVec.ofNat 3 (min 7 (x.floor.toNat + 1)) }
      if x.mstate == .normal then s.marginEvent c else s

/-- Vtrim moved by a step of 5 mV or left, as the steward's policy decides, and never above Vgd (R348): it is held as steps
below Vgd (log 53). -/
def State.trim (s : State) (c : CoreId) : State :=
  s.modDie (coreDie c) fun y =>
    let v := y.vtrim.val 0 (coreX c)
    let v := match Config.policy 1 s.free % 3 with
      | 0 => v
      | 1 => v + 1
      | _ => v - 1
    { y with vtrim := y.vtrim.put (coreX c) v }

/-- Meaning of WINDOW_END: the window's count is compared with the budget and the margin state moves; a rise of RAF, or a core
lost, runs the test of R325 again; grades that may be lowered are (R252, R254, R255, R334, R336, R348). -/
def execWindowEnd (core : CoreId) (s : State) : Result :=
  let x := s.core core
  let s := s.modCore core CoreSt.closeWindow
  let s := s.judge core (bits x.mwin 23 8 < x.wcnt)
  let s := if x.raf.toNat < (s.core core).raf.toNat then s.retest (s.countedCores (coreDie core)) else s
  .next ((s.lowerAt core).trim core)

/-! ### Late verdicts (R244 to R252, R258, R259) -/

/-- Meaning of LATE_VERDICT: the next cycle in which a bundle of the core issues meets a late verdict (R244, R245, log 8); none
occurs while GUARD is 7 (R259). -/
def execLateVerdict (core : CoreId) (s : State) : Result :=
  let x := s.core core
  .next <| if x.guard = 7 || x.late.isSome then s else s.setCore core { x with late := some false }

/-- The command that a unit runs: 0 H0, 1 H1, 2 the transfer engine. -/
def CoreSt.running (x : CoreSt) (n : Nat) : Option (Nat × Entry) := (x.queue n).find? fun p => p.2.st == .running

/-- The detection counters of the units of a command counted (R249). -/
def CoreSt.countLate (x : CoreSt) (n : Nat) (e : Entry) : CoreSt :=
  let one (x : CoreSt) (i : Nat) : CoreSt := { x with mrc := x.mrc.put i (x.mrc.val 0 i + 1) }
  if n != 2 && e.whole then one (one x 1) 2 else one x (n + 1)

/-- A step's events 5 ck later, and with them the start of the step after it, also of one that waits in a ck (R247). -/
def Run.shift (r : Run) (now : Nat) : Run := { r with at0 := r.at0 + 5, feed := max r.feed (now - r.at0) }

/-- Every later event of a command 5 ck later: the end of its running step, its rows, and the start of the next step, also of one that
waits (R247). -/
def CoreSt.shift (x : CoreSt) (n ix : Nat) (e : Entry) (now : Nat) : CoreSt :=
  let x := x.modEnt n ix fun e =>
    { e with run := e.run.shift now, ahead := e.ahead.map fun r => r.shift now }
  { x with ewr := x.ewr.map fun w => if w.n = e.unit n && now ≤ w.at0 then { w with at0 := w.at0 + 5 } else w }

/-- A late verdict on the cycle that an engine executes (R247, R249, R251, R252): that cycle is executed again 5 ck later; past
ELIM verdicts in a row on it F_REPLAY is marked for the owning seat, unless a mark is held. -/
def State.engineLate (s : State) (c : CoreId) (n : Nat) (inj : Bool) : State :=
  let x := s.core c
  match x.running n with
  | none => s
  | some (ix, e) =>
    let q := x.seatAt e.seat
    let row := if e.late != 0 && s.cyc = e.lateAt + 5 then e.late + 1 else 1
    let whole := n != 2 && e.whole
    let elim := bits q.mlim 6 4
    let unit := if whole then 1 else n + 1
    let x := (x.shift n ix e s.cyc).modEnt n ix fun e => { e with late := row, lateAt := s.cyc }
    let x := x.countLate n e
    let seven := if 64 < row && 7 ≤ s.colLevel c then x.pers7.val 0 unit + 1 else if row ≤ 1 then 0 else x.pers7.val 0 unit
    let both (t : Tab Nat) (v : Nat) : Tab Nat := if whole then (t.put 1 v).put 2 v else t.put (n + 1) v
    let x := { x with
      wcnt := if inj then x.wcnt else min (x.wcnt + 1) (2 ^ 24 - 1)
      mlast := BitVec.ofNat 64 (s.cyc % 2 ^ 48 + (if whole then 4 else n + 1) * 2 ^ 48 + inj.toNat * 2 ^ 51
        + e.seat.toNat * 2 ^ 52 + (min row 7) * 2 ^ 54)
      pers := both x.pers row, pers7 := both x.pers7 seven }
    let s := s.setCore c x
    let held := q.pend.any fun a => a.src = 0 && a.code == fReplay
    if elim < row && !held then
      (s.pendCause c e.seat ⟨fReplay, 0, 0, BitVec.ofNat 64 (elim + unit * 2 ^ 8), 0⟩).modCore c fun x =>
        { x with auto := min 7 (x.auto + 1), wrep := true }
    else s

/-- Meaning of ENGINE_LATE_VERDICT (R247, R251): none occurs while GUARD is 7 (R259). -/
def execEngineLateVerdict (core : CoreId) (q : EngQ) (s : State) : Result :=
  .next <| if (s.core core).guard = 7 then s else s.engineLate core (engNo q) false

/-- The persistence count of a unit, that of the bundle of a seat or of an engine cycle, and how much of it was counted at level 7
(R252). -/
def CoreSt.persistence (x : CoreSt) (unit : Nat) : Nat × Nat :=
  if unit = 0 then x.seat.foldl (fun m p => (max m.1 p.2.pcount, max m.2 p.2.pseven)) (0, 0)
  else (x.pers.val 0 unit, x.pers7.val 0 unit)

/-- The cores of a column settled at a level. -/
def State.settleCol (s : State) (d : DieId) (col lv : Nat) : State :=
  (List.range 8).foldl (fun s y => s.modCore (mkCore d col y) fun x => { x with col := BitVec.ofNat 3 lv }) s

/-- Meaning of PERSISTENCE_LIMIT: at 64 the column is driven to level 7; a further 64 counted there stop the core, which is
quarantined (R252, R254). -/
def execPersistenceLimit (core : CoreId) (unit : Bits2) (s : State) : Result :=
  let n := (s.core core).persistence unit.toNat
  .next <|
    if 64 ≤ n.2 then s.stopCore core
    else if 64 ≤ n.1 then s.settleCol (coreDie core) (coreX core) 7
    else s

/-- Meaning of GUARD_SETTLED: the column has reached the level its cores ask for (R253, R257). -/
def execGuardSettled (die : DieId) (col : Bits3) (s : State) : Result :=
  .next (s.settleCol die col.toNat (s.columnGuard die col.toNat))

/-- Meaning of INJECTION: at its CYC the armed unit meets a late verdict if it executes a cycle of the issuing seat; else the
injection is dropped (R258, R262). -/
def execInjection (core : CoreId) (s : State) : Result :=
  let x := s.core core
  .next <|
    if x.injLeft = 0 || s.cyc < x.injAt then s
    else
      let y := { x with injLeft := x.injLeft - 1, injAt := x.injAt + x.injGap }
      let drop := s.setCore core { y with injDrop := x.injDrop + 1 }
      match x.issuing with
      | none => drop
      | some k =>
        if x.injAt < s.cyc then drop
        else if x.injUnit = 0 then s.setCore core { y with late := some true }
        else
          let n := x.injUnit.toNat - 1
          match x.running n with
          | none => drop
          | some (_, e) =>
            if e.seat = k then (s.setCore core { y with injDone := x.injDone + 1 }).engineLate core n true else drop

/-! ### Droop (R349) -/

/-- A droop is acted on: the column's supply is raised to level 7 and held for 2 µs, and the event is logged (R349). -/
def State.droopAt (s : State) (d : DieId) (col : Nat) : State :=
  s.modDie d fun y => { y with droop := y.droop.put col (s.cyc + 1600), dlog := y.dlog ++ [(col, s.cyc)] }

/-- Meaning of DROOP_DETECT: the droop is acted on; during a hop of the fabric clock it is latched until the hop ends (R349, R350). -/
def execDroopDetect (die : DieId) (col : Bits3) (s : State) : Result :=
  .next <| if s.pkg.hop.isSome then s.modPkg fun p => { p with hopDroop := p.hopDroop ++ [(die.toNat, col.toNat)] }
    else s.droopAt die col.toNat

/-- Meaning of DROOP_HOLD_END: after the hold the column runs at the level its cores ask for (R253, R349). -/
def execDroopHoldEnd (die : DieId) (col : Bits3) (s : State) : Result :=
  .next <| match (s.die die).droop.find col.toNat with
    | none => s
    | some t =>
      if s.cyc < t then s
      else (s.modDie die fun y => { y with droop := y.droop.del col.toNat }).settleCol die col.toNat (s.columnGuard die col.toNat)

end Sys2Proof.Machine
end

