-- ==== Sys2Proof/Machine/EvIo.lean ====
section
/-!
DEFINITION. Steps of the Ethernet endpoints, the timebase and the power control of the package (R337 to R351).
-/
namespace Sys2Proof.Machine

/-! ### Ingress (R338, R339) -/

/-- A message dropped by a steering entry for a reason (R338). -/
def SteerSt.drop (e : SteerSt) (why : Nat) : SteerSt :=
  { e with w1 := setBits (setBits e.w1 47 32 (min 0xFFFF (bits e.w1 47 32 + 1))) 55 48 why }

/-- The sequence test of an entry (R339). -/
def SteerSt.newer (e : SteerSt) (sq : Nat) : Bool :=
  let d := (sq + 65536 - bits e.w1 15 0) % 65536
  e.fresh || (1 ≤ d && d ≤ 32767)

/-- The write of some bytes of a granary row, clean: a sector written in part keeps its tag (R111, R339). -/
def CoreSt.slotRow (x : CoreSt) (a : Nat) (b : List (Option Byte)) : CoreSt :=
  let mask := BitVec.ofNat 8192 (leNat (b.map fun o => if o.isSome then 255 else 0))
  let data := BitVec.ofNat 8192 (leNat (b.map fun o => o.getD 0))
  let full := BitVec.ofNat 32 (sum ((List.range 32).map fun j =>
    let l := (b.drop (32 * j)).take 32
    if l.length = 32 && l.all Option.isSome then 2 ^ j else 0))
  { x with gran := x.gran.put a ((x.granRow a).merge mask data full 0) }

/-- Bytes of a payload written from byte 0 of row 0 of a slot upward (R339). -/
def CoreSt.landBytes (x : CoreSt) (slot : Nat) (b : List (Option Byte)) : CoreSt :=
  (List.range ((b.length + 1023) / 1024)).foldl (fun (x : CoreSt) i =>
    x.slotRow (16 * slot + i) ((b.drop (1024 * i)).take 1024)) x

/-- The core of a steering entry. -/
def steerCore (d : DieId) (e : SteerSt) : CoreId := mkCore d (bits e.w0 6 4) (bits e.w0 10 8)

/-- A message accepted: it lands from now on. Which of its bytes are written before it has landed, should it be abandoned, is
open (R339). -/
def State.beginLand (s : State) (d : DieId) (i : Nat) (e : SteerSt) (m : Landing) : State :=
  let some' := ((List.range m.payload.length).zip m.payload).map fun p =>
    if Config.freeBool (4096 + p.1) s.free then some p.2 else none
  (s.modCore (steerCore d e) fun x => x.landBytes (steerSlot e) some').setSteer d i { e with land := some m, fresh := false }

/-- Meaning of MESSAGE_INGRESS: a message's first packet reaches the endpoint: accepted, or dropped and counted with its reason
(R338, R339). MODE 2 is UUD; `arr` is the CYC of the last byte at the MAC. Nothing arrives during a hop of the fabric clock (R350).
The addresses of a fenced die have moved to its relay die's ports (R360). -/
def execMessageIngress (die : DieId) (mode : Bits2) (key : Imm32) (payload : List Byte) (arr : Word) (s : State) : Result :=
  let die := if (s.die die).fenced then die ^^^ 1 else die
  let i := 2 * bits key 12 0 + bits key 13 13
  let e := s.steerAt die i
  let sq := bits key 31 16
  let m : Landing := ⟨payload, BitVec.ofNat 16 sq, mode = 2, arr.toNat⟩
  let drop (why : Nat) : State := s.setSteer die i (e.drop why)
  .next <|
    if s.pkg.hop.isSome then s
    else if !e.w0.getLsbD 0 || !steerArmed e then drop 1
    else if !e.newer sq then drop 2
    else if (match e.land with
      | some l => !(l.uud && mode = 2)
      | none => false) then drop 4
    else if 16384 * steerN e < payload.length then drop 3
    else s.beginLand die i e m

/-- An instance that waits for its arrival takes ARR as its release; one released too late is shed (R317, R318, R339). -/
def State.arrive (s : State) (d : DieId) (e : SteerSt) (arr : Word) : State :=
  let c := steerCore d e
  match ((s.core c).tile (steerSlot e)).owner with
  | none => s
  | some k =>
    let n := bInst (s.seat c k).billet
    match s.instAt d n with
    | none => s
    | some i =>
      if i.task = bits e.w0 43 32 && i.st == .waiting && i.arrival then
        let j := { i with release := arr.toNat, arrival := false }
        let s := s.modInst d n fun _ => j
        if j.tooLate then s.shedInst d n false else s
      else s

/-- Meaning of MESSAGE_LANDED: every byte has landed: the slots are READY, the entry is disarmed and takes the sequence and ARR, the ptime
of the last byte at the MAC, the arming's semaphore counts, and an instance that waits for the arrival is released (R220, R298, R318,
R339, R341, R345). -/
def execMessageLanded (die : DieId) (entry : Bits14) (s : State) : Result :=
  let i := entry.toNat
  let e := s.steerAt die i
  .next <| match e.land with
    | none => s
    | some m =>
      let s := s.modCore (steerCore die e) fun x =>
        (x.landBytes (steerSlot e) (m.payload.map some)).unarm (steerSlot e) (steerN e)
      let w1 := setBits (setBits e.w1 15 0 m.seq.toNat) 17 16 2
      let arr := BitVec.ofNat 64 (s.ptimeAt (min m.arr s.cyc))
      let s := s.setSteer die i { e with w1 := w1, arr := arr, land := none, post := none }
      let s := match e.post with
        | some (c, k, sem) => if sem = 0 then s else s.modSeat c k fun q => { q with inc := q.inc ++ [(sem, 1)] }
        | none => s
      s.arrive die e arr

/-! ### Egress (R343, R344) -/

/-- A message sent before another, on the same binding and in the same class, is still leaving: their order is kept (R342). -/
def State.frameWaits (s : State) (c : CoreId) (k : SeatId) (v : Vres) : Bool :=
  s.cores.any fun p =>
    coreDie (BitVec.ofNat 8 p.1) == coreDie c && p.2.seat.any fun q => bClass q.2.billet = bClass (s.seat c k).billet
      && q.2.vres.any fun w => w.kind == .nsend && w.addr = v.addr && w.ck < v.ck

/-- Meaning of EGRESS_DONE: the last byte of a message has left the MAC, in the order kept for its binding and class: its completion
enters the seat's queue with its egress stamp, the ptime of the first byte at the MAC at CYC `stamp`, and its semaphore counts. Nothing
leaves during a hop of the fabric clock (R342 to R345, R350). -/
def execEgressDone (core : CoreId) (seat : SeatId) (idx : Bits8) (stamp : Word) (s : State) : Result :=
  let q := s.seat core seat
  .next <| match q.vres[idx.toNat]? with
    | none => s
    | some v =>
      if v.kind != .nsend || s.pkg.hop.isSome || s.frameWaits core seat v then s
      else
        let t := BitVec.ofNat 64 (s.ptimeAt (max v.ck (min stamp.toNat s.cyc)))
        s.setSeat core seat (({ q with vres := q.vres.eraseIdx idx.toNat } : SeatSt).pushEgr ⟨v.data.setWidth 64, t⟩ |>.bump v.sem 1)

/-! ### The timebase (R345, R346) -/

/-- TBRATE within 500 ppm of 1.25 ns. -/
def rateOk (rate : Word) : Bool :=
  let n := 0x14000000000
  n * 1999 ≤ rate.toNat * 2000 && rate.toNat * 2000 ≤ n * 2001

/-- Meaning of TIMEBASE_UPDATE: the map is written on every die at one CYC, which is the present one where ptime goes on without a step;
a rate out of range is refused, and so is a step once the servo has locked and a task is admitted. LOCK stays once set; OFFS is the
last measured offset (R345, R346). -/
def execTimebaseUpdate (base cyc rate : Word) (lock : Bool) (offs : Imm32) (s : State) : Result :=
  let p := s.pkg
  let stat := BitVec.ofNat 64 ((p.tbstat.getLsbD 0 || lock).toNat + offs.toNat * 2 ^ 32)
  let smooth := cyc.toNat = s.cyc && base.toNat = s.ptimeAt s.cyc
  let step := !p.tbstat.getLsbD 0 || s.dies.all fun d => d.2.tasks.isEmpty
  .next <| s.modPkg fun p =>
    if rateOk rate && (smooth || step) then { p with tbbase := base, tbcyc := cyc, tbrate := rate, tbstat := stat }
    else { p with tbstat := stat }

/-! ### Power (R350, R351) -/

/-- Meaning of POWER_CHECK: every 100 µs, over 3,200 W every column's LB falls by 8, down to 16; below 95 % of it every LB rises by 8, up
to the configured value (R351). -/
def execPowerCheck (watts : Bits16) (s : State) : Result :=
  let w := watts.toNat
  let f (lb cfg : Nat) : Nat := if 3200 < w then max 16 (lb - 8) else if w * 100 < 95 * 3200 then min cfg (lb + 8) else lb
  .next <|
    if s.cyc < s.pkg.pwrAt + 80000 then s
    else ([0, 1, 2, 3] : List DieId).foldl (fun (s : State) d => s.modDie d fun x =>
      { x with lb := (List.range 8).foldl (fun (t : Tab Nat) c => t.put c (f (x.lb.val 48 c) (x.lbCfg.val 48 c))) x.lb })
      (s.modPkg fun p => { p with pwrAt := s.cyc })

/-- Meaning of FABRIC_CLOCK_HOP: on a safe-mode request the fabric clock's hop begins, and while it lasts the ports are quiesced and the
networks pause; where one is in progress it ends, and the droops latched meanwhile are acted on and logged (R349, R350, log 97). -/
def execFabricClockHop (safe : Bool) (s : State) : Result :=
  .next <| match s.pkg.hop with
    | none => if safe then s.modPkg fun p => { p with hop := some s.cyc } else s
    | some _ => s.pkg.hopDroop.foldl (fun (s : State) p => s.droopAt (BitVec.ofNat 2 p.1) p.2)
        (s.modPkg fun p => { p with hop := none, hopDroop := [] })

end Sys2Proof.Machine
end

