-- ==== Sys2Proof/Machine/Predicate.lean ====
section
/-!
DEFINITION. Compares and predicate instructions (R119 to R121).
-/
namespace Sys2Proof.Machine

/-- A compare into a predicate: an inactive lane keeps its bit, or is cleared under Z; a poisoned source of an active lane
faults (R112, R119). -/
def compareLanes (s : State) (i : Instr) (pd : PReg) (a b : VSrc) (z : Bool) (g : Guard) (ty : Ty)
    (f : Fcr → Nat → Nat → Bool) : Result :=
  attempt s i fun e =>
    let c := e.fcr
    let x := e.opnd a
    let y := e.opnd b
    let w := ty.width
    let act := e.active g
    let old := e.pGet pd
    let on := (List.range ty.lanes).filter act
    e.plan (firstPois [x.pois w on, y.pois w on])
      (e.pset (4 + raise [a, b]) pd (predOf ty fun k =>
        if act k then f c (x.el w k) (y.el w k) else !z && old.getLsbD k))

/-- Meaning of VCMP (R119). -/
def execVcmp (pd : PReg) (a b : VSrc) (cond : Bits3) (z : Bool) (g : Guard) (ty : Ty) (s : State) : Result :=
  compareLanes s (.vcmp pd a b cond z g ty) pd a b z g ty fun c x y => condF cond.toNat (real c ty x) (real c ty y)

/-- Meaning of VICMP (R119). -/
def execVicmp (pd : PReg) (a b : VSrc) (cond : Bits3) (z : Bool) (g : Guard) (ty : Ty) (s : State) : Result :=
  compareLanes s (.vicmp pd a b cond z g ty) pd a b z g ty fun _ x y => condI cond.toNat (intOf ty x) (intOf ty y)

/-- A predicate instruction: active lanes take a bit, inactive lanes keep theirs, bits above the lane count clear (R16, R120). -/
def predLanes (e : At) (pd : PReg) (g : Guard) (ty : Ty) (f : Nat → Bool) : State :=
  let act := e.active g
  let old := e.pGet pd
  e.pset 2 pd (predOf ty fun k => if act k then f k else old.getLsbD k)

/-- Meaning of PAND: and of two predicates (R120). -/
def execPand (pd pa pb : PReg) (g : Guard) (ty : Ty) (s : State) : Result :=
  attempt s (.pand pd pa pb g ty) fun e =>
    e.plan [] (predLanes e pd g ty fun k => (e.pGet pa).getLsbD k && (e.pGet pb).getLsbD k)

/-- Meaning of POR: or of two predicates (R120). -/
def execPor (pd pa pb : PReg) (g : Guard) (ty : Ty) (s : State) : Result :=
  attempt s (.por pd pa pb g ty) fun e =>
    e.plan [] (predLanes e pd g ty fun k => (e.pGet pa).getLsbD k || (e.pGet pb).getLsbD k)

/-- Meaning of PXOR: exclusive or of two predicates (R120). -/
def execPxor (pd pa pb : PReg) (g : Guard) (ty : Ty) (s : State) : Result :=
  attempt s (.pxor pd pa pb g ty) fun e =>
    e.plan [] (predLanes e pd g ty fun k => (e.pGet pa).getLsbD k != (e.pGet pb).getLsbD k)

/-- Meaning of PNOT: inverse of a predicate (R120). -/
def execPnot (pd pa : PReg) (g : Guard) (ty : Ty) (s : State) : Result :=
  attempt s (.pnot pd pa g ty) fun e => e.plan [] (predLanes e pd g ty fun k => !(e.pGet pa).getLsbD k)

/-- Meaning of PMOV: copy of a predicate (R120). -/
def execPmov (pd pa : PReg) (g : Guard) (ty : Ty) (s : State) : Result :=
  attempt s (.pmov pd pa g ty) fun e => e.plan [] (predLanes e pd g ty fun k => (e.pGet pa).getLsbD k)

/-- Meaning of PSET with an immediate count (R120). -/
def execPsetImm (pd : PReg) (n : Bits11) (g : Guard) (ty : Ty) (s : State) : Result :=
  attempt s (.psetImm pd n g ty) fun e => e.plan [] (predLanes e pd g ty fun k => k < n.toNat)

/-- Meaning of PSET with a count in sA; a poisoned count faults (R112, R120). -/
def execPsetReg (pd : PReg) (sa : SReg) (g : Guard) (ty : Ty) (s : State) : Result :=
  attempt s (.psetReg pd sa g ty) fun e =>
    e.plan (e.poisS 2 sa) (predLanes e pd g ty fun k => k < min (e.sGet sa).1.toNat ty.lanes)

/-- Lanes that are active and set in a predicate, in rising order (R121). -/
def At.setLanes (e : At) (pa : PReg) (g : Guard) (ty : Ty) : List Nat :=
  let p := e.pGet pa
  let act := e.active g
  (List.range ty.lanes).filter fun k => act k && p.getLsbD k

/-- Meaning of PCNT: how many (R121). -/
def execPcnt (sd : SReg) (pa : PReg) (g : Guard) (ty : Ty) (s : State) : Result :=
  attempt s (.pcnt sd pa g ty) fun e => e.plan [] (e.fly 2 (.s sd (BitVec.ofNat 64 (e.setLanes pa g ty).length) false))

/-- Meaning of PFST: the lowest, or the lane count (R121). -/
def execPfst (sd : SReg) (pa : PReg) (g : Guard) (ty : Ty) (s : State) : Result :=
  attempt s (.pfst sd pa g ty) fun e =>
    e.plan [] (e.fly 2 (.s sd (BitVec.ofNat 64 ((e.setLanes pa g ty).headD ty.lanes)) false))

end Sys2Proof.Machine
end

