-- ==== Sys2Proof/Machine/Scalar.lean ====
section
/-!
DEFINITION. NOP and the integer instructions of the S syllable (R38, R78 to R81).
-/
namespace Sys2Proof.Machine

/-- An S-syllable instruction that writes sD with a bound (R78, R81). -/
def alu (s : State) (i : Instr) (sd : SReg) (lat : Nat) (v : At → Word × Bool) : Result :=
  attempt s i fun e => e.plan [] (e.fly lat (.s sd (v e).1 (v e).2))

/-- The product of two words as signed integers. -/
def mulS (a b : Word) : Int := a.toInt * b.toInt

/-- Signed quotient, truncated toward zero; a zero divisor gives all ones (R79). -/
def divS (a b : Word) : Word := if b = 0 then BitVec.allOnes 64 else BitVec.ofInt 64 (a.toInt.tdiv b.toInt)
/-- Unsigned quotient; a zero divisor gives all ones (R79). -/
def divU (a b : Word) : Word := if b = 0 then BitVec.allOnes 64 else BitVec.ofNat 64 (a.toNat / b.toNat)
/-- Signed remainder with the sign of the dividend; a zero divisor gives the dividend (R79). -/
def remS (a b : Word) : Word := if b = 0 then a else BitVec.ofInt 64 (a.toInt.tmod b.toInt)
/-- Unsigned remainder; a zero divisor gives the dividend (R79). -/
def remU (a b : Word) : Word := if b = 0 then a else BitVec.ofNat 64 (a.toNat % b.toNat)

/-- Shift amount: bits 5:0 (R78). -/
def amt6 (b : Word) : Nat := b.toNat % 64
/-- Arithmetic shift right by bits 5:0 of the amount. -/
def shaBy (a b : Word) : Word := a.sshiftRight (amt6 b)
/-- Rotation left by bits 5:0 of the amount. -/
def rotBy (a b : Word) : Word := (a <<< amt6 b) ||| (a >>> ((64 - amt6 b) % 64))

/-- Leading zeros (R78). -/
def clz64 (a : Word) : Nat := if a = 0 then 64 else 63 - a.toNat.log2
/-- Trailing zeros (R78). -/
def ctz64 (a : Word) : Nat := ((List.range 64).find? fun i => a.getLsbD i).getD 64
/-- Bits set (R78). -/
def popc64 (a : Word) : Nat := ((List.range 64).filter fun i => a.getLsbD i).length

/-- Bits pos + len - 1 to pos, zero-extended (R80). -/
def fieldOf (a : Word) (pos lenm1 : Nat) : Word := BitVec.ofNat 64 (bits a (pos + lenm1) pos)

/-- Meaning of NOP (R38). -/
def execNop (s : State) : Result := attempt s .nop fun e => e.plan [] e.s
/-- Meaning of ADD: the sum (R78). -/
def execAdd (sd sa sb : SReg) (s : State) : Result :=
  alu s (.add sd sa sb) sd 1 fun e => tag2 (· + ·) (e.sGet sa) (e.sGet sb)

/-- Meaning of SUB: the difference (R78). -/
def execSub (sd sa sb : SReg) (s : State) : Result :=
  alu s (.sub sd sa sb) sd 1 fun e => tag2 (· - ·) (e.sGet sa) (e.sGet sb)

/-- Meaning of MUL: bits 63:0 of the product (R78). -/
def execMul (sd sa sb : SReg) (s : State) : Result :=
  alu s (.mul sd sa sb) sd 3 fun e => tag2 (· * ·) (e.sGet sa) (e.sGet sb)

/-- Meaning of MULH: bits 127:64 of the signed product (R78). -/
def execMulh (sd sa sb : SReg) (s : State) : Result :=
  alu s (.mulh sd sa sb) sd 3 fun e => tag2 (fun a b => BitVec.ofInt 64 (mulS a b / 2 ^ 64)) (e.sGet sa) (e.sGet sb)

/-- Meaning of MULHN: bits 127:64 of the unsigned product (R78). -/
def execMulhn (sd sa sb : SReg) (s : State) : Result :=
  alu s (.mulhn sd sa sb) sd 3 fun e => tag2 (fun a b => BitVec.ofNat 64 (a.toNat * b.toNat / 2 ^ 64)) (e.sGet sa) (e.sGet sb)

/-- Meaning of DIV: the signed quotient (R78). -/
def execDiv (sd sa sb : SReg) (s : State) : Result :=
  alu s (.div sd sa sb) sd 20 fun e => tag2 divS (e.sGet sa) (e.sGet sb)

/-- Meaning of DIVN: the unsigned quotient (R78). -/
def execDivn (sd sa sb : SReg) (s : State) : Result :=
  alu s (.divn sd sa sb) sd 20 fun e => tag2 divU (e.sGet sa) (e.sGet sb)

/-- Meaning of REM: the signed remainder (R78). -/
def execRem (sd sa sb : SReg) (s : State) : Result :=
  alu s (.rem sd sa sb) sd 20 fun e => tag2 remS (e.sGet sa) (e.sGet sb)

/-- Meaning of REMN: the unsigned remainder (R78). -/
def execRemn (sd sa sb : SReg) (s : State) : Result :=
  alu s (.remn sd sa sb) sd 20 fun e => tag2 remU (e.sGet sa) (e.sGet sb)

/-- Meaning of AND: bitwise and (R78). -/
def execAnd (sd sa sb : SReg) (s : State) : Result :=
  alu s (.and sd sa sb) sd 1 fun e => tag2 (· &&& ·) (e.sGet sa) (e.sGet sb)

/-- Meaning of OR: bitwise or (R78). -/
def execOr (sd sa sb : SReg) (s : State) : Result :=
  alu s (.or sd sa sb) sd 1 fun e => tag2 (· ||| ·) (e.sGet sa) (e.sGet sb)

/-- Meaning of XOR: bitwise exclusive or (R78). -/
def execXor (sd sa sb : SReg) (s : State) : Result :=
  alu s (.xor sd sa sb) sd 1 fun e => tag2 (· ^^^ ·) (e.sGet sa) (e.sGet sb)

/-- Meaning of ANDN: and with the inverse (R78). -/
def execAndn (sd sa sb : SReg) (s : State) : Result :=
  alu s (.andn sd sa sb) sd 1 fun e => tag2 (fun a b => a &&& ~~~ b) (e.sGet sa) (e.sGet sb)

/-- Meaning of SHL: shift left (R78). -/
def execShl (sd sa sb : SReg) (s : State) : Result :=
  alu s (.shl sd sa sb) sd 1 fun e => tag2 (fun a b => a <<< amt6 b) (e.sGet sa) (e.sGet sb)

/-- Meaning of SHR: logical shift right (R78). -/
def execShr (sd sa sb : SReg) (s : State) : Result :=
  alu s (.shr sd sa sb) sd 1 fun e => tag2 (fun a b => a >>> amt6 b) (e.sGet sa) (e.sGet sb)

/-- Meaning of SHA: arithmetic shift right (R78). -/
def execSha (sd sa sb : SReg) (s : State) : Result :=
  alu s (.sha sd sa sb) sd 1 fun e => tag2 shaBy (e.sGet sa) (e.sGet sb)

/-- Meaning of ROT: rotation left (R78). -/
def execRot (sd sa sb : SReg) (s : State) : Result :=
  alu s (.rot sd sa sb) sd 1 fun e => tag2 rotBy (e.sGet sa) (e.sGet sb)

/-- Meaning of MIN: signed minimum (R78). -/
def execMin (sd sa sb : SReg) (s : State) : Result :=
  alu s (.min sd sa sb) sd 1 fun e => tag2 (fun a b => if a.slt b then a else b) (e.sGet sa) (e.sGet sb)

/-- Meaning of MAX: signed maximum (R78). -/
def execMax (sd sa sb : SReg) (s : State) : Result :=
  alu s (.max sd sa sb) sd 1 fun e => tag2 (fun a b => if a.slt b then b else a) (e.sGet sa) (e.sGet sb)

/-- Meaning of MINN: unsigned minimum (R78). -/
def execMinn (sd sa sb : SReg) (s : State) : Result :=
  alu s (.minn sd sa sb) sd 1 fun e => tag2 (fun a b => if a.ult b then a else b) (e.sGet sa) (e.sGet sb)

/-- Meaning of MAXN: unsigned maximum (R78). -/
def execMaxn (sd sa sb : SReg) (s : State) : Result :=
  alu s (.maxn sd sa sb) sd 1 fun e => tag2 (fun a b => if a.ult b then b else a) (e.sGet sa) (e.sGet sb)

/-- Meaning of CLZ: leading zeros (R78). -/
def execClz (sd sa : SReg) (s : State) : Result :=
  alu s (.clz sd sa) sd 1 fun e => tag1 (fun a => BitVec.ofNat 64 (clz64 a)) (e.sGet sa)

/-- Meaning of CTZ: trailing zeros (R78). -/
def execCtz (sd sa : SReg) (s : State) : Result :=
  alu s (.ctz sd sa) sd 1 fun e => tag1 (fun a => BitVec.ofNat 64 (ctz64 a)) (e.sGet sa)

/-- Meaning of POPC: set bits (R78). -/
def execPopc (sd sa : SReg) (s : State) : Result :=
  alu s (.popc sd sa) sd 1 fun e => tag1 (fun a => BitVec.ofNat 64 (popc64 a)) (e.sGet sa)

/-- Meaning of SEQ: 1 if equal (R78). -/
def execSeq (sd sa sb : SReg) (s : State) : Result :=
  alu s (.seq sd sa sb) sd 1 fun e => tag2 (fun a b => flagWord (a == b)) (e.sGet sa) (e.sGet sb)

/-- Meaning of SNE: 1 if not equal (R78). -/
def execSne (sd sa sb : SReg) (s : State) : Result :=
  alu s (.sne sd sa sb) sd 1 fun e => tag2 (fun a b => flagWord (a != b)) (e.sGet sa) (e.sGet sb)

/-- Meaning of SLT: 1 if less, signed (R78). -/
def execSlt (sd sa sb : SReg) (s : State) : Result :=
  alu s (.slt sd sa sb) sd 1 fun e => tag2 (fun a b => flagWord (a.slt b)) (e.sGet sa) (e.sGet sb)

/-- Meaning of SLTN: 1 if less, unsigned (R78). -/
def execSltn (sd sa sb : SReg) (s : State) : Result :=
  alu s (.sltn sd sa sb) sd 1 fun e => tag2 (fun a b => flagWord (a.ult b)) (e.sGet sa) (e.sGet sb)

/-- Meaning of SEL: sA if sC is not zero, else sB; the tags of sC and of the source selected (R78). -/
def execSel (sd sc sa sb : SReg) (s : State) : Result :=
  alu s (.sel sd sc sa sb) sd 1 fun e =>
    let c := e.sGet sc
    let v := if c.1 != 0 then e.sGet sa else e.sGet sb
    (v.1, c.2 || v.2)

/-- Meaning of BFX: a bit field, zero-extended (R78, R80). -/
def execBfx (sd sa : SReg) (pos lenm1 : Bits6) (s : State) : Result :=
  alu s (.bfx sd sa pos lenm1) sd 1 fun e => tag1 (fun a => fieldOf a pos.toNat lenm1.toNat) (e.sGet sa)

/-- Meaning of BFI: the low bits of sA put into a bit field of the old sD (R78, R80). -/
def execBfi (sd sa : SReg) (pos lenm1 : Bits6) (s : State) : Result :=
  alu s (.bfi sd sa pos lenm1) sd 1 fun e =>
    tag2 (fun d a => setBits d (pos.toNat + lenm1.toNat) pos.toNat a.toNat) (e.sGet sd) (e.sGet sa)

/-- Meaning of ADDI: the sum with the immediate (R81). -/
def execAddi (sd sa : SReg) (imm : Imm32) (s : State) : Result :=
  alu s (.addi sd sa imm) sd 1 fun e => tag1 (fun a => a + simm imm) (e.sGet sa)

/-- Meaning of ANDI: bitwise and with the immediate (R81). -/
def execAndi (sd sa : SReg) (imm : Imm32) (s : State) : Result :=
  alu s (.andi sd sa imm) sd 1 fun e => tag1 (fun a => a &&& simm imm) (e.sGet sa)

/-- Meaning of ORI: bitwise or with the immediate (R81). -/
def execOri (sd sa : SReg) (imm : Imm32) (s : State) : Result :=
  alu s (.ori sd sa imm) sd 1 fun e => tag1 (fun a => a ||| simm imm) (e.sGet sa)

/-- Meaning of XORI: bitwise exclusive or with the immediate (R81). -/
def execXori (sd sa : SReg) (imm : Imm32) (s : State) : Result :=
  alu s (.xori sd sa imm) sd 1 fun e => tag1 (fun a => a ^^^ simm imm) (e.sGet sa)

/-- Meaning of SHLI: shift left by the immediate (R81). -/
def execShli (sd sa : SReg) (amt : Bits6) (s : State) : Result :=
  alu s (.shli sd sa amt) sd 1 fun e => tag1 (fun a => a <<< amt.toNat) (e.sGet sa)

/-- Meaning of SHRI: logical shift right by the immediate (R81). -/
def execShri (sd sa : SReg) (amt : Bits6) (s : State) : Result :=
  alu s (.shri sd sa amt) sd 1 fun e => tag1 (fun a => a >>> amt.toNat) (e.sGet sa)

/-- Meaning of SHAI: arithmetic shift right by the immediate (R81). -/
def execShai (sd sa : SReg) (amt : Bits6) (s : State) : Result :=
  alu s (.shai sd sa amt) sd 1 fun e => tag1 (fun a => a.sshiftRight amt.toNat) (e.sGet sa)

/-- Meaning of SLTI: 1 if less than the immediate, signed (R81). -/
def execSlti (sd sa : SReg) (imm : Imm32) (s : State) : Result :=
  alu s (.slti sd sa imm) sd 1 fun e => tag1 (fun a => flagWord (a.slt (simm imm))) (e.sGet sa)

/-- Meaning of LI: the immediate, tag clear (R81). -/
def execLi (sd : SReg) (imm : Imm32) (s : State) : Result :=
  alu s (.li sd imm) sd 1 fun _ => (simm imm, false)

/-- Meaning of LIH: bits 63:32 of sD replaced; bits 31:0 and the tag unchanged (R81). -/
def execLih (sd : SReg) (imm : Imm32) (s : State) : Result :=
  alu s (.lih sd imm) sd 1 fun e => tag1 (fun d => setBits d 63 32 imm.toNat) (e.sGet sd)

end Sys2Proof.Machine
end

