-- ==== Sys2Proof/Machine/VecFloat.lean ====
section
/-!
DEFINITION. Floating lane arithmetic and special functions (R116, R117).
-/
namespace Sys2Proof.Machine

/-- Meaning of VADD: the sum (R116). -/
def execVadd (vd : VReg) (a b : VSrc) (g : Guard) (ty : Ty) (s : State) : Result :=
  float2 s (.vadd vd a b g ty) vd a b g ty 4 fun c x y => x.add c.rdn y

/-- Meaning of VSUB: the difference (R116). -/
def execVsub (vd : VReg) (a b : VSrc) (g : Guard) (ty : Ty) (s : State) : Result :=
  float2 s (.vsub vd a b g ty) vd a b g ty 4 fun c x y => x.add c.rdn y.neg

/-- Meaning of VMUL: the product (R116). -/
def execVmul (vd : VReg) (a b : VSrc) (g : Guard) (ty : Ty) (s : State) : Result :=
  float2 s (.vmul vd a b g ty) vd a b g ty 4 fun _ x y => x.mul y

/-- Meaning of VFMA: a × b + c, one rounding (R116). -/
def execVfma (vd : VReg) (a b c : VSrc) (g : Guard) (ty : Ty) (s : State) : Result :=
  float3 s (.vfma vd a b c g ty) vd a b c g ty fun c x y z => (x.mul y).add c.rdn z

/-- Meaning of VFMS: a × b − c, one rounding (R116). -/
def execVfms (vd : VReg) (a b c : VSrc) (g : Guard) (ty : Ty) (s : State) : Result :=
  float3 s (.vfms vd a b c g ty) vd a b c g ty fun c x y z => (x.mul y).add c.rdn z.neg

/-- Meaning of VFNMA: c − a × b, one rounding (R116). -/
def execVfnma (vd : VReg) (a b c : VSrc) (g : Guard) (ty : Ty) (s : State) : Result :=
  float3 s (.vfnma vd a b c g ty) vd a b c g ty fun c x y z => z.add c.rdn (x.mul y).neg

/-- Meaning of VMIN: the lesser, an input's encoding after DAZ (R116). -/
def execVmin (vd : VReg) (a b : VSrc) (g : Guard) (ty : Ty) (s : State) : Result :=
  minmax s (.vmin vd a b g ty) vd a b g ty false

/-- Meaning of VMAX: the greater, an input's encoding after DAZ (R116). -/
def execVmax (vd : VReg) (a b : VSrc) (g : Guard) (ty : Ty) (s : State) : Result :=
  minmax s (.vmax vd a b g ty) vd a b g ty true

/-- Meaning of VABS: the sign bit cleared (R116). -/
def execVabs (vd : VReg) (a : VSrc) (g : Guard) (ty : Ty) (s : State) : Result :=
  bits1 s (.vabs vd a g ty) vd a g ty 4 fun x => x % 2 ^ (ty.width - 1)

/-- Meaning of VNEG: the sign bit inverted (R116). -/
def execVneg (vd : VReg) (a : VSrc) (g : Guard) (ty : Ty) (s : State) : Result :=
  bits1 s (.vneg vd a g ty) vd a g ty 4 fun x => x ^^^ 2 ^ (ty.width - 1)

/-- Meaning of VCPS: the sign bit taken from b (R116). -/
def execVcps (vd : VReg) (a b : VSrc) (g : Guard) (ty : Ty) (s : State) : Result :=
  bits2 s (.vcps vd a b g ty) vd a b g ty 4 fun x y =>
    x % 2 ^ (ty.width - 1) + y / 2 ^ (ty.width - 1) * 2 ^ (ty.width - 1)

/-- Meaning of VDIV: the quotient, correctly rounded (R117). -/
def execVdiv (vd : VReg) (a b : VSrc) (g : Guard) (ty : Ty) (s : State) : Result :=
  float2 s (.vdiv vd a b g ty) vd a b g ty 24 fun _ x y => x.div y

/-- Meaning of VSQRT: the square root, correctly rounded (R117). -/
def execVsqrt (vd : VReg) (a : VSrc) (g : Guard) (ty : Ty) (s : State) : Result :=
  lanes s (.vsqrt vd a g ty) vd 24 [a] g ty fun e =>
    let c := e.fcr
    let x := e.opnd a
    let w := ty.width
    fun k => (roundTo c ty none (real c ty (x.el w k)).sqrt, x.tg w k)

/-- Meaning of VRCP (R117). -/
def execVrcp (vd : VReg) (a : VSrc) (g : Guard) (ty : Ty) (s : State) : Result :=
  special s (.vrcp vd a g ty) vd a g ty .rcp

/-- Meaning of VRSQ (R117). -/
def execVrsq (vd : VReg) (a : VSrc) (g : Guard) (ty : Ty) (s : State) : Result :=
  special s (.vrsq vd a g ty) vd a g ty .rsq

/-- Meaning of VEX2 (R117). -/
def execVex2 (vd : VReg) (a : VSrc) (g : Guard) (ty : Ty) (s : State) : Result :=
  special s (.vex2 vd a g ty) vd a g ty .ex2

/-- Meaning of VLG2 (R117). -/
def execVlg2 (vd : VReg) (a : VSrc) (g : Guard) (ty : Ty) (s : State) : Result :=
  special s (.vlg2 vd a g ty) vd a g ty .lg2

/-- Meaning of VTNH (R117). -/
def execVtnh (vd : VReg) (a : VSrc) (g : Guard) (ty : Ty) (s : State) : Result :=
  special s (.vtnh vd a g ty) vd a g ty .tnh

/-- Meaning of VLGS (R117). -/
def execVlgs (vd : VReg) (a : VSrc) (g : Guard) (ty : Ty) (s : State) : Result :=
  special s (.vlgs vd a g ty) vd a g ty .lgs

/-- Meaning of VSIN (R117). -/
def execVsin (vd : VReg) (a : VSrc) (g : Guard) (ty : Ty) (s : State) : Result :=
  special s (.vsin vd a g ty) vd a g ty .sin

/-- Meaning of VCOS (R117). -/
def execVcos (vd : VReg) (a : VSrc) (g : Guard) (ty : Ty) (s : State) : Result :=
  special s (.vcos vd a g ty) vd a g ty .cos

end Sys2Proof.Machine
end

