-- ==== Sys2Proof/Machine/VecInt.lean ====
section
/-!
DEFINITION. Integer lane arithmetic (R118).
-/
namespace Sys2Proof.Machine

/-- Meaning of VIADD: the sum, wrapped or saturated (R118). -/
def execViadd (vd : VReg) (a b : VSrc) (sat : Bool) (g : Guard) (ty : Ty) (s : State) : Result :=
  int2 s (.viadd vd a b sat g ty) vd a b sat g ty 2 (· + ·)

/-- Meaning of VISUB: the difference, wrapped or saturated (R118). -/
def execVisub (vd : VReg) (a b : VSrc) (sat : Bool) (g : Guard) (ty : Ty) (s : State) : Result :=
  int2 s (.visub vd a b sat g ty) vd a b sat g ty 2 (· - ·)

/-- Meaning of VIMUL: the product (R118). -/
def execVimul (vd : VReg) (a b : VSrc) (g : Guard) (ty : Ty) (s : State) : Result :=
  int2 s (.vimul vd a b g ty) vd a b false g ty 4 (· * ·)

/-- Meaning of VIMULH: the high half of the product (R118). -/
def execVimulh (vd : VReg) (a b : VSrc) (g : Guard) (ty : Ty) (s : State) : Result :=
  int2 s (.vimulh vd a b g ty) vd a b false g ty 4 fun x y => x * y / 2 ^ ty.width

/-- Meaning of VIMAD: a × b + c (R118). -/
def execVimad (vd : VReg) (a b c : VSrc) (g : Guard) (ty : Ty) (s : State) : Result :=
  lanes s (.vimad vd a b c g ty) vd 4 [a, b, c] g ty fun e =>
    let x := e.opnd a
    let y := e.opnd b
    let z := e.opnd c
    let w := ty.width
    fun k => (fitInt ty false (intOf ty (x.el w k) * intOf ty (y.el w k) + intOf ty (z.el w k)),
      x.tg w k || y.tg w k || z.tg w k)

/-- Meaning of VAND: bitwise and (R118). -/
def execVand (vd : VReg) (a b : VSrc) (g : Guard) (ty : Ty) (s : State) : Result :=
  bits2 s (.vand vd a b g ty) vd a b g ty 2 fun x y => x &&& y

/-- Meaning of VOR: bitwise or (R118). -/
def execVor (vd : VReg) (a b : VSrc) (g : Guard) (ty : Ty) (s : State) : Result :=
  bits2 s (.vor vd a b g ty) vd a b g ty 2 fun x y => x ||| y

/-- Meaning of VXOR: bitwise exclusive or (R118). -/
def execVxor (vd : VReg) (a b : VSrc) (g : Guard) (ty : Ty) (s : State) : Result :=
  bits2 s (.vxor vd a b g ty) vd a b g ty 2 fun x y => x ^^^ y

/-- Meaning of VNOT: bitwise inverse (R118). -/
def execVnot (vd : VReg) (a : VSrc) (g : Guard) (ty : Ty) (s : State) : Result :=
  bits1 s (.vnot vd a g ty) vd a g ty 2 fun x => 2 ^ ty.width - 1 - x

/-- Meaning of VSHL: shift left (R118). -/
def execVshl (vd : VReg) (a b : VSrc) (g : Guard) (ty : Ty) (s : State) : Result :=
  bits2 s (.vshl vd a b g ty) vd a b g ty 2 fun x y => x * 2 ^ (y % ty.width) % 2 ^ ty.width

/-- Meaning of VSHR: logical shift right (R118). -/
def execVshr (vd : VReg) (a b : VSrc) (g : Guard) (ty : Ty) (s : State) : Result :=
  bits2 s (.vshr vd a b g ty) vd a b g ty 2 fun x y => x / 2 ^ (y % ty.width)

/-- Meaning of VSHA: shift right with the top bit replicated (R118). -/
def execVsha (vd : VReg) (a b : VSrc) (g : Guard) (ty : Ty) (s : State) : Result :=
  bits2 s (.vsha vd a b g ty) vd a b g ty 2 fun x y => wrap ty.width ((if 2 ^ (ty.width - 1) ≤ x then (x : Int) - 2 ^ ty.width else x) / 2 ^ (y % ty.width))

/-- Meaning of VIMIN: the lesser (R118). -/
def execVimin (vd : VReg) (a b : VSrc) (g : Guard) (ty : Ty) (s : State) : Result :=
  int2 s (.vimin vd a b g ty) vd a b false g ty 2 fun x y => min x y

/-- Meaning of VIMAX: the greater (R118). -/
def execVimax (vd : VReg) (a b : VSrc) (g : Guard) (ty : Ty) (s : State) : Result :=
  int2 s (.vimax vd a b g ty) vd a b false g ty 2 fun x y => max x y

/-- Meaning of VIABS: the magnitude (R118). -/
def execViabs (vd : VReg) (a : VSrc) (sat : Bool) (g : Guard) (ty : Ty) (s : State) : Result :=
  bits1 s (.viabs vd a sat g ty) vd a g ty 2 fun x => fitInt ty sat ((intOf ty x).natAbs : Int)

end Sys2Proof.Machine
end

