-- ==== Sys2Proof/Machine/VecMove.lean ====
section
/-!
DEFINITION. Moves, selects, broadcasts, lane access, shuffles, slides and compress (R122 to R126).
-/
namespace Sys2Proof.Machine

/-- Meaning of VMOV (R122). -/
def execVmov (vd : VReg) (a : VSrc) (g : Guard) (ty : Ty) (s : State) : Result :=
  bits1 s (.vmov vd a g ty) vd a g ty 2 id

/-- Meaning of VSEL: a where the predicate is set, else b, with the tag of the element chosen (R122). -/
def execVsel (vd : VReg) (pc : PReg) (a b : VSrc) (g : Guard) (ty : Ty) (s : State) : Result :=
  lanes s (.vsel vd pc a b g ty) vd 2 [a, b] g ty fun e =>
    let p := e.pGet pc
    let x := e.opnd a
    let y := e.opnd b
    let w := ty.width
    fun k => if p.getLsbD k then (x.el w k, x.tg w k) else (y.el w k, y.tg w k)

/-- Meaning of VBCST of a scalar (R122). -/
def execVbcstScalar (vd : VReg) (sa : SReg) (g : Guard) (ty : Ty) (s : State) : Result :=
  lanes s (.vbcstScalar vd sa g ty) vd 2 [] g ty fun e =>
    let x := e.opnd (.s sa)
    fun k => (x.el ty.width k, x.tg ty.width k)

/-- Meaning of VBCST of a lane: lane sB mod L; a poisoned sB faults (R112, R122). -/
def execVbcstLane (vd : VReg) (a : RowSrc) (sb : SReg) (g : Guard) (ty : Ty) (s : State) : Result :=
  attempt s (.vbcstLane vd a sb g ty) fun e =>
    let x := e.opndR a
    let w := ty.width
    let j := (e.sGet sb).1.toNat % ty.lanes
    e.plan (e.poisS 2 sb)
      (e.put (2 + raiseR a) vd w (lanesOf ty (e.active g) fun _ => (x.el w j, x.tg w j)))

/-- The lane value of the immediate form of VBCST (R122). -/
def immLane (ty : Ty) (imm : Imm32) : Nat :=
  match ty with
  | .i64 => (simm imm).toNat
  | _ => imm.toNat % 2 ^ ty.width

/-- Meaning of VBCST of an immediate: tags clear (R122). -/
def execVbcstImm (vd : VReg) (imm : Imm32) (g : Guard) (ty : Ty) (s : State) : Result :=
  lanes s (.vbcstImm vd imm g ty) vd 2 [] g ty fun _ _ => (immLane ty imm, false)

/-- An element widened into a scalar: sign-extended for .i types (R123). -/
def extValue (ty : Ty) (x : Nat) : Word := if ty.isSigned then BitVec.ofInt 64 (intOf ty x) else BitVec.ofNat 64 x

/-- VEXT of lane j (R123). -/
def At.vext (e : At) (sd : SReg) (a : RowSrc) (j : Nat) (ty : Ty) : State :=
  let x := e.opndR a
  e.fly (6 + raiseR a) (.s sd (extValue ty (x.el ty.width j)) (x.tg ty.width j))

/-- Meaning of VEXT with an immediate index (R123). -/
def execVextImm (sd : SReg) (a : RowSrc) (idx : Bits10) (ty : Ty) (s : State) : Result :=
  attempt s (.vextImm sd a idx ty) fun e => e.plan [] (e.vext sd a idx.toNat ty)

/-- Meaning of VEXT with an index in an s register, mod L; a poisoned index faults (R112, R123). -/
def execVextReg (sd : SReg) (a : RowSrc) (si : SReg) (ty : Ty) (s : State) : Result :=
  attempt s (.vextReg sd a si ty) fun e => e.plan (e.poisS 2 si) (e.vext sd a ((e.sGet si).1.toNat % ty.lanes) ty)

/-- VINS into lane j: the other lanes are not written (R123). -/
def At.vins (e : At) (vd : VReg) (sa : SReg) (j : Nat) (ty : Ty) : State :=
  let x := e.sGet sa
  e.put 6 vd ty.width ((List.range ty.lanes).map fun k => if k = j then some (x.1.toNat % 2 ^ ty.width, x.2) else none)

/-- Meaning of VINS with an immediate index (R123). -/
def execVinsImm (vd : VReg) (sa : SReg) (idx : Bits10) (ty : Ty) (s : State) : Result :=
  attempt s (.vinsImm vd sa idx ty) fun e => e.plan [] (e.vins vd sa idx.toNat ty)

/-- Meaning of VINS with an index in an s register (R112, R123). -/
def execVinsReg (vd : VReg) (sa : SReg) (si : SReg) (ty : Ty) (s : State) : Result :=
  attempt s (.vinsReg vd sa si ty) fun e => e.plan (e.poisS 2 si) (e.vins vd sa ((e.sGet si).1.toNat % ty.lanes) ty)

/-- Meaning of VSHUF: lane b(k) mod L of A (R124). -/
def execVshuf (vd : VReg) (a i : VSrc) (g : Guard) (ty : Ty) (s : State) : Result :=
  lanes s (.vshuf vd a i g ty) vd 6 [a, i] g ty fun e =>
    let x := e.opnd a
    let y := e.opnd i
    let w := ty.width
    fun k =>
      let j := y.el w k % ty.lanes
      (x.el w j, y.tg w k || x.tg w j)

/-- Meaning of VSHUF over two sources: lane b(k) mod 2L of A and C (R124). -/
def execVshufTwo (vd : VReg) (a i c : VSrc) (g : Guard) (ty : Ty) (s : State) : Result :=
  lanes s (.vshufTwo vd a i c g ty) vd 6 [a, i, c] g ty fun e =>
    let x := e.opnd a
    let y := e.opnd i
    let z := e.opnd c
    let w := ty.width
    let n := ty.lanes
    fun k =>
      let j := y.el w k % (2 * n)
      if j < n then (x.el w j, y.tg w k || x.tg w j) else (z.el w (j - n), y.tg w k || z.tg w (j - n))

/-- Lane k of A above B moved down by n lanes (R125). -/
def slideLane (x y : Opnd) (w l n k : Nat) : Nat × Bool :=
  if k + n < l then (x.el w (k + n), x.tg w (k + n)) else (y.el w (k + n - l), y.tg w (k + n - l))

/-- Meaning of VSLIDE by an immediate (R125). -/
def execVslideImm (vd : VReg) (a b : VSrc) (n : Bits11) (g : Guard) (ty : Ty) (s : State) : Result :=
  lanes s (.vslideImm vd a b n g ty) vd 6 [a, b] g ty fun e =>
    let x := e.opnd a
    let y := e.opnd b
    slideLane x y ty.width ty.lanes n.toNat

/-- Meaning of VSLIDE by an s register, at most L; a poisoned amount faults (R112, R125). -/
def execVslideReg (vd : VReg) (a b : VSrc) (sc : SReg) (g : Guard) (ty : Ty) (s : State) : Result :=
  attempt s (.vslideReg vd a b sc g ty) fun e =>
    let x := e.opnd a
    let y := e.opnd b
    let n := min (e.sGet sc).1.toNat ty.lanes
    e.plan (e.poisS 2 sc)
      (e.put (6 + raise [a, b]) vd ty.width (lanesOf ty (e.active g) (slideLane x y ty.width ty.lanes n)))

/-- Meaning of VCMPR: the active lanes packed low, the rest zero, every lane written (R126). -/
def execVcmpr (vd : VReg) (a : VSrc) (g : Guard) (ty : Ty) (s : State) : Result :=
  attempt s (.vcmpr vd a g ty) fun e =>
    let x := e.opnd a
    let w := ty.width
    let on := (List.range ty.lanes).filter (e.active g)
    let l := on.map fun k => some (x.el w k, x.tg w k)
    e.plan [] (e.put (6 + raise [a]) vd w (l ++ List.replicate (ty.lanes - l.length) (some (0, false))))

end Sys2Proof.Machine
end

