-- ==== Sys2Proof/Machine/Dispatch.lean ====
section
/-!
DEFINITION. The meaning of each operation: one arm for each constructor of `Instr`, one direct call of its meaning.
-/
namespace Sys2Proof.Machine

/-- The meaning of an operation at a state. -/
def exec (i : Instr) (s : State) : Host.Outcome State Fault Refusal :=
  match i with
  | .nop => Sys2Proof.Machine.execNop s
  | .add sd sa sb => Sys2Proof.Machine.execAdd sd sa sb s
  | .sub sd sa sb => Sys2Proof.Machine.execSub sd sa sb s
  | .mul sd sa sb => Sys2Proof.Machine.execMul sd sa sb s
  | .mulh sd sa sb => Sys2Proof.Machine.execMulh sd sa sb s
  | .mulhn sd sa sb => Sys2Proof.Machine.execMulhn sd sa sb s
  | .div sd sa sb => Sys2Proof.Machine.execDiv sd sa sb s
  | .divn sd sa sb => Sys2Proof.Machine.execDivn sd sa sb s
  | .rem sd sa sb => Sys2Proof.Machine.execRem sd sa sb s
  | .remn sd sa sb => Sys2Proof.Machine.execRemn sd sa sb s
  | .and sd sa sb => Sys2Proof.Machine.execAnd sd sa sb s
  | .or sd sa sb => Sys2Proof.Machine.execOr sd sa sb s
  | .xor sd sa sb => Sys2Proof.Machine.execXor sd sa sb s
  | .andn sd sa sb => Sys2Proof.Machine.execAndn sd sa sb s
  | .shl sd sa sb => Sys2Proof.Machine.execShl sd sa sb s
  | .shr sd sa sb => Sys2Proof.Machine.execShr sd sa sb s
  | .sha sd sa sb => Sys2Proof.Machine.execSha sd sa sb s
  | .rot sd sa sb => Sys2Proof.Machine.execRot sd sa sb s
  | .min sd sa sb => Sys2Proof.Machine.execMin sd sa sb s
  | .max sd sa sb => Sys2Proof.Machine.execMax sd sa sb s
  | .minn sd sa sb => Sys2Proof.Machine.execMinn sd sa sb s
  | .maxn sd sa sb => Sys2Proof.Machine.execMaxn sd sa sb s
  | .clz sd sa => Sys2Proof.Machine.execClz sd sa s
  | .ctz sd sa => Sys2Proof.Machine.execCtz sd sa s
  | .popc sd sa => Sys2Proof.Machine.execPopc sd sa s
  | .seq sd sa sb => Sys2Proof.Machine.execSeq sd sa sb s
  | .sne sd sa sb => Sys2Proof.Machine.execSne sd sa sb s
  | .slt sd sa sb => Sys2Proof.Machine.execSlt sd sa sb s
  | .sltn sd sa sb => Sys2Proof.Machine.execSltn sd sa sb s
  | .sel sd sc sa sb => Sys2Proof.Machine.execSel sd sc sa sb s
  | .bfx sd sa pos lenm1 => Sys2Proof.Machine.execBfx sd sa pos lenm1 s
  | .bfi sd sa pos lenm1 => Sys2Proof.Machine.execBfi sd sa pos lenm1 s
  | .addi sd sa imm => Sys2Proof.Machine.execAddi sd sa imm s
  | .andi sd sa imm => Sys2Proof.Machine.execAndi sd sa imm s
  | .ori sd sa imm => Sys2Proof.Machine.execOri sd sa imm s
  | .xori sd sa imm => Sys2Proof.Machine.execXori sd sa imm s
  | .shli sd sa amt => Sys2Proof.Machine.execShli sd sa amt s
  | .shri sd sa amt => Sys2Proof.Machine.execShri sd sa amt s
  | .shai sd sa amt => Sys2Proof.Machine.execShai sd sa amt s
  | .slti sd sa imm => Sys2Proof.Machine.execSlti sd sa imm s
  | .li sd imm => Sys2Proof.Machine.execLi sd imm s
  | .lih sd imm => Sys2Proof.Machine.execLih sd imm s
  | .br off => Sys2Proof.Machine.execBr off s
  | .beq sa sb off => Sys2Proof.Machine.execBeq sa sb off s
  | .bne sa sb off => Sys2Proof.Machine.execBne sa sb off s
  | .blt sa sb off => Sys2Proof.Machine.execBlt sa sb off s
  | .bge sa sb off => Sys2Proof.Machine.execBge sa sb off s
  | .bltn sa sb off => Sys2Proof.Machine.execBltn sa sb off s
  | .bgen sa sb off => Sys2Proof.Machine.execBgen sa sb off s
  | .jal sd off => Sys2Proof.Machine.execJal sd off s
  | .jalr sd sa imm => Sys2Proof.Machine.execJalr sd sa imm s
  | .loopImm cnt dist => Sys2Proof.Machine.execLoopImm cnt dist s
  | .loopReg sa dist => Sys2Proof.Machine.execLoopReg sa dist s
  | .lclose vstep pstep => Sys2Proof.Machine.execLclose vstep pstep s
  | .lcloseX vstep pstep => Sys2Proof.Machine.execLcloseX vstep pstep s
  | .bpany pn lt off => Sys2Proof.Machine.execBpany pn lt off s
  | .bpall pn lt off => Sys2Proof.Machine.execBpall pn lt off s
  | .bqs sa sb off => Sys2Proof.Machine.execBqs sa sb off s
  | .trap code => Sys2Proof.Machine.execTrap code s
  | .eret => Sys2Proof.Machine.execEret s
  | .crr sd cr => Sys2Proof.Machine.execCrr sd cr s
  | .crwReg cr sa => Sys2Proof.Machine.execCrwReg cr sa s
  | .crwImm cr imm => Sys2Proof.Machine.execCrwImm cr imm s
  | .ends => Sys2Proof.Machine.execEnds s
  | .stepImm n => Sys2Proof.Machine.execStepImm n s
  | .stepReg sa => Sys2Proof.Machine.execStepReg sa s
  | .trig => Sys2Proof.Machine.execTrig s
  | .fence scp => Sys2Proof.Machine.execFence scp s
  | .fenceR scp => Sys2Proof.Machine.execFenceR scp s
  | .fenceW scp => Sys2Proof.Machine.execFenceW scp s
  | .chkS sa => Sys2Proof.Machine.execChkS sa s
  | .chkA aa => Sys2Proof.Machine.execChkA aa s
  | .chkV v => Sys2Proof.Machine.execChkV v s
  | .aadd ad aa sb => Sys2Proof.Machine.execAadd ad aa sb s
  | .aaddi ad aa imm => Sys2Proof.Machine.execAaddi ad aa imm s
  | .amov ad sb => Sys2Proof.Machine.execAmov ad sb s
  | .agetA sb aa => Sys2Proof.Machine.execAgetA sb aa s
  | .agetM sb md => Sys2Proof.Machine.execAgetM sb md s
  | .amods md sb => Sys2Proof.Machine.execAmods md sb s
  | .ld rt mem sz sx wt => Sys2Proof.Machine.execLd rt mem sz sx wt s
  | .lds rt mem sz sx wt => Sys2Proof.Machine.execLds rt mem sz sx wt s
  | .st rt mem sz wt => Sys2Proof.Machine.execSt rt mem sz wt s
  | .lda rt mem sz sx scp wt => Sys2Proof.Machine.execLda rt mem sz sx scp wt s
  | .stl rt mem sz scp wt => Sys2Proof.Machine.execStl rt mem sz scp wt s
  | .pref l2 mem => Sys2Proof.Machine.execPref l2 mem s
  | .vld vt mem g ty wt => Sys2Proof.Machine.execVld vt mem g ty wt s
  | .vlds vt mem g ty wt => Sys2Proof.Machine.execVlds vt mem g ty wt s
  | .vst vt mem g ty wt => Sys2Proof.Machine.execVst vt mem g ty wt s
  | .vgth vt mem vi g ty wt => Sys2Proof.Machine.execVgth vt mem vi g ty wt s
  | .vsct vt mem vi g ty wt => Sys2Proof.Machine.execVsct vt mem vi g ty wt s
  | .vfetch pq vs => Sys2Proof.Machine.execVfetch pq vs s
  | .vtld vt slot tr g ty => Sys2Proof.Machine.execVtld vt slot tr g ty s
  | .vtst vt slot tr g ty => Sys2Proof.Machine.execVtst vt slot tr g ty s
  | .amo rt ab sb op w64 scp ord wt => Sys2Proof.Machine.execAmo rt ab sb op w64 scp ord wt s
  | .amocas rt ab sb w64 scp ord wt => Sys2Proof.Machine.execAmocas rt ab sb w64 scp ord wt s
  | .vadd vd a b g ty => Sys2Proof.Machine.execVadd vd a b g ty s
  | .vsub vd a b g ty => Sys2Proof.Machine.execVsub vd a b g ty s
  | .vmul vd a b g ty => Sys2Proof.Machine.execVmul vd a b g ty s
  | .vfma vd a b c g ty => Sys2Proof.Machine.execVfma vd a b c g ty s
  | .vfms vd a b c g ty => Sys2Proof.Machine.execVfms vd a b c g ty s
  | .vfnma vd a b c g ty => Sys2Proof.Machine.execVfnma vd a b c g ty s
  | .vmin vd a b g ty => Sys2Proof.Machine.execVmin vd a b g ty s
  | .vmax vd a b g ty => Sys2Proof.Machine.execVmax vd a b g ty s
  | .vabs vd a g ty => Sys2Proof.Machine.execVabs vd a g ty s
  | .vneg vd a g ty => Sys2Proof.Machine.execVneg vd a g ty s
  | .vcps vd a b g ty => Sys2Proof.Machine.execVcps vd a b g ty s
  | .vdiv vd a b g ty => Sys2Proof.Machine.execVdiv vd a b g ty s
  | .vsqrt vd a g ty => Sys2Proof.Machine.execVsqrt vd a g ty s
  | .vrcp vd a g ty => Sys2Proof.Machine.execVrcp vd a g ty s
  | .vrsq vd a g ty => Sys2Proof.Machine.execVrsq vd a g ty s
  | .vex2 vd a g ty => Sys2Proof.Machine.execVex2 vd a g ty s
  | .vlg2 vd a g ty => Sys2Proof.Machine.execVlg2 vd a g ty s
  | .vtnh vd a g ty => Sys2Proof.Machine.execVtnh vd a g ty s
  | .vlgs vd a g ty => Sys2Proof.Machine.execVlgs vd a g ty s
  | .vsin vd a g ty => Sys2Proof.Machine.execVsin vd a g ty s
  | .vcos vd a g ty => Sys2Proof.Machine.execVcos vd a g ty s
  | .viadd vd a b sat g ty => Sys2Proof.Machine.execViadd vd a b sat g ty s
  | .visub vd a b sat g ty => Sys2Proof.Machine.execVisub vd a b sat g ty s
  | .vimul vd a b g ty => Sys2Proof.Machine.execVimul vd a b g ty s
  | .vimulh vd a b g ty => Sys2Proof.Machine.execVimulh vd a b g ty s
  | .vimad vd a b c g ty => Sys2Proof.Machine.execVimad vd a b c g ty s
  | .vand vd a b g ty => Sys2Proof.Machine.execVand vd a b g ty s
  | .vor vd a b g ty => Sys2Proof.Machine.execVor vd a b g ty s
  | .vxor vd a b g ty => Sys2Proof.Machine.execVxor vd a b g ty s
  | .vnot vd a g ty => Sys2Proof.Machine.execVnot vd a g ty s
  | .vshl vd a b g ty => Sys2Proof.Machine.execVshl vd a b g ty s
  | .vshr vd a b g ty => Sys2Proof.Machine.execVshr vd a b g ty s
  | .vsha vd a b g ty => Sys2Proof.Machine.execVsha vd a b g ty s
  | .vimin vd a b g ty => Sys2Proof.Machine.execVimin vd a b g ty s
  | .vimax vd a b g ty => Sys2Proof.Machine.execVimax vd a b g ty s
  | .viabs vd a sat g ty => Sys2Proof.Machine.execViabs vd a sat g ty s
  | .vcmp pd a b cond z g ty => Sys2Proof.Machine.execVcmp pd a b cond z g ty s
  | .vicmp pd a b cond z g ty => Sys2Proof.Machine.execVicmp pd a b cond z g ty s
  | .pand pd pa pb g ty => Sys2Proof.Machine.execPand pd pa pb g ty s
  | .por pd pa pb g ty => Sys2Proof.Machine.execPor pd pa pb g ty s
  | .pxor pd pa pb g ty => Sys2Proof.Machine.execPxor pd pa pb g ty s
  | .pnot pd pa g ty => Sys2Proof.Machine.execPnot pd pa g ty s
  | .pmov pd pa g ty => Sys2Proof.Machine.execPmov pd pa g ty s
  | .psetImm pd n g ty => Sys2Proof.Machine.execPsetImm pd n g ty s
  | .psetReg pd sa g ty => Sys2Proof.Machine.execPsetReg pd sa g ty s
  | .pcnt sd pa g ty => Sys2Proof.Machine.execPcnt sd pa g ty s
  | .pfst sd pa g ty => Sys2Proof.Machine.execPfst sd pa g ty s
  | .vmov vd a g ty => Sys2Proof.Machine.execVmov vd a g ty s
  | .vsel vd pc a b g ty => Sys2Proof.Machine.execVsel vd pc a b g ty s
  | .vbcstScalar vd sa g ty => Sys2Proof.Machine.execVbcstScalar vd sa g ty s
  | .vbcstLane vd a sb g ty => Sys2Proof.Machine.execVbcstLane vd a sb g ty s
  | .vbcstImm vd imm g ty => Sys2Proof.Machine.execVbcstImm vd imm g ty s
  | .vextImm sd a idx ty => Sys2Proof.Machine.execVextImm sd a idx ty s
  | .vextReg sd a si ty => Sys2Proof.Machine.execVextReg sd a si ty s
  | .vinsImm vd sa idx ty => Sys2Proof.Machine.execVinsImm vd sa idx ty s
  | .vinsReg vd sa si ty => Sys2Proof.Machine.execVinsReg vd sa si ty s
  | .vshuf vd a ix g ty => Sys2Proof.Machine.execVshuf vd a ix g ty s
  | .vshufTwo vd a ix c g ty => Sys2Proof.Machine.execVshufTwo vd a ix c g ty s
  | .vslideImm vd a b n g ty => Sys2Proof.Machine.execVslideImm vd a b n g ty s
  | .vslideReg vd a b sc g ty => Sys2Proof.Machine.execVslideReg vd a b sc g ty s
  | .vcmpr vd a g ty => Sys2Proof.Machine.execVcmpr vd a g ty s
  | .vred vd a op g ty => Sys2Proof.Machine.execVred vd a op g ty s
  | .vscan vd a op g ty => Sys2Proof.Machine.execVscan vd a op g ty s
  | .vcvt vd a g td ts part sat => Sys2Proof.Machine.execVcvt vd a g td ts part sat s
  | .vqmx vd a te sS part => Sys2Proof.Machine.execVqmx vd a te sS part s
  | .vdqmx vd a te sS part => Sys2Proof.Machine.execVdqmx vd a te sS part s
  | .vrnd vd a mode g ty => Sys2Proof.Machine.execVrnd vd a mode g ty s
  | .vdelt vd a b sc slot g ty => Sys2Proof.Machine.execVdelt vd a b sc slot g ty s
  | .mma q e => Sys2Proof.Machine.execMma q e s
  | .mmad q e => Sys2Proof.Machine.execMmad q e s
  | .mzero q row rowsm1 lh wt sg ss slk => Sys2Proof.Machine.execMzero q row rowsm1 lh wt sg ss slk s
  | .mepi q e => Sys2Proof.Machine.execMepi q e s
  | .ovpop sd => Sys2Proof.Machine.execOvpop sd s
  | .wload q e => Sys2Proof.Machine.execWload q e s
  | .txfer e => Sys2Proof.Machine.execTxfer e s
  | .tfill e => Sys2Proof.Machine.execTfill e s
  | .tdrain e => Sys2Proof.Machine.execTdrain e s
  | .tmcast e => Sys2Proof.Machine.execTmcast e s
  | .tlook sd sa => Sys2Proof.Machine.execTlook sd sa s
  | .tclaimAuto sd sa => Sys2Proof.Machine.execTclaimAuto sd sa s
  | .tclaimNamed sd sa slot => Sys2Proof.Machine.execTclaimNamed sd sa slot s
  | .tfreeNamed slot => Sys2Proof.Machine.execTfreeNamed slot s
  | .tfreeReg sa => Sys2Proof.Machine.execTfreeReg sa s
  | .tstatNamed sd slot => Sys2Proof.Machine.execTstatNamed sd slot s
  | .tstatReg sd sa => Sys2Proof.Machine.execTstatReg sd sa s
  | .sigImm sem amt => Sys2Proof.Machine.execSigImm sem amt s
  | .sigReg sem sa => Sys2Proof.Machine.execSigReg sem sa s
  | .swait sem amt => Sys2Proof.Machine.execSwait sem amt s
  | .semrSem sd sem => Sys2Proof.Machine.execSemrSem sd sem s
  | .semrOvf sd => Sys2Proof.Machine.execSemrOvf sd s
  | .semrEnt sd sa q word => Sys2Proof.Machine.execSemrEnt sd sa q word s
  | .semrCfg sd q => Sys2Proof.Machine.execSemrCfg sd q s
  | .eqflushD q => Sys2Proof.Machine.execEqflushD q s
  | .eqflushR q sb => Sys2Proof.Machine.execEqflushR q sb s
  | .qpush sd sa ab sc wait sem => Sys2Proof.Machine.execQpush sd sa ab sc wait sem s
  | .qpushA sd sa ab sc wait sem => Sys2Proof.Machine.execQpushA sd sa ab sc wait sem s
  | .qpop sd sa ab sc wait sem => Sys2Proof.Machine.execQpop sd sa ab sc wait sem s
  | .qstat sd sa field => Sys2Proof.Machine.execQstat sd sa field s
  | .bari bid lw lh cnt => Sys2Proof.Machine.execBari bid lw lh cnt s
  | .bara sd bid lw lh sem scp => Sys2Proof.Machine.execBara sd bid lw lh sem scp s
  | .barw sd bid lw lh sa sem scp => Sys2Proof.Machine.execBarw sd bid lw lh sa sem scp s
  | .launch sd ab sem => Sys2Proof.Machine.execLaunch sd ab sem s
  | .nsend sa slot sem => Sys2Proof.Machine.execNsend sa slot sem s
  | .npost sa slot nm1 sem => Sys2Proof.Machine.execNpost sa slot nm1 sem s
  | .nstatE sd => Sys2Proof.Machine.execNstatE sd s
  | .nstatT sd => Sys2Proof.Machine.execNstatT sd s
  | .nstatI sd sa => Sys2Proof.Machine.execNstatI sd sa s
  | .nstatA sd sa => Sys2Proof.Machine.execNstatA sd sa s
  | .coll sd ab sem lw lh => Sys2Proof.Machine.execColl sd ab sem lw lh s
  | .mrgn level sem => Sys2Proof.Machine.execMrgn level sem s
  | .minj unit sa cnt gap => Sys2Proof.Machine.execMinj unit sa cnt gap s
  | .minjOff => Sys2Proof.Machine.execMinjOff s
  | .issueAttempt core err => Sys2Proof.Machine.execIssueAttempt core err s
  | .stepgap core => Sys2Proof.Machine.execStepgap core s
  | .asyncCauseTake core => Sys2Proof.Machine.execAsyncCauseTake core s
  | .seatSwitch core => Sys2Proof.Machine.execSeatSwitch core s
  | .resultLanding core seat idx sus ans => Sys2Proof.Machine.execResultLanding core seat idx sus ans s
  | .errorResponse core seat idx err => Sys2Proof.Machine.execErrorResponse core seat idx err s
  | .loadMissFill fill => Sys2Proof.Machine.execLoadMissFill fill s
  | .billetWrite core seat billet => Sys2Proof.Machine.execBilletWrite core seat billet s
  | .billetRelease core seat => Sys2Proof.Machine.execBilletRelease core seat s
  | .seatWakeDone core seat => Sys2Proof.Machine.execSeatWakeDone core seat s
  | .checkpointSaveDone core seat => Sys2Proof.Machine.execCheckpointSaveDone core seat s
  | .designate core nxt nv => Sys2Proof.Machine.execDesignate core nxt nv s
  | .prqKill core seat => Sys2Proof.Machine.execPrqKill core seat s
  | .prqCheckpoint core seat => Sys2Proof.Machine.execPrqCheckpoint core seat s
  | .prqDrain core seat => Sys2Proof.Machine.execPrqDrain core seat s
  | .forcedKill core seat => Sys2Proof.Machine.execForcedKill core seat s
  | .ckptRequestTimeout core seat => Sys2Proof.Machine.execCkptRequestTimeout core seat s
  | .rowPowerWrite core val => Sys2Proof.Machine.execRowPowerWrite core val s
  | .debugRowRead core row => Sys2Proof.Machine.execDebugRowRead core row s
  | .debugRowWrite core row data tags => Sys2Proof.Machine.execDebugRowWrite core row data tags s
  | .pacingOpen core q idx => Sys2Proof.Machine.execPacingOpen core q idx s
  | .waitTokenConsume core q idx => Sys2Proof.Machine.execWaitTokenConsume core q idx s
  | .stampGateOpen core q idx => Sys2Proof.Machine.execStampGateOpen core q idx s
  | .unitChoice core q => Sys2Proof.Machine.execUnitChoice core q s
  | .leaveGrant die col => Sys2Proof.Machine.execLeaveGrant die col s
  | .paramBlockReadDone core q ent => Sys2Proof.Machine.execParamBlockReadDone core q ent s
  | .mmaStep core q idx => Sys2Proof.Machine.execMmaStep core q idx s
  | .mmadStep core q idx => Sys2Proof.Machine.execMmadStep core q idx s
  | .mepiStep core q idx => Sys2Proof.Machine.execMepiStep core q idx s
  | .mzeroStep core q idx => Sys2Proof.Machine.execMzeroStep core q idx s
  | .wloadStep core q idx => Sys2Proof.Machine.execWloadStep core q idx s
  | .txferStep core idx => Sys2Proof.Machine.execTxferStep core idx s
  | .tfillStep core idx => Sys2Proof.Machine.execTfillStep core idx s
  | .tdrainStep core idx => Sys2Proof.Machine.execTdrainStep core idx s
  | .tmcastStep core idx => Sys2Proof.Machine.execTmcastStep core idx s
  | .stepEnd core q ent => Sys2Proof.Machine.execStepEnd core q ent s
  | .stampMiss core q idx => Sys2Proof.Machine.execStampMiss core q idx s
  | .lateWriteFailure core q idx step addr link => Sys2Proof.Machine.execLateWriteFailure core q idx step addr link s
  | .queueGrant core => Sys2Proof.Machine.execQueueGrant core s
  | .packetPublish die qnum => Sys2Proof.Machine.execPacketPublish die qnum s
  | .qwaitExpiry core => Sys2Proof.Machine.execQwaitExpiry core s
  | .barrierArrival die clu idx err => Sys2Proof.Machine.execBarrierArrival die clu idx err s
  | .barrierWaitRequest die clu msg => Sys2Proof.Machine.execBarrierWaitRequest die clu msg s
  | .cnt die clu head core seq func asn dest unit cls => Sys2Proof.Machine.execCnt die clu head core seq func asn dest unit cls s
  | .floor die clu head core seq val => Sys2Proof.Machine.execFloor die clu head core seq val s
  | .requal die clu head core seq => Sys2Proof.Machine.execRequal die clu head core seq s
  | .budget die clu head core seq col lb => Sys2Proof.Machine.execBudget die clu head core seq col lb s
  | .inval die clu head core seq va size flags func asn => Sys2Proof.Machine.execInval die clu head core seq va size flags func asn s
  | .invalComplete die clu => Sys2Proof.Machine.execInvalComplete die clu s
  | .stewardUnknownType die clu head core seq type => Sys2Proof.Machine.execStewardUnknownType die clu head core seq type s
  | .stewardWatchdog die clu => Sys2Proof.Machine.execStewardWatchdog die clu s
  | .windowEnd core => Sys2Proof.Machine.execWindowEnd core s
  | .lateVerdict core => Sys2Proof.Machine.execLateVerdict core s
  | .engineLateVerdict core q => Sys2Proof.Machine.execEngineLateVerdict core q s
  | .persistenceLimit core unit => Sys2Proof.Machine.execPersistenceLimit core unit s
  | .guardSettled die col => Sys2Proof.Machine.execGuardSettled die col s
  | .injection core => Sys2Proof.Machine.execInjection core s
  | .droopDetect die col => Sys2Proof.Machine.execDroopDetect die col s
  | .droopHoldEnd die col => Sys2Proof.Machine.execDroopHoldEnd die col s
  | .rteUpdate core seat => Sys2Proof.Machine.execRteUpdate core seat s
  | .launchReadDone read => Sys2Proof.Machine.execLaunchReadDone read s
  | .instanceRelease die inst => Sys2Proof.Machine.execInstanceRelease die inst s
  | .bind die inst => Sys2Proof.Machine.execBind die inst s
  | .cutStart die inst => Sys2Proof.Machine.execCutStart die inst s
  | .cutReport core seat => Sys2Proof.Machine.execCutReport core seat s
  | .cutTimeout die inst => Sys2Proof.Machine.execCutTimeout die inst s
  | .instanceComplete die inst => Sys2Proof.Machine.execInstanceComplete die inst s
  | .instanceRetire die inst => Sys2Proof.Machine.execInstanceRetire die inst s
  | .shareWindowEnd core => Sys2Proof.Machine.execShareWindowEnd core s
  | .dispatchConfigWrite die val => Sys2Proof.Machine.execDispatchConfigWrite die val s
  | .messageIngress die mode key payload arr => Sys2Proof.Machine.execMessageIngress die mode key payload arr s
  | .messageLanded die entry => Sys2Proof.Machine.execMessageLanded die entry s
  | .egressDone core seat idx stamp => Sys2Proof.Machine.execEgressDone core seat idx stamp s
  | .timebaseUpdate base cyc rate lock offs => Sys2Proof.Machine.execTimebaseUpdate base cyc rate lock offs s
  | .powerCheck watts => Sys2Proof.Machine.execPowerCheck watts s
  | .fabricClockHop safe => Sys2Proof.Machine.execFabricClockHop safe s
  | .mirrorCommit die inst => Sys2Proof.Machine.execMirrorCommit die inst s
  | .mirrorHeaderWrite die inst => Sys2Proof.Machine.execMirrorHeaderWrite die inst s
  | .heartbeatSend die => Sys2Proof.Machine.execHeartbeatSend die s
  | .heartbeatTick die => Sys2Proof.Machine.execHeartbeatTick die s
  | .relayFailure die => Sys2Proof.Machine.execRelayFailure die s
  | .hbmSlot die pch arr cor unc => Sys2Proof.Machine.execHbmSlot die pch arr cor unc s
  | .slotMapApply die => Sys2Proof.Machine.execSlotMapApply die s
  | .pageWalkDone core seat func asn va acc => Sys2Proof.Machine.execPageWalkDone core seat func asn va acc s
  | .keyLoad func key bypass material secured => Sys2Proof.Machine.execKeyLoad func key bypass material secured s
  | .keyRetire key => Sys2Proof.Machine.execKeyRetire key s
  | .keyRetireDone key => Sys2Proof.Machine.execKeyRetireDone key s
  | .alloc func target kind lo hi => Sys2Proof.Machine.execAlloc func target kind lo hi s
  | .release func target kind lo hi => Sys2Proof.Machine.execRelease func target kind lo hi s
  | .qcfg func die qnum base lrsz push pdev pop mirror => Sys2Proof.Machine.execQcfg func die qnum base lrsz push pdev pop mirror s
  | .steer func die entry w0 => Sys2Proof.Machine.execSteer func die entry w0 s
  | .egress func die eix port mode session ip job pid => Sys2Proof.Machine.execEgress func die eix port mode session ip job pid s
  | .sess func session prim stateva statelen shadowva shadow => Sys2Proof.Machine.execSess func session prim stateva statelen shadowva shadow s
  | .install func rslot dmask cmask image tab => Sys2Proof.Machine.execInstall func rslot dmask cmask image tab s
  | .remove func rslot => Sys2Proof.Machine.execRemove func rslot s
  | .asroot func asn root => Sys2Proof.Machine.execAsroot func asn root s
  | .cwm func die cls ways => Sys2Proof.Machine.execCwm func die cls ways s
  | .smap func die map => Sys2Proof.Machine.execSmap func die map s
  | .mailboxUnknownType func type => Sys2Proof.Machine.execMailboxUnknownType func type s
  | .cwmApply die => Sys2Proof.Machine.execCwmApply die s
  | .porterDoorbell func q tail => Sys2Proof.Machine.execPorterDoorbell func q tail s
  | .queueEnable func q => Sys2Proof.Machine.execQueueEnable func q s
  | .porterNop func pq => Sys2Proof.Machine.execPorterNop func pq s
  | .porterLaunch func pq => Sys2Proof.Machine.execPorterLaunch func pq s
  | .launchRes func pq => Sys2Proof.Machine.execLaunchRes func pq s
  | .waitmem func pq => Sys2Proof.Machine.execWaitmem func pq s
  | .waitmemSatisfied func q pkt => Sys2Proof.Machine.execWaitmemSatisfied func q pkt s
  | .waitmemTimeout func q pkt => Sys2Proof.Machine.execWaitmemTimeout func q pkt s
  | .signal func pq => Sys2Proof.Machine.execSignal func pq s
  | .pred func pq => Sys2Proof.Machine.execPred func pq s
  | .rearm func pq => Sys2Proof.Machine.execRearm func pq s
  | .rearmIteration func pq => Sys2Proof.Machine.execRearmIteration func pq s
  | .tstamp func pq => Sys2Proof.Machine.execTstamp func pq s
  | .intr func pq => Sys2Proof.Machine.execIntr func pq s
  | .porterFence func pq => Sys2Proof.Machine.execPorterFence func pq s
  | .resume func pq => Sys2Proof.Machine.execResume func pq s
  | .malformedPacket func pq => Sys2Proof.Machine.execMalformedPacket func pq s
  | .packetComplete func q pkt => Sys2Proof.Machine.execPacketComplete func q pkt s
  | .intrTimeout func vec => Sys2Proof.Machine.execIntrTimeout func vec s
  | .msixUnmask func vec => Sys2Proof.Machine.execMsixUnmask func vec s
  | .coalesceWrite func vec val => Sys2Proof.Machine.execCoalesceWrite func vec val s
  | .hostBar2Read func off len => Sys2Proof.Machine.execHostBar2Read func off len s
  | .hostBar2Write func off data => Sys2Proof.Machine.execHostBar2Write func off data s
  | .hostAtomic func off op sz x y => Sys2Proof.Machine.execHostAtomic func off op sz x y s
  | .pcieCompletionTimeout core seat idx => Sys2Proof.Machine.execPcieCompletionTimeout core seat idx s
  | .stopInterface func => Sys2Proof.Machine.execStopInterface func s
  | .lockInterface func => Sys2Proof.Machine.execLockInterface func s
  | .startInterface func => Sys2Proof.Machine.execStartInterface func s
  | .spdmRequest func req => Sys2Proof.Machine.execSpdmRequest func req s
  | .powerOnReset boot => Sys2Proof.Machine.execPowerOnReset boot s
  | .supplyLossWarning => Sys2Proof.Machine.execSupplyLossWarning s
  | .linkTrain link partner => Sys2Proof.Machine.execLinkTrain link partner s
  | .flitReceive link flit => Sys2Proof.Machine.execFlitReceive link flit s
  | .reassemblyTimeout link cls => Sys2Proof.Machine.execReassemblyTimeout link cls s
  | .linkDown link => Sys2Proof.Machine.execLinkDown link s
  | .routeRecompute link => Sys2Proof.Machine.execRouteRecompute link s
  | .starvation link cls => Sys2Proof.Machine.execStarvation link cls s
  | .suspensionWrite link val => Sys2Proof.Machine.execSuspensionWrite link val s
  | .fabricAccess src addr op data pois => Sys2Proof.Machine.execFabricAccess src addr op data pois s
  | .transactionTimeout core seat idx => Sys2Proof.Machine.execTransactionTimeout core seat idx s
  | .remotePushArrival die src func qnum ack origin pay => Sys2Proof.Machine.execRemotePushArrival die src func qnum ack origin pay s
  | .collComplete func key m rank far => Sys2Proof.Machine.execCollComplete func key m rank far s
  | .collTimeout func key m => Sys2Proof.Machine.execCollTimeout func key m s
  | .registerWrite reg val => Sys2Proof.Machine.execRegisterWrite reg val s
  | .barrierInit die clu msg => Sys2Proof.Machine.execBarrierInit die clu msg s
  | .flitSlot link arr cred => Sys2Proof.Machine.execFlitSlot link arr cred s
  | .portDown die port back => Sys2Proof.Machine.execPortDown die port back s

end Sys2Proof.Machine
end

