-- ==== Sys2Proof/Machine/Place.lean ====
section
/-!
DEFINITION. How a bundle comes to stand where the machine fetches next, outside any run (log 10): a strand bound to a seat,
translation for its function, and the bundle in memory.
-/
namespace Sys2Proof.Machine

/-- Memory with a little-endian number of n bytes at an address. -/
def putNat (m : Tab Byte) (a n v : Nat) : Tab Byte :=
  (leBytes n v).foldl (fun (p : Tab Byte × Nat) b => (p.1.wr p.2 b, p.2 + 1)) (m, a) |>.1

/-- A billet of a supervisor strand whose window is the whole register file, with every entry of the queues (R166). -/
def placeBillet : Billet :=
  BitVec.ofNat 512 (1 + 2 + 32 * 2 ^ 16 + 16 * 2 ^ 24 + 16 * 2 ^ 32 + 32 * 2 ^ 40 + 0xFFF * 2 ^ 48)

/-- The machine with seat 0 of core 0 issuing at virtual address 0 of function 0, whose page 0x5000 holds the bits of a
bundle, numbered from bit 0 of its first byte (log 10). -/
def place (s : State) (w : Nat) : State :=
  let mem := putNat s.mem 0x1000 8 0x2001
  let mem := putNat mem 0x2000 8 0x3001
  let mem := putNat mem 0x3000 8 0x4001
  let mem := putNat mem 0x4000 8 0x513F
  let mem := putNat mem 0x5000 32 w
  let s := { s with mem := mem, pois := [], keyed := [], agenda := [], focus := 0, latch := none }
  let s := s.modFunc 0 fun f =>
    { f with roots := f.roots.put 0 0x1000, grants := ⟨.hbm, 0, 0x7FFFFFFFFF⟩ :: f.grants }
  let s := s.modPkg fun p => { p with keys := p.keys.put 0 ⟨2, 0⟩ }
  s.setCore 0 { CoreSt.reset with seat := [(0, { SeatSt.reset with st := .issuing, billet := placeBillet, plv := true })] }

end Sys2Proof.Machine
end

