-- ==== Sys2Proof/Machine/Step.lean ====
section
/-!
DEFINITION. One step of the machine, and the placing of a bundle where the next step fetches it.
-/
namespace Sys2Proof.Machine

/-- One step: the next event of the agenda, else the focus core's ck (log 1). -/
def step (s : State) : Host.Outcome State Fault Refusal := stepWith exec s

/-- The state with a bundle placed where the next step fetches and runs it (log 10). -/
def State.withFetchWord (s : State) (nbits w : Nat) : State := place s (w % 2 ^ nbits)

end Sys2Proof.Machine
end

