-- ==== Sys2Proof/Safety.lean ====
section
/-!
DEFINITION. What claims about the machine speak of: the invariant of its data, a state from which it goes on, and the ways in which
the attempt of an instruction ends.
-/
namespace Sys2Proof.Machine

/-- The data of the machine are in their canonical form: memory lists no byte that reads 0, and its addresses rise. -/
def State.inv (s : State) : Bool := Memory.wf s.mem

/-- A state from which the next step answers a next state. -/
def State.goesOn (s : State) : Prop := ∃ t, step s = .next t

/-- The attempt of `i` in `s` takes the instruction's own effect: every cause and hold is absent, and the machine goes on in
`t` (R36). -/
def Effects (i : Instr) (s t : State) : Prop := exec i s = .next { t with last := .issued }

/-- The same for an instruction whose effect sets the pc itself. -/
def EffectsMoved (i : Instr) (s t : State) : Prop := exec i s = .next { t with last := .moved }

/-- The attempt of `i` raises one precise cause and takes it (R151, R154, R157). -/
def Raises (i : Instr) (e : At) (p : PCause) : Prop := exec i e.s = .next (e.s.takePrecise e.c e.k p)

/-- The bundle of `i` is held, and the state is left as it was but for that note (R36). -/
def Holds (i : Instr) (s : State) : Prop := exec i s = .next { s with last := .held }

/-- The state in which a V-syllable instruction of base bound `lat` has written its active lanes: lane k takes value and tag
`f k` (R57, R111). -/
def At.writes (e : At) (lat : Nat) (vd : VReg) (src : List VSrc) (g : Guard) (ty : Ty) (f : Nat → Nat × Bool) : State :=
  e.put (lat + raise src) vd ty.width (lanesOf ty (e.active g) f)

/-- A memory operand whose base register is not poisoned and whose modifier, if it has one, holds a legal value (R99, R100). -/
def MemOp.Legal (m : MemOp) : Prop := m.tag = false ∧ m.amod = []

/-- Node (l, j) of the reduction tree over lanes: lane j at level 0, and above it the combination of nodes 2j and 2j + 1 of the level
below, an empty node giving way to the other (R127). -/
def treeNode {α : Type} (f : α → α → α) (leaf : Nat → Node α) : Nat → Nat → Node α
  | 0, j => leaf j
  | l + 1, j => comb f (treeNode f leaf l (2 * j)) (treeNode f leaf l (2 * j + 1))

/-- The combination of the lanes below n, from whole nodes of the tree from the left, d being its highest level (R128). -/
def scanNode {α : Type} (f : α → α → α) (leaf : Nat → Node α) (d n : Nat) : Node α :=
  ((List.range (d + 1)).reverse.foldl (fun (p : Node α × Nat) l =>
    if n.testBit l then (comb f p.1 (treeNode f leaf l (p.2 / 2 ^ l)), p.2 + 2 ^ l) else p) (none, 0)).1

end Sys2Proof.Machine
end

