-- ==== Sys2Proof/Certificates/Slice0/Obligations.lean ====
section
/-!
DEFINITION. The statements about the machine that are to be proved.
-/

open Sys2Proof Sys2Proof.Machine

/-! ### The S syllable -/

/-- ADD to BFI write the results of R78 to sD within their bounds, each with the OR of the tags of the sources that it reads;
nothing else of the machine changes.

CLZ, CTZ, POPC, SEL, BFX and BFI write the results of R78 and R80: the counts say which bits of sA are clear or set, and a bit
field runs from pos to pos + len - 1. -/
def Obligations.ScalarResults : Prop :=
  (
    ∀ (e : At) (sd sa sb : SReg) (a b : Word) (ta tb : Bool), e.s.cur = some (e.c, e.k) →
      e.sGet sa = (a, ta) → e.sGet sb = (b, tb) →
      Effects (.add sd sa sb) e.s (e.fly 1 (.s sd (a + b) (ta || tb)))
      ∧ Effects (.sub sd sa sb) e.s (e.fly 1 (.s sd (a - b) (ta || tb)))
      ∧ Effects (.mul sd sa sb) e.s (e.fly 3 (.s sd (a * b) (ta || tb)))
      ∧ Effects (.mulh sd sa sb) e.s (e.fly 3 (.s sd (BitVec.ofInt 64 (a.toInt * b.toInt / 2 ^ 64)) (ta || tb)))
      ∧ Effects (.mulhn sd sa sb) e.s (e.fly 3 (.s sd (BitVec.ofNat 64 (a.toNat * b.toNat / 2 ^ 64)) (ta || tb)))
      ∧ Effects (.and sd sa sb) e.s (e.fly 1 (.s sd (a &&& b) (ta || tb)))
      ∧ Effects (.or sd sa sb) e.s (e.fly 1 (.s sd (a ||| b) (ta || tb)))
      ∧ Effects (.xor sd sa sb) e.s (e.fly 1 (.s sd (a ^^^ b) (ta || tb)))
      ∧ Effects (.andn sd sa sb) e.s (e.fly 1 (.s sd (a &&& ~~~ b) (ta || tb)))
      ∧ Effects (.shl sd sa sb) e.s (e.fly 1 (.s sd (a <<< (b.toNat % 64)) (ta || tb)))
      ∧ Effects (.shr sd sa sb) e.s (e.fly 1 (.s sd (a >>> (b.toNat % 64)) (ta || tb)))
      ∧ Effects (.sha sd sa sb) e.s (e.fly 1 (.s sd (a.sshiftRight (b.toNat % 64)) (ta || tb)))
      ∧ Effects (.rot sd sa sb) e.s (e.fly 1 (.s sd (a.rotateLeft (b.toNat % 64)) (ta || tb)))
      ∧ Effects (.min sd sa sb) e.s (e.fly 1 (.s sd (if a.toInt ≤ b.toInt then a else b) (ta || tb)))
      ∧ Effects (.max sd sa sb) e.s (e.fly 1 (.s sd (if a.toInt ≤ b.toInt then b else a) (ta || tb)))
      ∧ Effects (.minn sd sa sb) e.s (e.fly 1 (.s sd (if a.toNat ≤ b.toNat then a else b) (ta || tb)))
      ∧ Effects (.maxn sd sa sb) e.s (e.fly 1 (.s sd (if a.toNat ≤ b.toNat then b else a) (ta || tb)))
      ∧ Effects (.seq sd sa sb) e.s (e.fly 1 (.s sd (if a = b then 1 else 0) (ta || tb)))
      ∧ Effects (.sne sd sa sb) e.s (e.fly 1 (.s sd (if a = b then 0 else 1) (ta || tb)))
      ∧ Effects (.slt sd sa sb) e.s (e.fly 1 (.s sd (if a.toInt < b.toInt then 1 else 0) (ta || tb)))
      ∧ Effects (.sltn sd sa sb) e.s (e.fly 1 (.s sd (if a.toNat < b.toNat then 1 else 0) (ta || tb))))
  ∧ (
    ∀ (e : At) (sd sa sb sc : SReg) (pos lenm1 : Bits6) (a d : Word) (ta td : Bool), e.s.cur = some (e.c, e.k) →
      e.sGet sa = (a, ta) → e.sGet sd = (d, td) →
      (∃ n : Nat, n ≤ 64 ∧ (∀ i, 64 - n ≤ i → a.getLsbD i = false) ∧ (n < 64 → a.getLsbD (63 - n) = true)
        ∧ Effects (.clz sd sa) e.s (e.fly 1 (.s sd (BitVec.ofNat 64 n) ta)))
      ∧ (∃ n : Nat, n ≤ 64 ∧ (∀ i, i < n → a.getLsbD i = false) ∧ (n < 64 → a.getLsbD n = true)
        ∧ Effects (.ctz sd sa) e.s (e.fly 1 (.s sd (BitVec.ofNat 64 n) ta)))
      ∧ Effects (.popc sd sa) e.s
          (e.fly 1 (.s sd (BitVec.ofNat 64 ((List.range 64).countP fun i => a.getLsbD i)) ta))
      ∧ Effects (.sel sd sc sa sb) e.s
          (e.fly 1 (.s sd (if (e.sGet sc).1 = 0 then (e.sGet sb).1 else a)
            ((e.sGet sc).2 || (if (e.sGet sc).1 = 0 then (e.sGet sb).2 else ta))))
      ∧ (pos.toNat + lenm1.toNat ≤ 63 →
        Effects (.bfx sd sa pos lenm1) e.s
          (e.fly 1 (.s sd (BitVec.ofNat 64 (a.toNat / 2 ^ pos.toNat % 2 ^ (lenm1.toNat + 1))) ta))
        ∧ ∃ r : Word, (∀ i, i < 64 → r.getLsbD i =
              if pos.toNat ≤ i ∧ i ≤ pos.toNat + lenm1.toNat then a.getLsbD (i - pos.toNat) else d.getLsbD i)
            ∧ Effects (.bfi sd sa pos lenm1) e.s (e.fly 1 (.s sd r (td || ta)))))

/-- No division raises a fault: a zero divisor gives all ones from DIV and DIVN and sA from REM and REMN, and otherwise the signed
quotient is truncated toward zero and the remainder has the sign of sA (R78, R79). -/
def Obligations.DivisionResults : Prop :=
  ∀ (e : At) (sd sa sb : SReg) (a b : Word) (ta tb : Bool), e.s.cur = some (e.c, e.k) →
    e.sGet sa = (a, ta) → e.sGet sb = (b, tb) →
    Effects (.div sd sa sb) e.s (e.fly 20 (.s sd
      (if b = 0 then 0xFFFFFFFFFFFFFFFF
       else if a = 0x8000000000000000 ∧ b = 0xFFFFFFFFFFFFFFFF then 0x8000000000000000
       else BitVec.ofInt 64 (a.toInt.tdiv b.toInt)) (ta || tb)))
    ∧ Effects (.divn sd sa sb) e.s (e.fly 20 (.s sd
      (if b = 0 then 0xFFFFFFFFFFFFFFFF else BitVec.ofNat 64 (a.toNat / b.toNat)) (ta || tb)))
    ∧ Effects (.rem sd sa sb) e.s (e.fly 20 (.s sd
      (if b = 0 then a
       else if a = 0x8000000000000000 ∧ b = 0xFFFFFFFFFFFFFFFF then 0
       else BitVec.ofInt 64 (a.toInt.tmod b.toInt)) (ta || tb)))
    ∧ Effects (.remn sd sa sb) e.s (e.fly 20 (.s sd
      (if b = 0 then a else BitVec.ofNat 64 (a.toNat % b.toNat)) (ta || tb)))

/-- The immediate forms write the results of R81 within one issue cycle: the immediate is sign-extended, LI clears the tag, and
LIH replaces bits 63:32 of sD and keeps the rest with its tag. -/
def Obligations.ImmediateResults : Prop :=
  ∀ (e : At) (sd sa : SReg) (imm : Imm32) (amt : Bits6) (a d : Word) (ta td : Bool), e.s.cur = some (e.c, e.k) →
    e.sGet sa = (a, ta) → e.sGet sd = (d, td) →
    Effects (.addi sd sa imm) e.s (e.fly 1 (.s sd (a + imm.signExtend 64) ta))
    ∧ Effects (.andi sd sa imm) e.s (e.fly 1 (.s sd (a &&& imm.signExtend 64) ta))
    ∧ Effects (.ori sd sa imm) e.s (e.fly 1 (.s sd (a ||| imm.signExtend 64) ta))
    ∧ Effects (.xori sd sa imm) e.s (e.fly 1 (.s sd (a ^^^ imm.signExtend 64) ta))
    ∧ Effects (.shli sd sa amt) e.s (e.fly 1 (.s sd (a <<< amt.toNat) ta))
    ∧ Effects (.shri sd sa amt) e.s (e.fly 1 (.s sd (a >>> amt.toNat) ta))
    ∧ Effects (.shai sd sa amt) e.s (e.fly 1 (.s sd (a.sshiftRight amt.toNat) ta))
    ∧ Effects (.slti sd sa imm) e.s (e.fly 1 (.s sd (if a.toInt < (imm.signExtend 64).toInt then 1 else 0) ta))
    ∧ Effects (.li sd imm) e.s (e.fly 1 (.s sd (imm.signExtend 64) false))
    ∧ Effects (.lih sd imm) e.s (e.fly 1 (.s sd (imm ++ d.setWidth 32) td))

/-- A branch whose condition holds chooses pc + OFF32 × 32 as the next pc, one whose condition fails changes nothing, BR and JAL
are always taken, and the link of JAL is pc + 32 with its tag clear (R82). The sources of the branches are not poisoned.

JALR goes to sA + simm and links pc + 32 with a clear tag; a poisoned sA raises F_POISON with the code of sA, and otherwise a
target that is no multiple of 32 raises F_ALIGN with the target (R83).

BPANY is taken if some bit of the predicate below the lane count is set, BPALL if all are; BQS is taken where the queue's
quota less the seat's entries is at least sB, and raises F_ILLOP where sA selects no queue (R88, R89, R178). -/
def Obligations.BranchEffects : Prop :=
  (
    ∀ (e : At) (sd sa sb : SReg) (off : Imm32) (a b : Word), e.s.cur = some (e.c, e.k) →
      e.sGet sa = (a, false) → e.sGet sb = (b, false) →
      let target := e.q.pc + off.signExtend 64 * 32
      let taken := e.goto e.s target
      Effects (.br off) e.s taken
      ∧ Effects (.beq sa sb off) e.s (if a = b then taken else e.s)
      ∧ Effects (.bne sa sb off) e.s (if a = b then e.s else taken)
      ∧ Effects (.blt sa sb off) e.s (if a.toInt < b.toInt then taken else e.s)
      ∧ Effects (.bge sa sb off) e.s (if b.toInt ≤ a.toInt then taken else e.s)
      ∧ Effects (.bltn sa sb off) e.s (if a.toNat < b.toNat then taken else e.s)
      ∧ Effects (.bgen sa sb off) e.s (if b.toNat ≤ a.toNat then taken else e.s)
      ∧ Effects (.jal sd off) e.s (e.goto (e.fly 1 (.s sd (e.q.pc + 32) false)) target))
  ∧ (
    ∀ (e : At) (sd sa : SReg) (imm : Imm32) (a : Word) (ta : Bool), e.s.cur = some (e.c, e.k) → e.s.sure = false →
      e.sGet sa = (a, ta) →
      let t := a + imm.signExtend 64
      (ta = true → ∃ r, Raises (.jalr sd sa imm) e ⟨r, 0, fPoison, BitVec.ofNat 64 sa.toNat, none⟩)
      ∧ (ta = false → t.toNat % 32 ≠ 0 → ∃ r, Raises (.jalr sd sa imm) e ⟨r, 0, fAlign, t, none⟩)
      ∧ (ta = false → t.toNat % 32 = 0 →
          Effects (.jalr sd sa imm) e.s (e.goto (e.fly 1 (.s sd (e.q.pc + 32) false)) t)))
  ∧ (
    ∀ (e : At) (pn : PReg) (lt : Bits2) (sa sb : SReg) (off : Imm32) (n b : Word), e.s.cur = some (e.c, e.k) →
      pn.toNat < 12 → e.sGet sa = (n, false) → e.sGet sb = (b, false) → n.toNat ≤ 2 →
      let taken := e.goto e.s (e.q.pc + off.signExtend 64 * 32)
      ((∃ i, i < 128 * 2 ^ lt.toNat ∧ (e.pGet pn).getLsbD i = true) → Effects (.bpany pn lt off) e.s taken)
      ∧ ((∀ i, i < 128 * 2 ^ lt.toNat → (e.pGet pn).getLsbD i = false) → Effects (.bpany pn lt off) e.s e.s)
      ∧ ((∀ i, i < 128 * 2 ^ lt.toNat → (e.pGet pn).getLsbD i = true) → Effects (.bpall pn lt off) e.s taken)
      ∧ ((∃ i, i < 128 * 2 ^ lt.toNat ∧ (e.pGet pn).getLsbD i = false) → Effects (.bpall pn lt off) e.s e.s)
      ∧ Effects (.bqs sa sb off) e.s
          (if b.toNat ≤ quota e.q.billet n.toNat - inUse (e.x.queue n.toNat) e.k then taken else e.s))
  ∧ (
    ∀ (e : At) (sa sb : SReg) (off : Imm32), e.s.cur = some (e.c, e.k) → e.s.sure = false →
      (e.sGet sa).2 = false → (e.sGet sb).2 = false → 2 < (e.sGet sa).1.toNat →
      ∃ r, Raises (.bqs sa sb off) e ⟨r, 0, fIllop, 0x3D00, none⟩)

/-- LOOP sets ls to pc + 32, le to pc + 32 × END and lc to its count, and goes past the body where the count is 0; LCLOSE lowers
the rotation bases modulo 64 and 8, and LCLOSE.x also clears lc and goes to le + 32 (R85, R87). -/
def Obligations.LoopEffects : Prop :=
  ∀ (e : At) (sa : SReg) (cnt dist : Bits20) (vstep : Bits6) (pstep : Bits3) (a : Word), e.s.cur = some (e.c, e.k) →
    dist ≠ 0 → e.sGet sa = (a, false) →
    let le := e.q.pc + BitVec.ofNat 64 (32 * dist.toNat)
    let loop (n : BitVec 32) : State := e.s.modSeat e.c e.k fun q =>
      { q with ls := e.q.pc + 32, le := le, lc := n, npc := if n = 0 then some (le + 32) else q.npc }
    Effects (.loopImm cnt dist) e.s (loop (cnt.setWidth 32))
    ∧ Effects (.loopReg sa dist) e.s (loop (a.setWidth 32))
    ∧ Effects (.lclose vstep pstep) e.s (e.s.modSeat e.c e.k fun q =>
        { q with vrb := q.vrb - vstep, prb := q.prb - pstep })
    ∧ Effects (.lcloseX vstep pstep) e.s (e.s.modSeat e.c e.k fun q =>
        { q with vrb := q.vrb - vstep, prb := q.prb - pstep, lc := 0, npc := some (e.q.le + 32) })

/-- TRAP: with ACT clear its bundle takes effect, back-edge included, and the seat enters its handler: epc is the next bundle's
address, tval the code, the loop state, the rotation bases and the tags are saved, the tags with the results in flight landed, the
tags and lc cleared, the level supervisor, and pc is tvec (R90, R154, R155).

ERET at supervisor level restores pc, the loop state, the rotation bases, the tags and the level from the trap registers, and
clears ACT; at user level it raises F_PRIV with tval 0 (R91, R156). -/
def Obligations.TrapAndReturnEffects : Prop :=
  (
    ∀ (e : At) (code : Bits26), e.s.cur = some (e.c, e.k) → e.q.act = false → e.q.npc = none →
      ∃ t, EffectsMoved (.trap code) e.s t
        ∧ let q := t.seat e.c e.k
          let edge := e.q.lc ≠ 0 ∧ e.q.pc = e.q.le
          let lc := if edge then e.q.lc - 1 else e.q.lc
          let landed := (e.x.landAll e.k).seatAt e.k
          q.tpsn = BitVec.ofNat 64 (landed.sTag.toNat / 2 * 2 + landed.aTag.toNat * 2 ^ 32)
          ∧ q.trot = BitVec.ofNat 64 (e.q.vrb.toNat + e.q.prb.toNat * 256)
          ∧ q.epc = (if edge then (if lc = 0 then e.q.le + 32 else e.q.ls) else e.q.pc + 32)
          ∧ q.tlc = lc ∧ q.lc = 0 ∧ q.tls = e.q.ls ∧ q.tle = e.q.le ∧ q.ls = e.q.ls ∧ q.le = e.q.le
          ∧ q.tval = code.setWidth 64 ∧ q.pc = e.q.tvec ∧ q.plv = true
          ∧ q.tcause = BitVec.ofNat 64 (0x0107 + 7 * 2 ^ 20 + e.q.plv.toNat * 2 ^ 24 + 2 ^ 25)
          ∧ q.sTag = 0 ∧ q.aTag = 0 ∧ q.vrb = e.q.vrb ∧ q.prb = e.q.prb ∧ q.fcr = e.q.fcr ∧ q.stepNo = e.q.stepNo
          ∧ t.mem = e.s.mem)
  ∧ (
    ∀ (e : At), e.s.cur = some (e.c, e.k) →
      (e.q.plv = true → EffectsMoved .eret e.s (e.s.modSeat e.c e.k fun q =>
        { q with
          pc := q.epc, lc := q.tlc, ls := q.tls &&& ~~~31, le := q.tle &&& ~~~31, vrb := q.trot.extractLsb' 0 6,
          prb := q.trot.extractLsb' 8 3, sTag := (q.tpsn &&& 0xFFFFFFFE).setWidth 32, aTag := q.tpsn.extractLsb' 32 16,
          plv := q.tcause.getLsbD 24, tcause := q.tcause &&& ~~~0x2000000 }))
      ∧ (e.q.plv = false → e.s.sure = false → ∃ r, Raises .eret e ⟨r, 0, fPriv, 0, none⟩))

/-- CRR writes the register's value to sD with a clear tag within two issue cycles. CRW writes a register that may be written with
its reserved bits dropped and leaves a read-only one as it is, at supervisor level for the registers marked so and at any level
for the others (R26, R29, R92).

A supervisor-only instruction attempted at user level raises F_PRIV with tval 0, takes no effect in memory, and the handler is
entered at supervisor level at tvec with PPLV 0 and epc the bundle's own address (R92, R154, R155, R158). -/
def Obligations.ControlRegisterEffects : Prop :=
  (
    ∀ (e : At) (sd sa : SReg) (cr : Bits12) (imm : Bits26) (x : Word), e.s.cur = some (e.c, e.k) →
      crAssigned cr.toNat = true → sa ≠ 0 → e.sGet sa = (x, false) → (crSup cr.toNat = true → e.q.plv = true) →
      Effects (.crr sd cr) e.s (e.fly 2 (.s sd (e.s.crRead e.c e.k cr.toNat) false))
      ∧ Effects (.crwReg cr sa) e.s (e.s.modSeat e.c e.k fun q => q.crWrite cr.toNat x)
      ∧ Effects (.crwImm cr imm) e.s (e.s.modSeat e.c e.k fun q => q.crWrite cr.toNat (imm.setWidth 64))
      ∧ (cr = 0x010 → ((e.s.modSeat e.c e.k fun q => q.crWrite cr.toNat x).seat e.c e.k).lc = x.setWidth 32)
      ∧ (cr = 0x004 → ((e.s.modSeat e.c e.k fun q => q.crWrite cr.toNat x).seat e.c e.k).epc = x &&& ~~~31)
      ∧ (cr = 0x013 → ((e.s.modSeat e.c e.k fun q => q.crWrite cr.toNat x).seat e.c e.k).vrb = x.setWidth 6)
      ∧ (0x020 ≤ cr.toNat → cr.toNat ≠ 0x084 → e.q.crWrite cr.toNat x = e.q))
  ∧ (
    ∀ (e : At) (i : Instr), e.s.cur = some (e.c, e.k) → e.s.sure = false → e.q.plv = false → e.q.act = false →
      i.wf = true → supOnly i = true →
      ∃ t, exec i e.s = .next t ∧ t.mem = e.s.mem
        ∧ (t.seat e.c e.k).epc = e.q.pc ∧ (t.seat e.c e.k).pc = e.q.tvec ∧ (t.seat e.c e.k).plv = true
        ∧ (t.seat e.c e.k).tval = 0
        ∧ (t.seat e.c e.k).tcause = BitVec.ofNat 64 (0x0102 + sylOf i * 2 ^ 20 + 2 ^ 25))

/-- STEP sets the step number from its immediate or from bits 31:0 of sA; TRIG, where no earlier access of the strand has still to be
performed, marks the strand's trigger at once and its instance's when it crosses the boundary, two ck after it issued (R248); NOP changes
nothing; ENDS, once the seat has no queue entry and no result outstanding, leaves the seat ENDED and the core at a switch point (R38, R93,
R94, R95, R248). -/
def Obligations.StrandProgressEffects : Prop :=
  ∀ (e : At) (n : Bits26) (sa : SReg) (x : Word), e.s.cur = some (e.c, e.k) → sa ≠ 0 → e.sGet sa = (x, false) →
    Effects .nop e.s e.s
    ∧ Effects (.stepImm n) e.s (e.s.modSeat e.c e.k fun q => { q with stepNo := n.setWidth 32 })
    ∧ Effects (.stepReg sa) e.s (e.s.modSeat e.c e.k fun q => { q with stepNo := x.setWidth 32 })
    ∧ (∃ t, Effects .trig e.s t ∧ t.mem = e.s.mem ∧ ((∀ r ∈ e.q.vres, r.isOpen = false) → (t.seat e.c e.k).trig = true
        ∧ ∃ h, t.held = e.s.held ++ [(e.s.cyc + 2, h)]
          ∧ ∀ u i, (State.die u (coreDie e.c)).insts.find (bInst e.q.billet) = some i →
            ∃ j, ((u.pass h).die (coreDie e.c)).insts.find (bInst e.q.billet) = some j ∧ e.q.sidx ∈ j.trig))
    ∧ (e.q.vres = [] → (∀ n, n < 3 → ∀ p ∈ e.x.queue n, p.2.seat ≠ e.k) →
        ∃ t, EffectsMoved .ends e.s t ∧ (t.seat e.c e.k).st = .ended ∧ (t.core e.c).swp = true ∧ t.mem = e.s.mem)

/-- A fence whose set of outstanding accesses is empty issues: it changes no register and no memory, and at .cl or wider it leaves no
dirty
line of a UO page in the core's L1D where it orders stores, and no clean one where it orders loads; otherwise its bundle is held.
CHK of a register without a tag changes nothing; of a poisoned one it raises F_CHK with the register's code (R96, R97, R287, R293).

PREF never faults, and changes no register but its base: with a poisoned base or an illegal modifier it does
nothing at all, and otherwise it post-increments the base (R99, R104). -/
def Obligations.FenceCheckPrefetchEffects : Prop :=
  (
    ∀ (e : At) (scp : Scope) (sa : SReg) (aa : AReg) (v : VReg), e.s.cur = some (e.c, e.k) → e.s.sure = false →
      let loads := ∃ r ∈ e.q.vres, r.kind.isLoad = true
      let stores := ∃ r ∈ e.q.vres, r.kind.isStore = true
      let passes (i : Instr) (ld st : Bool) : Prop := ∃ t, Effects i e.s t ∧ t.mem = e.s.mem
        ∧ (∃ r, t.seat e.c e.k = { e.q with recent := r })
        ∧ (2 ≤ scp.code.toNat → ∀ p ∈ (t.core e.c).l1, p.2.uo = true →
            (st = true → p.2.dirty = false) ∧ (ld = true → p.2.dirty = true))
      (¬ loads → ¬ stores → passes (.fence scp) true true) ∧ (loads ∨ stores → Holds (.fence scp) e.s)
      ∧ (¬ loads → passes (.fenceR scp) true false) ∧ (loads → Holds (.fenceR scp) e.s)
      ∧ (¬ stores → passes (.fenceW scp) false true) ∧ (stores → Holds (.fenceW scp) e.s)
      ∧ ((e.sGet sa).2 = false → Effects (.chkS sa) e.s e.s)
      ∧ ((e.sGet sa).2 = true → ∃ r, Raises (.chkS sa) e ⟨r, 0, fChk, BitVec.ofNat 64 sa.toNat, none⟩)
      ∧ ((e.aGet aa).2 = false → Effects (.chkA aa) e.s e.s)
      ∧ ((e.aGet aa).2 = true → ∃ r, Raises (.chkA aa) e ⟨r, 0, fChk, BitVec.ofNat 64 (aa.toNat + 2 ^ 8), none⟩)
      ∧ (e.q.winRow v < bW e.q.billet → (e.vGet v).t = 0 → Effects (.chkV v) e.s e.s)
      ∧ (e.q.winRow v < bW e.q.billet → (e.vGet v).t ≠ 0 →
          ∃ r, Raises (.chkV v) e ⟨r, 0, fChk, BitVec.ofNat 64 (v.toNat + 2 * 2 ^ 8 + (e.vGet v).t.toNat * 2 ^ 32), none⟩))
  ∧ (
    ∀ (e : At) (l2 : Bool) (mem : AMem), e.s.cur = some (e.c, e.k) → (Instr.pref l2 mem).wf = true →
      let m := e.amem mem
      (¬ m.Legal → Effects (.pref l2 mem) e.s e.s)
      ∧ (m.Legal → ∃ u, Effects (.pref l2 mem) e.s (e.postInc m u) ∧ u.mem = e.s.mem ∧ u.seat e.c e.k = e.q))

/-! ### The A syllable -/

/-- The address-register instructions write the results of R98 within one issue cycle: sums wrap and carry the tags of their
sources, moves carry the tag, a modifier is read without a tag, and AMODS of a poisoned sB raises F_POISON with its code. -/
def Obligations.AddressResults : Prop :=
  ∀ (e : At) (ad aa : AReg) (md : MReg) (sb : SReg) (imm : Imm32) (a b : Word) (ta tb : Bool), e.s.cur = some (e.c, e.k) →
    e.s.sure = false → e.aGet aa = (a, ta) → e.sGet sb = (b, tb) →
    Effects (.aadd ad aa sb) e.s (e.fly 1 (.a ad (a + b) (ta || tb)))
    ∧ Effects (.aaddi ad aa imm) e.s (e.fly 1 (.a ad (a + imm.signExtend 64) ta))
    ∧ Effects (.amov ad sb) e.s (e.fly 1 (.a ad b tb))
    ∧ Effects (.agetA sb aa) e.s (e.fly 1 (.s sb a ta))
    ∧ Effects (.agetM sb md) e.s (e.fly 1 (.s sb (e.mGet md) false))
    ∧ (tb = false → Effects (.amods md sb) e.s (e.fly 1 (.m md (b &&& ~~~0xC))))
    ∧ (tb = true → ∃ r, Raises (.amods md sb) e ⟨r, 1, fPoison, BitVec.ofNat 64 sb.toNat, none⟩)

/-- LD and LDA complete for every legal encoding (R39) at a base that is not poisoned, with a legal modifier, where the bytes are
granted (R102), LDA's address is naturally aligned (R101), and no access of the strand has still to be performed (R284, R285). What
lies on this device is read at once; what another device or the host holds comes in the answer for which the core has frozen. The
bytes are widened, with sign where SX is set, the tag being set where one is poisoned. Without a token the result is in flight with
bound 6; with one it is outstanding and will increment the token, and is not ready while an answer is owed. The base is
post-incremented, and no byte of memory changes. Without a token and without the answer the bundle is held and the core freezes; an
answer that is an error response raises F_BUS with the address (R59, R99, R100, R102, R104, R408). -/
def Obligations.ScalarLoadEffects : Prop :=
  ∀ (e : At) (rt : SReg) (mem : AMem) (sz : Bits2) (sx : Bool) (scp : Scope) (wt : SemR) (l : List Seg),
    let m := e.amem mem
    let n := 2 ^ sz.toNat
    let got (a : FarAns) : Word × Bool :=
      let b := e.s.gather { Vres.none with key := sz.toNat } (offsets l 0) a
      let d := leNat (b.map Prod.fst)
      (if sx then (BitVec.ofNat (8 * n) d).signExtend 64 else (BitVec.ofNat (8 * n) d).setWidth 64, b.any Prod.snd)
    e.s.cur = some (e.c, e.k) → m.Legal → e.span .read m.ea n = .ok l → (∀ r ∈ e.q.vres, r.isOpen = false) →
    let reads (i : Instr) : Prop :=
      (wt = 0 → ∀ a, (isFar l = false ∧ e.x.fill = none ∧ a = FarAns.none ∨ e.answer = some a ∧ a.err = none) →
        ∃ t, Effects i e.s t ∧ t.mem = e.s.mem
          ∧ t.seat e.c e.k = (e.postInc m (e.flyOn e.s 6 (.s rt (got a).1 (got a).2))).seat e.c e.k)
      ∧ (wt ≠ 0 → ∃ t v, Effects i e.s t ∧ t.mem = e.s.mem ∧ t.seat e.c e.k = (e.postInc m (e.vresOn e.s v)).seat e.c e.k
          ∧ v.kind = .load ∧ v.sem = wt ∧ v.dest = (if rt = 0 then .none else .s rt) ∧ v.ready = !isFar l ∧ v.remote = isFar l
          ∧ (isFar l = false → v.data = (got FarAns.none).1.setWidth 8192 ∧ v.tags = if (got FarAns.none).2 then 1 else 0))
      ∧ (wt = 0 → e.s.sure = false → isFar l = true → e.x.fill = none → ∃ t : State, exec i e.s = .next { t with last := .held }
          ∧ t.mem = e.s.mem ∧ t.seat e.c e.k = e.q ∧ (t.core e.c).freeze = true
          ∧ (t.core e.c).fill = some ⟨e.k, e.q.pc, none, some none⟩)
      ∧ (wt = 0 → e.s.sure = false → ∀ a, e.answer = some a → a.err = some .bus →
          ∃ r f, Raises i e ⟨r, 1, fBus, BitVec.ofNat 64 (vaOf m.ea), f⟩)
    ((Instr.ld rt mem sz sx wt).wf = true → reads (.ld rt mem sz sx wt))
    ∧ ((Instr.lda rt mem sz sx scp wt).wf = true → m.ea.toNat % n = 0 → reads (.lda rt mem sz sx scp wt))

/-- LDS completes for every legal encoding (R39) with a legal modifier, whatever the address. It reads and widens as LD does where nothing
forbids the access; where its bytes are not granted, lie on an SO page in part, its base is poisoned, or an answer is an error
response, it gives 0 with its tag set, and nothing traps; an access that failed in another way than by an error response gives the same
and leaves its cause pending, as LD does with a token. The base is post-incremented either way. The accesses of the strand have been
performed, and with no token what the load reads lies on this device or has been answered (R59, R99, R104, R160, R164). -/
def Obligations.SpeculativeLoadEffects : Prop :=
  ∀ (e : At) (rt : SReg) (mem : AMem) (sz : Bits2) (sx : Bool),
    let m := e.amem mem
    let n := 2 ^ sz.toNat
    e.s.cur = some (e.c, e.k) → m.amod = [] → (Instr.lds rt mem sz sx 0).wf = true →
    (∀ l a, e.span .read m.ea n = .ok l → m.tag = false → (∀ g ∈ l, g.xl.kind ≠ 1) → (∀ r ∈ e.q.vres, r.isOpen = false) →
      (isFar l = false ∧ e.x.fill = none ∧ a = FarAns.none ∨ e.answer = some a) →
      let v0 := scalarRes .lds rt true 0 m.ea e.s.cyc (sz.toNat + if sx then 4 else 0)
      let b := e.s.gather v0 (offsets l 0) a
      let d := leNat (b.map Prod.fst)
      let v : Word := if sx then (BitVec.ofNat (8 * n) d).signExtend 64 else (BitVec.ofNat (8 * n) d).setWidth 64
      let w : Write := if a.err.isSome then .s rt 0 true else .s rt v (b.any Prod.snd)
      let s := match v0.cause a with
        | some p => (e.flyOn e.s 6 w).pendCause e.c e.k ⟨p.1, 4, 0, p.2, 0⟩
        | none => e.flyOn e.s 6 w
      ∃ t, Effects (.lds rt mem sz sx 0) e.s t ∧ t.mem = e.s.mem ∧ t.seat e.c e.k = (e.postInc m s).seat e.c e.k)
    ∧ ((m.tag = true ∨ (∃ f, e.span .read m.ea n = .bad f)
          ∨ (∃ l, e.span .read m.ea n = .ok l ∧ ∃ g ∈ l, g.xl.kind = 1)) →
      Effects (.lds rt mem sz sx 0) e.s (e.postInc m (e.flyOn e.s 6 (.s rt 0 true))))
    ∧ (∀ wt, wt ≠ 0 → ∃ t v, Effects (.lds rt mem sz sx wt) e.s t ∧ t.mem = e.s.mem
        ∧ t.seat e.c e.k = (e.postInc m (e.vresOn e.s v)).seat e.c e.k ∧ v.kind = .lds ∧ v.sem = wt)

/-- LDA, STL, AMO and AMOCAS at an address that is not naturally aligned raise F_ALIGN with that address; a poisoned base raises
F_POISON with the code of aB, and before either a modifier of an illegal value raises F_AMOD with its number. Nothing else is wrong
with the access (R99, R100, R101, R108, R159).

An access without a token that fails translation, permission or a key raises F_PAGE, F_PERM or F_KEY, with the lowest faulting
address, and is recorded; a load that a table or a target refuses raises F_BUS with the address of the access; no part of it is
performed (R102). -/
def Obligations.AccessTraps : Prop :=
  (
    ∀ (e : At) (rt sb : SReg) (mem : AMem) (ab : AReg) (sz : Bits2) (sx w64 : Bool) (op : Aop) (ord : Bits2) (scp : Scope)
      (wt : SemR),
      let m := e.amem mem
      let base := (e.aGet ab).1
      let n := if w64 then 8 else 4
      e.s.cur = some (e.c, e.k) → e.s.sure = false → (e.sGet rt).2 = false → (e.sGet sb).2 = false →
      (Instr.amo rt ab sb op w64 scp ord wt).wf = true → (Instr.amocas rt ab sb w64 scp ord wt).wf = true →
      (∀ mm, m.pi = some (mm, none) →
        ∃ r, Raises (.lda rt mem sz sx scp wt) e ⟨r, 1, fAmod, BitVec.ofNat 64 mm.toNat, none⟩
          ∧ Raises (.stl rt mem sz scp wt) e ⟨r, 1, fAmod, BitVec.ofNat 64 mm.toNat, none⟩)
      ∧ (m.amod = [] → m.tag = true →
        ∃ r, Raises (.lda rt mem sz sx scp wt) e ⟨r, 1, fPoison, BitVec.ofNat 64 (m.ab.toNat + 2 ^ 8), none⟩
          ∧ Raises (.stl rt mem sz scp wt) e ⟨r, 1, fPoison, BitVec.ofNat 64 (m.ab.toNat + 2 ^ 8), none⟩)
      ∧ ((e.aGet ab).2 = true →
        ∃ r, Raises (.amo rt ab sb op w64 scp ord wt) e ⟨r, 1, fPoison, BitVec.ofNat 64 (ab.toNat + 2 ^ 8), none⟩
          ∧ Raises (.amocas rt ab sb w64 scp ord wt) e ⟨r, 1, fPoison, BitVec.ofNat 64 (ab.toNat + 2 ^ 8), none⟩)
      ∧ (m.Legal → m.ea.toNat % 2 ^ sz.toNat ≠ 0 →
        ∃ r, Raises (.lda rt mem sz sx scp wt) e ⟨r, 1, fAlign, m.ea, none⟩
          ∧ Raises (.stl rt mem sz scp wt) e ⟨r, 1, fAlign, m.ea, none⟩)
      ∧ ((e.aGet ab).2 = false → base.toNat % n ≠ 0 →
        ∃ r, Raises (.amo rt ab sb op w64 scp ord wt) e ⟨r, 1, fAlign, base, none⟩
          ∧ Raises (.amocas rt ab sb w64 scp ord wt) e ⟨r, 1, fAlign, base, none⟩))
  ∧ (
    ∀ (e : At) (rt : SReg) (mem : AMem) (sz : Bits2) (sx : Bool) (f : XFault),
      let m := e.amem mem
      e.s.cur = some (e.c, e.k) → e.s.sure = false → m.Legal →
      ((Instr.ld rt mem sz sx 0).wf = true → e.span .read m.ea (2 ^ sz.toNat) = .bad f →
        ∃ r, Raises (.ld rt mem sz sx 0) e ⟨r, 1, f.code, BitVec.ofNat 64 (if f.code = fBus then vaOf m.ea else f.va), some f⟩)
      ∧ ((Instr.st rt mem sz 0).wf = true → (e.sGet rt).2 = false → f.code ≠ fBus → e.span .write m.ea (2 ^ sz.toNat) = .bad f →
        ∃ r, Raises (.st rt mem sz 0) e ⟨r, 1, f.code, BitVec.ofNat 64 f.va, some f⟩))

/-- ST and STL complete for every legal encoding (R39) at a base that is not poisoned and with data that is not, with a legal modifier,
where the bytes are granted (R102), STL's address is naturally aligned (R101), and no access of the strand has still to be
performed (R284, R285, R290). The low bytes of sT are written little-endian at the address that the operand forms, and the base is
post-incremented. With a token, or where a part lies on another device, a result is outstanding that will increment the token, and
that is not ready while a part is owed (R100, R101, R104, R408).

What the store does to memory: a byte stored inside one page of this device reads as stored. Every byte of a 64-byte granule that
holds no stored byte reads as before under every key, and every other byte that is not stored reads as before under the key of the
store; the bytes stored are those of the translated operand and no others (R5, R104, R374). -/
def Obligations.ScalarStoreEffects : Prop :=
  ∀ (e : At) (rt : SReg) (mem : AMem) (sz : Bits2) (scp : Scope) (wt : SemR) (x : Word) (l : List Seg),
    let m := e.amem mem
    let n := 2 ^ sz.toNat
    e.s.cur = some (e.c, e.k) → m.Legal → e.sGet rt = (x, false) → e.span .write m.ea n = .ok l →
    (∀ r ∈ e.q.vres, r.isOpen = false) →
    let stores (i : Instr) : Prop := ∃ t v recent, Effects i e.s t
      ∧ t.seat e.c e.k = { (e.postInc m (if wt = 0 ∧ remote l = false then e.s else e.vresOn e.s v)).seat e.c e.k with recent }
      ∧ v.kind = .store ∧ v.sem = wt ∧ v.dest = .none ∧ v.ready = !remote l ∧ v.remote = remote l
      ∧ (∀ g, l = [g] → isFab g.xl.pa = false → ∀ j, j < n →
          t.rdB g.xl.kid (g.xl.pa + j) = BitVec.ofNat 8 (x.toNat / 256 ^ j))
      ∧ (∀ a kid, (∀ g ∈ l, ∀ j, j < g.len → granOf (g.xl.pa + j) ≠ granOf a) → t.rdB kid a = e.s.rdB kid a)
      ∧ (∀ a kid, (∀ g ∈ l, g.xl.kid = kid ∧ (a < g.xl.pa ∨ g.xl.pa + g.len ≤ a)) → t.rdB kid a = e.s.rdB kid a)
    ((Instr.st rt mem sz wt).wf = true → stores (.st rt mem sz wt))
    ∧ ((Instr.stl rt mem sz scp wt).wf = true → m.ea.toNat % n = 0 → stores (.stl rt mem sz scp wt))

/-- VLD, VLDS and VST complete for every legal encoding (R39) whose row lies in the window (R25), at a base that is not poisoned, with a
legal modifier and an address that is a multiple of 32 (R101), where the bytes that active lanes touch are granted (R102) and lie on
this device, and no access of the strand has still to be performed (R284, R285). A load writes the bytes of the active lanes and
no others, with the tag of each sector in which an active byte is poisoned; VLDS gives 0, tags set, for what is not granted or lies on
an SO page, and for the whole row at a poisoned base or an address that is no multiple of 32. A store writes the bytes of the active
lanes of vT, none of which is poisoned, and no others. Without a token a load is in flight with bound 8, and with one its result is
outstanding; the base is post-incremented (R99, R101, R105, R160). -/
def Obligations.VectorLoadStoreEffects : Prop :=
  ∀ (e : At) (vt : VReg) (mem : VMem) (g : Guard) (ty : Ty) (wt : SemR),
    e.s.cur = some (e.c, e.k) →
    let ok (i : Instr) : Prop := i.wf = true ∧ ∀ r ∈ vregsOf i, e.q.winRow r < bW e.q.billet
    let m := e.vmem mem
    let touched (i : Nat) : Bool := e.active g (8 * i / ty.width)
    let phys := e.q.phys (e.q.winRow vt)
    let rp := e.parts .read m.ea touched
    let sp := e.parts .write m.ea touched
    let row (w : Write) (b : List (Byte × Bool)) : Prop := ∃ mask full tags,
      w = .row phys mask (BitVec.ofNat 8192 (leNat (b.map Prod.fst))) full tags
      ∧ (∀ i, i < 8192 → mask.getLsbD i = touched (i / 8))
      ∧ ∀ j, j < 32 → (full.getLsbD j = true ↔ ∀ i, i < 32 → touched (32 * j + i) = true)
          ∧ (tags.getLsbD j = true ↔ ∃ i, i < 32 ∧ touched (32 * j + i) = true ∧ (b.getD (32 * j + i) (0, false)).2 = true)
    let reads (i : Instr) (b : List (Byte × Bool)) : Prop :=
      (wt = 0 → ∃ t w, Effects i e.s t ∧ t.mem = e.s.mem ∧ row w b
        ∧ t.seat e.c e.k = (e.postInc m (e.flyRow e.s 8 vt w [])).seat e.c e.k)
      ∧ (wt ≠ 0 → ∃ t v w, Effects i e.s t ∧ t.mem = e.s.mem ∧ row w b ∧ v.write = some w ∧ v.sem = wt ∧ v.ready = true
        ∧ (t.seat e.c e.k).vres = ((e.postInc m (e.vresOn e.s v)).seat e.c e.k).vres)
    (∀ r ∈ e.q.vres, r.isOpen = false) → m.amod = [] →
    (isFar ((runParts rp touched).map Prod.snd) = false → e.x.fill = none →
      (m.tag = false → m.ea.toNat % 32 = 0 → firstBad touched rp = none → ok (.vld vt mem g ty wt) →
        reads (.vld vt mem g ty wt) (e.s.gather { Vres.none with key := 8 } (runParts rp touched) FarAns.none))
      ∧ (ok (.vlds vt mem g ty wt) →
        let some? (p : Part) : Bool := match p.xl? with
          | some x => x.kind != 1
          | none => false
        let ps := if m.tag = true ∨ m.ea.toNat % 32 ≠ 0 then [] else rp.filter some?
        reads (.vlds vt mem g ty wt)
          (e.s.gather { Vres.none with kind := .lds, key := 8 } (runParts ps touched) FarAns.none)))
    ∧ (m.tag = false → m.ea.toNat % 32 = 0 → firstBad touched sp = none → remote ((runParts sp touched).map Prod.snd) = false →
      (∀ k, k < ty.lanes → e.active g k = true → (e.vGet vt).t.getLsbD (k * ty.width / 256) = false) →
      ok (.vst vt mem g ty wt) →
      ∃ t v recent, Effects (.vst vt mem g ty wt) e.s t
        ∧ t.seat e.c e.k = { (e.postInc m (if wt = 0 then e.s else e.vresOn e.s v)).seat e.c e.k with recent }
        ∧ v.kind = .store ∧ v.sem = wt ∧ v.ready = true
        ∧ (∀ p x, sp = [p] → p.xl? = some x → ∀ i, i < p.len → touched (p.off + i) = true →
            t.rdB x.kid (x.pa + i) = BitVec.ofNat 8 ((e.vGet vt).d.toNat / 256 ^ (p.off + i)))
        ∧ ∀ a kid, (∀ y ∈ (runParts sp touched).map Prod.snd, ∀ i, i < y.len → granOf (y.xl.pa + i) ≠ granOf a) →
            t.rdB kid a = e.s.rdB kid a)

/-- VGTH and VSCT complete for every legal encoding (R39) whose rows lie in the window (R25), at a base that is not poisoned, with a
legal modifier, where no active lane's index is poisoned, every active lane's address is a multiple of the element's size (R101) and
granted (R102), on this device, and no access of the strand has still to be performed. A gather writes into each active lane the
element at ea + index × size, with bound 12 where it has no token; a scatter writes the elements there in rising lane order, none of
them poisoned (R99, R101, R105). -/
def Obligations.GatherScatterEffects : Prop :=
  ∀ (e : At) (vt : VReg) (mem : VMem) (vi : VReg) (g : Guard) (ty : Ty) (wt : SemR),
    e.s.cur = some (e.c, e.k) →
    let ok (i : Instr) : Prop := i.wf = true ∧ ∀ r ∈ vregsOf i, e.q.winRow r < bW e.q.billet
    let m := e.vmem mem
    let act := e.active g
    let rl := e.lanes .read m.ea vi ty act
    let wl := e.lanes .write m.ea vi ty act
    let phys := e.q.phys (e.q.winRow vt)
    m.Legal → e.idxPois vi ty act = [] → (∀ r ∈ e.q.vres, r.isOpen = false) →
    (laneAlign ty rl = [] → laneBad rl = none → isFar ((laneParts ty rl).map Prod.snd) = false → e.x.fill = none →
      ok (.vgth vt mem vi g ty wt) →
      let b := e.s.gather { Vres.none with key := 8 } (laneParts ty rl) FarAns.none
      let row (w : Write) : Prop := ∃ mask full tags, w = .row phys mask (BitVec.ofNat 8192 (leNat (b.map Prod.fst))) full tags
        ∧ ∀ i, i < 8192 → mask.getLsbD i = act (8 * (i / 8) / ty.width)
      (wt = 0 → ∃ t w, Effects (.vgth vt mem vi g ty wt) e.s t ∧ t.mem = e.s.mem ∧ row w
        ∧ t.seat e.c e.k = (e.postInc m (e.flyRow e.s 12 vt w [])).seat e.c e.k)
      ∧ (wt ≠ 0 → ∃ t v w, Effects (.vgth vt mem vi g ty wt) e.s t ∧ t.mem = e.s.mem ∧ row w ∧ v.write = some w ∧ v.sem = wt
        ∧ v.ready = true ∧ (t.seat e.c e.k).vres = ((e.postInc m (e.vresOn e.s v)).seat e.c e.k).vres))
    ∧ (laneAlign ty wl = [] → laneBad wl = none → remote (wl.flatMap (Lane.segs ty)) = false → rowPois (e.vGet vt) vt ty act = [] →
      ok (.vsct vt mem vi g ty wt) →
      let el (k : Nat) : Nat := (e.vGet vt).d.toNat / 2 ^ (k * ty.width) % 2 ^ ty.width
      let w := wl.foldl (fun s a => s.wrSegs (a.segs ty) (leBytes (ty.width / 8) (el a.k))) e.s
      ∃ t v recent, Effects (.vsct vt mem vi g ty wt) e.s t ∧ (∀ kid a, t.rdB kid a = w.rdB kid a)
        ∧ t.seat e.c e.k = { (e.postInc m (if wt = 0 then e.s else e.vresOn e.s v)).seat e.c e.k with recent }
        ∧ v.kind = .store ∧ v.sem = wt ∧ v.ready = true)

/-- VFETCH, VTLD and VTST complete for every legal encoding (R39) whose row lies in the window (R25), VTLD and VTST at a READY slot of
the seat, which for VTST is not pinned. VFETCH copies a row with its tags into a prefetch entry. VTLD and VTST move the active lanes
of a row between vT and the slot; they are held while the slot is FILLING or DRAINING, VTST also while it is pinned, and a slot that
is not the seat's, or is EMPTY, raises F_TILE with the slot and the reason (R20, R106, R107). The granary row that VTLD reads is
written by no command of the seat that a header wait has not ordered; otherwise it is undefined (R223). -/
def Obligations.RowMoveEffects : Prop :=
  ∀ (e : At) (pq : PqReg) (vt : VReg) (slot : Slot) (tr : Bits4) (g : Guard) (ty : Ty),
    e.s.cur = some (e.c, e.k) →
    let ok (i : Instr) : Prop := i.wf = true ∧ ∀ r ∈ vregsOf i, e.q.winRow r < bW e.q.billet
    let n := slot.toNat
    let y := e.x.tile n
    let row := 16 * n + tr.toNat
    let mine := y.owner = some e.k
    (ok (.vfetch pq vt) → Effects (.vfetch pq vt) e.s (e.fly 4 (.pq pq (e.vGet vt))))
    ∧ (ok (.vtld vt slot tr g ty) →
      (mine → y.st = .ready → ∃ r, (e.q.engineRow true row = false → r = e.x.granRow row) ∧ Effects (.vtld vt slot tr g ty) e.s
        (e.flyRow e.s 8 vt (copyWrite (e.q.phys (e.q.winRow vt)) ty (e.active g) r) []))
      ∧ (e.s.sure = false → mine → y.st = .filling ∨ y.st = .draining → Holds (.vtld vt slot tr g ty) e.s)
      ∧ (e.s.sure = false → mine → y.st = .empty →
          ∃ r, Raises (.vtld vt slot tr g ty) e ⟨r, 1, fTile, BitVec.ofNat 64 (n + 0x200), none⟩)
      ∧ (e.s.sure = false → y.owner = none →
          ∃ r, Raises (.vtld vt slot tr g ty) e ⟨r, 1, fTile, BitVec.ofNat 64 (n + 0x300), none⟩)
      ∧ (e.s.sure = false → y.owner ≠ none → ¬ mine →
          ∃ r, Raises (.vtld vt slot tr g ty) e ⟨r, 1, fTile, BitVec.ofNat 64 (n + 0x100), none⟩))
    ∧ (ok (.vtst vt slot tr g ty) →
      (mine → y.st = .ready → y.pins = 0 → ∃ m d f t u, copyWrite 0 ty (e.active g) (e.vGet vt) = .row 0 m d f t
        ∧ Effects (.vtst vt slot tr g ty) e.s u ∧ u.mem = e.s.mem ∧ (u.core e.c).vrf = e.x.vrf
        ∧ (∀ r, (u.core e.c).granRow r = if r = row then (e.x.granRow row).merge m d f t else e.x.granRow r)
        ∧ (u.seat e.c e.k).sr = e.q.sr ∧ (u.seat e.c e.k).fly = e.q.fly
        ∧ ∀ j, ((u.core e.c).tile j).st = (e.x.tile j).st ∧ ((u.core e.c).tile j).owner = (e.x.tile j).owner)
      ∧ (e.s.sure = false → mine → y.st = .ready → y.pins ≠ 0 → Holds (.vtst vt slot tr g ty) e.s))

/-- AMO and AMOCAS complete for every legal encoding (R39) at a naturally aligned address of this device's memory (R101), granted (R102),
with no poisoned operand and no access of the strand still to be performed: the old value is outstanding, with its poison, and the
operation's value is written; AMOCAS writes sB only where memory equals the old sT. Where the memory is poisoned nothing is written.
Bytes of other granules keep what they hold (R108). -/
def Obligations.AtomicEffects : Prop :=
  ∀ (e : At) (rt : SReg) (ab : AReg) (sb : SReg) (op : Aop) (w64 : Bool) (scp : Scope) (ord : Bits2) (wt : SemR)
    (ea b : Word) (x : Xl) (n : Nat),
    n = (if w64 then 8 else 4) → e.s.cur = some (e.c, e.k) → e.aGet ab = (ea, false) → e.sGet sb = (b, false) →
    ea.toNat % n = 0 → e.span .atomic ea n = .ok [⟨x, n⟩] → isHost x.pa = false → isFab x.pa = false →
    (∀ r ∈ e.q.vres, r.isOpen = false) →
    let old := leNat (e.s.rdBytes x.kid x.pa n)
    let bad := (granules x.pa n).any e.s.isPois
    let wrote (v : Nat) : State := if bad then e.s else e.s.wrBytes x.kid x.pa (leBytes n v)
    let does (i : Instr) (u : State) : Prop := ∃ t v recent, Effects i e.s t ∧ t.mem = u.mem
      ∧ (∀ kid a, t.rdB kid a = u.rdB kid a)
      ∧ t.seat e.c e.k = { (e.vresOn e.s v).seat e.c e.k with recent }
      ∧ v.kind = .atomic ∧ v.sem = wt ∧ v.dest = (if rt = 0 then .none else .s rt) ∧ v.ready = true
      ∧ v.data = BitVec.ofNat 8192 old ∧ v.tags = if bad || x.por then 1 else 0
    ((Instr.amo rt ab sb op w64 scp ord wt).wf = true →
      does (.amo rt ab sb op w64 scp ord wt) (wrote (aopVal op (8 * n) old b.toNat)))
    ∧ ((Instr.amocas rt ab sb w64 scp ord wt).wf = true → (e.sGet rt).2 = false →
      does (.amocas rt ab sb w64 scp ord wt) (if old = (e.sGet rt).1.toNat % 2 ^ (8 * n) then wrote b.toNat else e.s))
    ∧ (∀ a v kid, (∀ i, i < n → granOf (x.pa + i) ≠ granOf a) → (wrote v).rdB kid a = e.s.rdB kid a)
    ∧ (∀ a v, a < x.pa ∨ x.pa + n ≤ a → (wrote v).rdB x.kid a = e.s.rdB x.kid a)

/-- An atomic at a host address, with scope .sy and the function's atomics enabled, is outstanding until the host performs it, which holds
of AMO with .add and .swap and of AMOCAS; any other operation raises F_HATOM there. One at another device's address, with scope .dm or
wider, is sent to that device. An address outside the scope raises F_BUS with the address, and no request is made (R108, R109, R390,
R423). No operand is poisoned, and no access of the strand has still to be performed. -/
def Obligations.RemoteAtomicEffects : Prop :=
  ∀ (e : At) (rt : SReg) (ab : AReg) (sb : SReg) (op : Aop) (w64 : Bool) (scp : Scope) (ord : Bits2) (wt : SemR)
    (ea b : Word) (x : Xl) (n : Nat),
    n = (if w64 then 8 else 4) → e.s.cur = some (e.c, e.k) → e.s.sure = false → e.aGet ab = (ea, false) →
    e.sGet sb = (b, false) → ea.toNat % n = 0 → e.span .atomic ea n = .ok [⟨x, n⟩] →
    (∀ r ∈ e.q.vres, r.isOpen = false) →
    let waits (i : Instr) (p : State → Vres → Prop) : Prop := ∃ t v recent, Effects i e.s t ∧ t.mem = e.s.mem
      ∧ t.seat e.c e.k = { (e.vresOn e.s v).seat e.c e.k with recent }
      ∧ v.kind = .atomic ∧ v.sem = wt ∧ v.dest = (if rt = 0 then .none else .s rt) ∧ v.remote = true ∧ v.ready = false ∧ p t v
    let hosts (i : Instr) (req : FabOp) : Prop := isHost x.pa = true → (e.s.func e.q.func).aore = true →
      (scp = .sy → waits i fun t v => v.todo = some (.atomic x req) ∧ t.out = e.s.out)
      ∧ (scp ≠ .sy → ∃ r, Raises i e ⟨r, 1, fBus, ea, none⟩)
    let fars (i : Instr) (req : FabOp) : Prop := isFab x.pa = true →
      (scp = .dm ∨ scp = .sy → waits i fun t v => v.todo = none
        ∧ t.out = e.s.out ++ [.request (e.s.fabTarget x.pa).1 (e.s.fabTarget x.pa).2 req [] [] x.who.link])
      ∧ (scp ≠ .dm → scp ≠ .sy → ∃ r, Raises i e ⟨r, 1, fBus, ea, none⟩)
    let amo := Instr.amo rt ab sb op w64 scp ord wt
    let cas := Instr.amocas rt ab sb w64 scp ord wt
    (amo.wf = true →
      (op = .add ∨ op = .swap → hosts amo (.atomic op w64 b))
      ∧ (isHost x.pa = true → op ≠ .add → op ≠ .swap → ∃ r, Raises amo e ⟨r, 1, fHatom, BitVec.ofNat 64 (vaOf ea), none⟩)
      ∧ fars amo (.atomic op w64 b))
    ∧ (cas.wf = true → (e.sGet rt).2 = false →
      hosts cas (.cas w64 (e.sGet rt).1 b) ∧ fars cas (.cas w64 (e.sGet rt).1 b))

/-! ### The V syllable -/

/-- VADD to VFNMA, VDIV and VSQRT: each active lane takes the exact result of its operands rounded once to t under the captured
mode, never stochastically, with the OR of the tags of the elements used; a NaN or an invalid operation gives QNaN(t); the
bounds are 4 and 24 (R113, R116, R117).

VMIN and VMAX give the encoding, after DAZ, of the lesser and the greater element, −0 below +0, and QNaN(t) where either is NaN;
VABS clears, VNEG inverts and VCPS takes from b the sign bit and nothing else (R116). Every one named completes for every legal
encoding (R39) whose v registers lie in the window (R25). -/
def Obligations.FloatResults : Prop :=
  (
    ∀ (e : At) (vd : VReg) (a b c : VSrc) (g : Guard) (ty : Ty),
      e.s.cur = some (e.c, e.k) →
      let ok (i : Instr) : Prop := i.wf = true ∧ ∀ r ∈ vregsOf i, e.q.winRow r < bW e.q.billet
      let w := ty.width
      let x := e.opnd a
      let y := e.opnd b
      let z := e.opnd c
      let rdn : Bool := e.fcr.rm = 3
      let v (o : Opnd) (k : Nat) : Machine.Num := real e.fcr ty (o.el w k)
      let two (i : Instr) (lat : Nat) (f : Machine.Num → Machine.Num → Machine.Num) : Prop := ok i →
        Effects i e.s (e.writes lat vd [a, b] g ty fun k =>
          (roundTo e.fcr ty none (f (v x k) (v y k)), x.tg w k || y.tg w k))
      let three (i : Instr) (f : Machine.Num → Machine.Num → Machine.Num → Machine.Num) : Prop := ok i →
        Effects i e.s (e.writes 4 vd [a, b, c] g ty fun k =>
          (roundTo e.fcr ty none (f (v x k) (v y k) (v z k)), x.tg w k || y.tg w k || z.tg w k))
      two (.vadd vd a b g ty) 4 (fun p q => p.add rdn q)
      ∧ two (.vsub vd a b g ty) 4 (fun p q => p.add rdn q.neg)
      ∧ two (.vmul vd a b g ty) 4 (fun p q => p.mul q)
      ∧ two (.vdiv vd a b g ty) 24 (fun p q => p.div q)
      ∧ three (.vfma vd a b c g ty) (fun p q r => (p.mul q).add rdn r)
      ∧ three (.vfms vd a b c g ty) (fun p q r => (p.mul q).add rdn r.neg)
      ∧ three (.vfnma vd a b c g ty) (fun p q r => r.add rdn (p.mul q).neg)
      ∧ (ok (.vsqrt vd a g ty) → Effects (.vsqrt vd a g ty) e.s (e.writes 24 vd [a] g ty fun k =>
          (roundTo e.fcr ty none (v x k).sqrt, x.tg w k)))
      ∧ (ty.isWide = true → roundTo e.fcr ty none .nan = qnan ty))
  ∧ (
    ∀ (e : At) (vd : VReg) (a b : VSrc) (g : Guard) (ty : Ty),
      e.s.cur = some (e.c, e.k) →
      let ok (i : Instr) : Prop := i.wf = true ∧ ∀ r ∈ vregsOf i, e.q.winRow r < bW e.q.billet
      let w := ty.width
      let x := e.opnd a
      let y := e.opnd b
      let picks (i : Instr) (o : Ordering) : Prop := ok i → ∃ f : Nat → Nat → Nat,
        Effects i e.s (e.writes 4 vd [a, b] g ty fun k => (f (x.el w k) (y.el w k), x.tg w k || y.tg w k))
        ∧ ∀ p q, let u := real e.fcr ty p
            let v := real e.fcr ty q
            (u.isNan = true ∨ v.isNan = true → f p q = qnan ty)
            ∧ (u.cmp v = some o → f p q = dazCode e.fcr ty p)
            ∧ (v.cmp u = some o → f p q = dazCode e.fcr ty q)
            ∧ (u.cmp v = some .eq → f p q = dazCode e.fcr ty p ∨ f p q = dazCode e.fcr ty q)
            ∧ (∀ n m i j, u = .fin n 0 i → v = .fin m 0 j →
                f p q = if (if o = .lt then n || m else n && m) then 2 ^ (w - 1) else 0)
      picks (.vmin vd a b g ty) .lt ∧ picks (.vmax vd a b g ty) .gt
      ∧ (ok (.vabs vd a g ty) → Effects (.vabs vd a g ty) e.s (e.writes 4 vd [a] g ty fun k =>
          (x.el w k % 2 ^ (w - 1), x.tg w k)))
      ∧ (ok (.vneg vd a g ty) → Effects (.vneg vd a g ty) e.s (e.writes 4 vd [a] g ty fun k =>
          (x.el w k ^^^ 2 ^ (w - 1), x.tg w k)))
      ∧ (ok (.vcps vd a b g ty) → Effects (.vcps vd a b g ty) e.s (e.writes 4 vd [a, b] g ty fun k =>
          (x.el w k % 2 ^ (w - 1) + y.el w k / 2 ^ (w - 1) * 2 ^ (w - 1), x.tg w k || y.tg w k))))

/-- The special functions give each active lane a value that depends on the element and on fcr alone, with the element's tag and
bound 10; NaN gives QNaN, and the exact and special cases listed are met at .f32 whatever the rounding mode (R117). Every one named
completes for every legal encoding (R39) whose v registers lie in the window (R25). -/
def Obligations.SpecialFunctionResults : Prop :=
  ∀ (e : At) (vd : VReg) (a : VSrc) (g : Guard) (ty : Ty),
    e.s.cur = some (e.c, e.k) →
    let ok (i : Instr) : Prop := i.wf = true ∧ ∀ r ∈ vregsOf i, e.q.winRow r < bW e.q.billet
    let x := e.opnd a
    let one (i : Instr) (f : Spf) : Prop := ok i →
      Effects i e.s (e.writes 10 vd [a] g ty fun k => (spfAt e.fcr ty f (x.el ty.width k), x.tg ty.width k))
    let at32 (f : Spf) (p r : Nat) : Prop := spfAt e.fcr .f32 f p = r
    one (.vrcp vd a g ty) .rcp ∧ one (.vrsq vd a g ty) .rsq ∧ one (.vex2 vd a g ty) .ex2 ∧ one (.vlg2 vd a g ty) .lg2
    ∧ one (.vtnh vd a g ty) .tnh ∧ one (.vlgs vd a g ty) .lgs ∧ one (.vsin vd a g ty) .sin ∧ one (.vcos vd a g ty) .cos
    ∧ (∀ f p, ty.isWide = true → (real e.fcr ty p).isNan = true → spfAt e.fcr ty f p = qnan ty)
    ∧ at32 .rcp 0x80000000 0xFF800000 ∧ at32 .rcp 0x40000000 0x3F000000 ∧ at32 .rcp 0xFF800000 0x80000000
    ∧ at32 .rsq 0x80000000 0xFF800000 ∧ at32 .rsq 0x40800000 0x3F000000 ∧ at32 .rsq 0xBF800000 0x7FC00000
    ∧ at32 .ex2 0x40400000 0x41000000 ∧ at32 .ex2 0x43000000 0x7F800000 ∧ at32 .ex2 0xFF800000 0
    ∧ at32 .lg2 0x3F800000 0 ∧ at32 .lg2 0x80000000 0xFF800000 ∧ at32 .lg2 0xBF800000 0x7FC00000
    ∧ at32 .tnh 0x80000000 0x80000000 ∧ at32 .tnh 0xC1200000 0xBF800000
    ∧ at32 .lgs 0x80000000 0x3F000000 ∧ at32 .lgs 0xFF800000 0 ∧ at32 .lgs 0x7F800000 0x3F800000
    ∧ at32 .sin 0xBF800000 0x80000000 ∧ at32 .sin 0x3FC00000 0xBF800000 ∧ at32 .sin 0x7F800000 0x7FC00000
    ∧ at32 .cos 0x3F800000 0xBF800000 ∧ at32 .cos 0x3F000000 0 ∧ at32 .cos 0 0x3F800000

/-- Integer lanes: the exact result of R118 modulo 2^w, clamped to the range of t first where SAT is set, with the OR of the tags of
the elements used, in active lanes (R118). Every one named completes for every legal encoding (R39) whose v registers lie in the
window (R25). -/
def Obligations.IntegerLaneResults : Prop :=
  ∀ (e : At) (vd : VReg) (a b c : VSrc) (sat : Bool) (g : Guard) (ty : Ty),
    e.s.cur = some (e.c, e.k) →
    let ok (i : Instr) : Prop := i.wf = true ∧ ∀ r ∈ vregsOf i, e.q.winRow r < bW e.q.billet
    let w := ty.width
    let x := e.opnd a
    let y := e.opnd b
    let z := e.opnd c
    let n (o : Opnd) (k : Nat) : Int := intOf ty (o.el w k)
    let fit (v : Int) : Nat := ((if sat then max (tyLo ty) (min (tyHi ty) v) else v) % 2 ^ w).toNat
    let low (v : Int) : Nat := (v % 2 ^ w).toNat
    let two (i : Instr) (lat : Nat) (f : Nat → Nat) : Prop := ok i →
      Effects i e.s (e.writes lat vd [a, b] g ty fun k => (f k, x.tg w k || y.tg w k))
    let bitw (i : Instr) (f : Nat → Nat → Nat) : Prop := two i 2 (fun k => f (x.el w k) (y.el w k))
    two (.viadd vd a b sat g ty) 2 (fun k => fit (n x k + n y k))
    ∧ two (.visub vd a b sat g ty) 2 (fun k => fit (n x k - n y k))
    ∧ two (.vimul vd a b g ty) 4 (fun k => low (n x k * n y k))
    ∧ two (.vimulh vd a b g ty) 4 (fun k => low (n x k * n y k / 2 ^ w))
    ∧ two (.vimin vd a b g ty) 2 (fun k => low (min (n x k) (n y k)))
    ∧ two (.vimax vd a b g ty) 2 (fun k => low (max (n x k) (n y k)))
    ∧ bitw (.vand vd a b g ty) (fun p q => p &&& q) ∧ bitw (.vor vd a b g ty) (fun p q => p ||| q)
    ∧ bitw (.vxor vd a b g ty) (fun p q => p ^^^ q)
    ∧ bitw (.vshl vd a b g ty) (fun p q => p * 2 ^ (q % w) % 2 ^ w)
    ∧ bitw (.vshr vd a b g ty) (fun p q => p / 2 ^ (q % w))
    ∧ bitw (.vsha vd a b g ty) (fun p q => low ((if 2 ^ (w - 1) ≤ p then (p : Int) - 2 ^ w else p) / 2 ^ (q % w)))
    ∧ (ok (.vimad vd a b c g ty) → Effects (.vimad vd a b c g ty) e.s (e.writes 4 vd [a, b, c] g ty fun k =>
        (low (n x k * n y k + n z k), x.tg w k || y.tg w k || z.tg w k)))
    ∧ (ok (.vnot vd a g ty) → Effects (.vnot vd a g ty) e.s (e.writes 2 vd [a] g ty fun k =>
        (2 ^ w - 1 - x.el w k, x.tg w k)))
    ∧ (ok (.viabs vd a sat g ty) → Effects (.viabs vd a sat g ty) e.s (e.writes 2 vd [a] g ty fun k =>
        (fit (n x k).natAbs, x.tg w k)))

/-- VCMP and VICMP, where no active lane reads a poisoned element, write to each active lane's bit whether the condition holds, leave
or clear the others' with Z, and clear the bits from L on, with bound 4 (R16, R119). Both complete for every legal encoding (R39)
whose v registers lie in the window (R25). -/
def Obligations.CompareResults : Prop :=
  ∀ (e : At) (pd : PReg) (a b : VSrc) (cond : Bits3) (z : Bool) (g : Guard) (ty : Ty),
    e.s.cur = some (e.c, e.k) →
    let ok (i : Instr) : Prop := i.wf = true ∧ ∀ r ∈ vregsOf i, e.q.winRow r < bW e.q.billet
    let w := ty.width
    let x := e.opnd a
    let y := e.opnd b
    let act := e.active g
    let clean := ∀ k, k < ty.lanes → act k = true → x.tg w k = false ∧ y.tg w k = false
    let out (i : Instr) (holds : Nat → Nat → Prop) : Prop := ∃ v : PredBits,
      (∀ k, k < ty.lanes → (v.getLsbD k = true ↔
        if act k = true then holds (x.el w k) (y.el w k) else z = false ∧ (e.pGet pd).getLsbD k = true))
      ∧ (∀ k, ty.lanes ≤ k → v.getLsbD k = false)
      ∧ Effects i e.s (e.pset (4 + raise [a, b]) pd v)
    (ok (.vcmp pd a b cond z g ty) → clean → out (.vcmp pd a b cond z g ty) fun p q =>
      let o := (real e.fcr ty p).cmp (real e.fcr ty q)
      match cond.toNat with
      | 0 => o = some .eq
      | 1 => o ≠ some .eq
      | 2 => o = some .lt
      | 3 => o = some .lt ∨ o = some .eq
      | 4 => o = some .gt
      | 5 => o = some .gt ∨ o = some .eq
      | 6 => o ≠ none
      | _ => o = none)
    ∧ (ok (.vicmp pd a b cond z g ty) → clean → out (.vicmp pd a b cond z g ty) fun p q =>
      match cond.toNat with
      | 0 => intOf ty p = intOf ty q
      | 1 => intOf ty p ≠ intOf ty q
      | 2 => intOf ty p < intOf ty q
      | 3 => intOf ty p ≤ intOf ty q
      | 4 => intOf ty q < intOf ty p
      | _ => intOf ty q ≤ intOf ty p)

/-- PAND to PSET write each active lane's bit, keep an inactive lane's and clear the bits from L on; PCNT and PFST write the number
of active set lanes and the lowest one, or L, with a clear tag (R120, R121). Every one named completes for every legal encoding
(R39) whose v registers lie in the window (R25). -/
def Obligations.PredicateResults : Prop :=
  ∀ (e : At) (pd pa pb : PReg) (sd sa : SReg) (n : Bits11) (g : Guard) (ty : Ty),
    e.s.cur = some (e.c, e.k) →
    let ok (i : Instr) : Prop := i.wf = true ∧ ∀ r ∈ vregsOf i, e.q.winRow r < bW e.q.billet
    let act := e.active g
    let out (i : Instr) (bit : Nat → Bool) : Prop := ok i → ∃ v : PredBits,
      (∀ k, k < ty.lanes → v.getLsbD k = if act k then bit k else (e.pGet pd).getLsbD k)
      ∧ (∀ k, ty.lanes ≤ k → v.getLsbD k = false)
      ∧ Effects i e.s (e.pset 2 pd v)
    let p (k : Nat) : Bool := (e.pGet pa).getLsbD k
    let q (k : Nat) : Bool := (e.pGet pb).getLsbD k
    let on := (List.range ty.lanes).filter fun k => act k && p k
    out (.pand pd pa pb g ty) (fun k => p k && q k)
    ∧ out (.por pd pa pb g ty) (fun k => p k || q k)
    ∧ out (.pxor pd pa pb g ty) (fun k => p k != q k)
    ∧ out (.pnot pd pa g ty) (fun k => !p k)
    ∧ out (.pmov pd pa g ty) p
    ∧ out (.psetImm pd n g ty) (fun k => k < n.toNat)
    ∧ ((e.sGet sa).2 = false → out (.psetReg pd sa g ty) (fun k => k < (e.sGet sa).1.toNat))
    ∧ (ok (.pcnt sd pa g ty) → Effects (.pcnt sd pa g ty) e.s (e.fly 2 (.s sd (BitVec.ofNat 64 on.length) false)))
    ∧ (ok (.pfst sd pa g ty) → ∃ m, Effects (.pfst sd pa g ty) e.s (e.fly 2 (.s sd (BitVec.ofNat 64 m) false))
        ∧ (m ∈ on ∨ on = [] ∧ m = ty.lanes) ∧ ∀ k ∈ on, m ≤ k)

/-- Where a predicate, a lane index, a count or a slide amount depends on a poisoned element or s register, a V-syllable instruction
takes no effect and raises F_POISON with the code of the first such source (R112).

A V-syllable instruction that names a v register whose window row is at or above W raises F_VWIN with the row in tval, the first
such register in the order of its fields; the bundle takes no effect (R25; which of several is reported: log 11).

An instruction of the S or X syllable whose s register decides a branch, a count, a control register, a queue, a slot or a command, or
whose a register is an address, raises F_POISON with the code of that register where it is poisoned, and of two that are poisoned that
of sA (R76, R82; which of the two: log 68). -/
def Obligations.VectorTraps : Prop :=
  (
    ∀ (e : At) (vd : VReg) (pd : PReg) (a b : VSrc) (ra : RowSrc) (sd sa si : SReg) (cond : Bits3) (z : Bool) (g : Guard) (ty : Ty),
      e.s.cur = some (e.c, e.k) →
      let ok (i : Instr) : Prop := i.wf = true ∧ ∀ r ∈ vregsOf i, e.q.winRow r < bW e.q.billet
      e.s.sure = false → (e.sGet si).2 = true →
      let raises (i : Instr) (code : Word) : Prop := ok i → ∃ r, Raises i e ⟨r, 2, fPoison, code, none⟩
      let si' := BitVec.ofNat 64 si.toNat
      raises (.psetReg pd si g ty) si' ∧ raises (.vbcstLane vd ra si g ty) si' ∧ raises (.vextReg sd ra si ty) si'
      ∧ raises (.vinsReg vd sa si ty) si' ∧ raises (.vslideReg vd a b si g ty) si'
      ∧ ((∃ k, k < ty.lanes ∧ e.active g k = true) →
          raises (.vcmp pd (.s si) b cond z g ty) si' ∧ raises (.vicmp pd (.s si) b cond z g ty) si')
      ∧ (∀ n, (∃ k, k < ty.lanes ∧ e.active g k = true ∧ (e.vGet n).t.getLsbD (k * ty.width / 256) = true) →
          ∃ sect, sect ≠ 0 ∧ raises (.vicmp pd (.v n) b cond z g ty) (BitVec.ofNat 64 (n.toNat + 2 * 2 ^ 8 + sect * 2 ^ 32))))
  ∧ (
    ∀ (e : At) (i : Instr) (pre post : List VReg) (r : VReg), e.s.cur = some (e.c, e.k) → e.s.sure = false → i.wf = true →
      e.q.shapeOk i = true → sylOf i = 2 → vregsOf i = pre ++ r :: post →
      (∀ y ∈ pre, e.q.winRow y < bW e.q.billet) → bW e.q.billet ≤ e.q.winRow r →
      ∃ n, Raises i e ⟨n, 2, fVwin, BitVec.ofNat 64 (e.q.winRow r), none⟩)
  ∧ (
    ∀ (e : At) (i : Instr) (sd sa sb sc : SReg) (ab : AReg) (off : Imm32) (dist wait : Bits20) (cr : Bits12) (sem : SemR) (q : EngQ)
      (word : Bits3) (slot : Slot) (nm1 : Bits4) (unit : Bits2) (cnt : Bits8) (gap : Bits12) (bid : Bits4) (lw lh fld : Bits2) (scp : Scope),
      e.s.cur = some (e.c, e.k) → e.s.sure = false →
      i.wf = true → e.q.shapeOk i = true → (supOnly i = true → e.q.plv = true) →
      let raises (n : Nat) (code : Word) : Prop := ∃ r, Raises i e ⟨r, n, fPoison, code, none⟩
      let branches := [Instr.beq sa sb off, .bne sa sb off, .blt sa sb off, .bge sa sb off, .bltn sa sb off, .bgen sa sb off,
        .bqs sa sb off]
      let pushes := [Instr.qpush sd sa ab sc wait sem, .qpushA sd sa ab sc wait sem, .qpop sd sa ab sc wait sem]
      ((e.sGet sa).2 = true → i ∈ branches ++ [Instr.loopReg sa dist, .stepReg sa, .crwReg cr sa] →
        raises 0 (BitVec.ofNat 64 sa.toNat))
      ∧ ((e.sGet sa).2 = false → (e.sGet sb).2 = true → i ∈ branches → raises 0 (BitVec.ofNat 64 sb.toNat))
      ∧ ((e.sGet sa).2 = true → i ∈ pushes ++ [Instr.qstat sd sa fld, .sigReg sem sa, .semrEnt sd sa q word, .tlook sd sa, .tclaimAuto sd sa,
          .tclaimNamed sd sa slot, .tfreeReg sa, .tstatReg sd sa, .barw sd bid lw lh sa sem scp, .nsend sa slot sem,
          .npost sa slot nm1 sem, .nstatI sd sa, .nstatA sd sa, .minj unit sa cnt gap, .eqflushR q sa] →
        raises 3 (BitVec.ofNat 64 sa.toNat))
      ∧ ((e.aGet ab).2 = true → (i ∈ pushes → (e.sGet sa).2 = false) →
          i ∈ pushes ++ [Instr.launch sd ab sem, .coll sd ab sem lw lh] → raises 3 (BitVec.ofNat 64 (ab.toNat + 2 ^ 8))))

/-- The moves: VMOV copies lanes; VSEL chooses by a predicate; VBCST writes a scalar, a lane chosen by sB mod L, or an immediate with
clear tags; VEXT and VINS move one lane from and to a scalar; each element moves with its tag (R122, R123).

VSHUF takes lane b(k) mod L of A, or b(k) mod 2L of A and C; VSLIDE lane k + n of A above B; VCMPR packs the active lanes into
the lowest and writes 0 with a clear tag into the rest; all have bound 6 (R124, R125, R126). Every one named completes for every
legal encoding (R39) whose v registers lie in the window (R25). -/
def Obligations.LaneMoveResults : Prop :=
  (
    ∀ (e : At) (vd : VReg) (pc : PReg) (a b : VSrc) (ra : RowSrc) (sd sa sb : SReg) (imm : Imm32) (ix : Bits10) (g : Guard) (ty : Ty),
      e.s.cur = some (e.c, e.k) →
      let ok (i : Instr) : Prop := i.wf = true ∧ ∀ r ∈ vregsOf i, e.q.winRow r < bW e.q.billet
      let w := ty.width
      let x := e.opnd a
      let y := e.opnd b
      let r := e.opndR ra
      let j := (e.sGet sb).1.toNat % ty.lanes
      let ext (v : Nat) : Word := if ty.isSigned then BitVec.ofInt 64 (intOf ty v) else BitVec.ofNat 64 v
      let ins (j : Nat) : State := e.put 6 vd w
        ((List.range ty.lanes).map fun k => if k = j then some ((e.sGet sa).1.toNat % 2 ^ w, (e.sGet sa).2) else none)
      (ok (.vmov vd a g ty) → Effects (.vmov vd a g ty) e.s (e.writes 2 vd [a] g ty fun k => (x.el w k, x.tg w k)))
      ∧ (ok (.vsel vd pc a b g ty) → Effects (.vsel vd pc a b g ty) e.s (e.writes 2 vd [a, b] g ty fun k =>
          if (e.pGet pc).getLsbD k then (x.el w k, x.tg w k) else (y.el w k, y.tg w k)))
      ∧ (ok (.vbcstScalar vd sa g ty) → Effects (.vbcstScalar vd sa g ty) e.s (e.writes 2 vd [] g ty fun _ =>
          ((e.sGet sa).1.toNat % 2 ^ w, (e.sGet sa).2)))
      ∧ (ok (.vbcstImm vd imm g ty) → Effects (.vbcstImm vd imm g ty) e.s (e.writes 2 vd [] g ty fun _ =>
          (if ty = .i64 then (imm.signExtend 64).toNat else imm.toNat % 2 ^ w, false)))
      ∧ ((e.sGet sb).2 = false →
          (ok (.vbcstLane vd ra sb g ty) → Effects (.vbcstLane vd ra sb g ty) e.s
            (e.put (2 + raiseR ra) vd w (lanesOf ty (e.active g) fun _ => (r.el w j, r.tg w j))))
          ∧ (ok (.vextReg sd ra sb ty) → Effects (.vextReg sd ra sb ty) e.s
            (e.fly (6 + raiseR ra) (.s sd (ext (r.el w j)) (r.tg w j))))
          ∧ (ok (.vinsReg vd sa sb ty) → Effects (.vinsReg vd sa sb ty) e.s (ins j)))
      ∧ (ok (.vextImm sd ra ix ty) → Effects (.vextImm sd ra ix ty) e.s
          (e.fly (6 + raiseR ra) (.s sd (ext (r.el w ix.toNat)) (r.tg w ix.toNat))))
      ∧ (ok (.vinsImm vd sa ix ty) → Effects (.vinsImm vd sa ix ty) e.s (ins ix.toNat)))
  ∧ (
    ∀ (e : At) (vd : VReg) (a b c : VSrc) (sc : SReg) (n : Bits11) (g : Guard) (ty : Ty),
      e.s.cur = some (e.c, e.k) →
      let ok (i : Instr) : Prop := i.wf = true ∧ ∀ r ∈ vregsOf i, e.q.winRow r < bW e.q.billet
      let w := ty.width
      let l := ty.lanes
      let x := e.opnd a
      let y := e.opnd b
      let z := e.opnd c
      let slide (m k : Nat) : Nat × Bool :=
        if k + m < l then (x.el w (k + m), x.tg w (k + m)) else (y.el w (k + m - l), y.tg w (k + m - l))
      let on := (List.range l).filter (e.active g)
      (ok (.vshuf vd a b g ty) → Effects (.vshuf vd a b g ty) e.s (e.writes 6 vd [a, b] g ty fun k =>
          (x.el w (y.el w k % l), y.tg w k || x.tg w (y.el w k % l))))
      ∧ (ok (.vshufTwo vd a b c g ty) → Effects (.vshufTwo vd a b c g ty) e.s (e.writes 6 vd [a, b, c] g ty fun k =>
          let j := y.el w k % (2 * l)
          if j < l then (x.el w j, y.tg w k || x.tg w j) else (z.el w (j - l), y.tg w k || z.tg w (j - l))))
      ∧ (ok (.vslideImm vd a b n g ty) → Effects (.vslideImm vd a b n g ty) e.s
          (e.writes 6 vd [a, b] g ty (slide n.toNat)))
      ∧ (ok (.vslideReg vd a b sc g ty) → (e.sGet sc).2 = false → Effects (.vslideReg vd a b sc g ty) e.s
          (e.writes 6 vd [a, b] g ty (slide (min (e.sGet sc).1.toNat l))))
      ∧ (ok (.vcmpr vd a g ty) → Effects (.vcmpr vd a g ty) e.s (e.put (6 + raise [a]) vd w
          (on.map (fun k => some (x.el w k, x.tg w k)) ++ List.replicate (l - on.length) (some (0, false))))))

/-- VRED writes the combination of the active lanes into lane 0, with the OR of their tags, and 0 with a clear tag into every other
lane; VSCAN writes into each active lane the combination of the active lanes up to it, with the OR of their tags. At an integer type the
combination is the sum modulo 2^w, the least, the greatest, or the bitwise and, or or exclusive or; at a floating type it is the tree of
R127, of FP32 sums each rounded under RM and rounded once more to t, or of VMIN and VMAX; with no active lane it is the empty result of
R128 (R127, R128). Both complete for every legal encoding (R39) whose v registers lie in the window (R25). -/
def Obligations.ReductionResults : Prop :=
  ∀ (e : At) (vd : VReg) (a : VSrc) (op : RedOp) (g : Guard) (ty : Ty),
    e.s.cur = some (e.c, e.k) →
    let ok (i : Instr) : Prop := i.wf = true ∧ ∀ r ∈ vregsOf i, e.q.winRow r < bW e.q.billet
    let w := ty.width
    let x := e.opnd a
    let act := e.active g
    let upTo (n : Nat) := (List.range n).filter act
    let codes (n : Nat) : List Nat := (upTo n).map fun k => x.el w k
    let ints (n : Nat) : List Int := (codes n).map (intOf ty)
    let tags (n : Nat) : Bool := (upTo n).any fun k => x.tg w k
    let value (n : Nat) : Nat := match op with
      | .add => ((ints n).sum % 2 ^ w).toNat
      | .min => ((ints n).foldr min (tyHi ty) % 2 ^ w).toNat
      | .max => ((ints n).foldr max (tyLo ty) % 2 ^ w).toNat
      | .and => (codes n).foldr (fun p q => p &&& q) (2 ^ w - 1)
      | .or => (codes n).foldr (fun p q => p ||| q) 0
      | .xor => (codes n).foldr (fun p q => p ^^^ q) 0
    let leaf {α : Type} (f : Nat → α) (k : Nat) : Node α := if act k then some (f (x.el w k), x.tg w k) else none
    let plain : Fcr := ⟨0, false, false, false, 0⟩
    let sum (p q : Machine.Num) : Machine.Num := real plain .f32 (roundTo e.fcr .f32 none (p.add (e.fcr.rm = 3) q))
    let pick (hi : Bool) : Nat → Nat → Nat := minmaxF e.fcr ty hi
    let floats (get : {α : Type} → (α → α → α) → (Nat → Node α) → Node α) (v : Nat × Bool) : Prop :=
      (op = .add → v = match get sum (leaf (real e.fcr ty)) with
        | some (y, u) => (roundTo e.fcr ty none y, u)
        | none => (0, false))
      ∧ ∀ hi : Bool, op = (if hi then .max else .min) →
          v = (get (pick hi) (leaf fun y => pick hi y y)).getD (roundTo plain ty none (.inf hi), false)
    (ok (.vred vd a op g ty) → ∃ v,
      Effects (.vred vd a op g ty) e.s (e.put (12 + raise [a]) vd w
        (some (v, tags ty.lanes) :: List.replicate (ty.lanes - 1) (some (0, false))))
      ∧ (ty.isInt = true → v % 2 ^ w = value ty.lanes)
      ∧ (ty.isWide = true → floats (fun f l => treeNode f l ty.lanes.log2 0) (v, tags ty.lanes)))
    ∧ (ok (.vscan vd a op g ty) → ∃ f : Nat → Nat × Bool,
      Effects (.vscan vd a op g ty) e.s (e.writes 12 vd [a] g ty f)
      ∧ ∀ k, k < ty.lanes → act k = true → (f k).2 = tags (k + 1)
          ∧ (ty.isInt = true → (f k).1 % 2 ^ w = value (k + 1))
          ∧ (ty.isWide = true → floats (fun f l => scanNode f l ty.lanes.log2 (k + 1)) (f k)))

/-- VCVT writes the listed lanes of R129 where the guard is active at td: integer to integer is wrapped or clamped, floating to
integer is rounded under RM and clamped with NaN 0, and any other pair is rounded to td, stochastically only where SR is set and td
is not .f32. VRND gives the integral value under its mode, a zero of its sign where that is zero, infinities unchanged, and QNaN for
NaN (R129, R130, R131). Every one named completes for every legal encoding (R39) whose v registers lie in the window (R25). -/
def Obligations.ConversionResults : Prop :=
  ∀ (e : At) (vd : VReg) (a : VSrc) (g : Guard) (td ts : Ty) (part : Bits3) (sat : Bool) (mode : Bits3),
    e.s.cur = some (e.c, e.k) →
    let ok (i : Instr) : Prop := i.wf = true ∧ ∀ r ∈ vregsOf i, e.q.winRow r < bW e.q.billet
    let x := e.opnd a
    let ws := ts.laneWidth
    let wd := td.laneWidth
    let source (k : Nat) : Option Nat :=
      if ws < wd then some (part.toNat * td.lanes + k)
      else if wd < ws then
        (if part.toNat * ts.lanes ≤ k ∧ k < part.toNat * ts.lanes + ts.lanes then some (k - part.toNat * ts.lanes) else none)
      else some k
    let value (k v : Nat) : Nat :=
      if ts.isInt ∧ td.isInt then
        ((if sat then max (tyLo td) (min (tyHi td) (intOf ts v)) else intOf ts v) % 2 ^ td.width).toNat
      else if td.isInt then (numToInt e.fcr.rm td (real e.fcr ts v) % 2 ^ td.width).toNat
      else roundTo e.fcr td (if e.fcr.sr = true ∧ td ≠ .f32 then
        some (srHash e.fcr.seed (BitVec.ofNat 32 k) 0 e.q.stepNo) else none) (real e.fcr ts v)
    (ok (.vcvt vd a g td ts part sat) → Effects (.vcvt vd a g td ts part sat) e.s (e.put (4 + raise [a]) vd wd
        ((List.range td.lanes).map fun k => (source k).bind fun j =>
          if e.active g k then some (value k (x.el ws j), x.tg ws j) else none)))
    ∧ (ok (.vrnd vd a mode g td) → ∃ f : Nat → Nat, Effects (.vrnd vd a mode g td) e.s
        (e.writes 4 vd [a] g td fun k => (f (x.el td.width k), x.tg td.width k))
        ∧ (∀ v, (real e.fcr td v).isNan = true → f v = qnan td)
        ∧ (∀ v n, real e.fcr td v = .inf n → f v = roundTo e.fcr td none (.inf n))
        ∧ (∀ v n m x, real e.fcr td v = .fin n m x → ∃ i : Nat, f v = roundTo ⟨0, false, false, false, 0⟩ td none (.fin n i 0)
          ∧ (let p := m * 2 ^ x.toNat
            let q := 2 ^ (-x).toNat
            let r := if mode = 5 then e.fcr.rm else mode.toNat
            (r = 0 → 2 * i * q ≤ 2 * p + q ∧ 2 * p ≤ 2 * i * q + q ∧ (2 * (p % q) = q → i % 2 = 0))
            ∧ (r = 1 → i = p / q) ∧ (r = 2 → i = if n then p / q else (p + q - 1) / q)
            ∧ (r = 3 → i = if n then (p + q - 1) / q else p / q) ∧ (r = 4 → i = (2 * p + q) / (2 * q)))))

/-- VQMX writes the packed codes of its part of vD and the eight scales into sS with the OR of the tags read. The scale of a block
follows from its largest magnitude; each element is divided by it and rounded to te once, a NaN giving +0; each sector takes the tags of
the blocks that have bytes in it; and the events of saturated blocks enter with the row, in ascending order. VDQMX writes every FP32 lane
with the value of its element times its scale, rounded once, and 0 under a NaN scale or for an infinity or NaN, with the tags of its
sectors and of sS (R132, R133, R134).

VDELT writes lane `slot` at .n32, tag clear, and no other: bit j is set where an active lane of block j reads poison, where the
threshold is NaN, or where an exact difference, or 0, is equal to it or above, and is clear where no active lane reads poison, every
difference is a number, and all are below the threshold; bits from the block count on are clear (R135). Every one named completes for
every legal encoding (R39) whose v registers lie in the window (R25). -/
def Obligations.QuantisationAndDeltaResults : Prop :=
  (
    ∀ (e : At) (vd : VReg) (a : VSrc) (ra : RowSrc) (te : Ty) (sS : SReg) (part : Bits3),
      e.s.cur = some (e.c, e.k) →
      let ok (i : Instr) : Prop := i.wf = true ∧ ∀ r ∈ vregsOf i, e.q.winRow r < bW e.q.billet
      let n := te.width
      let p := part.toNat
      let x := e.opnd a
      let value (k : Nat) : Machine.Num := real e.fcr .f32 (x.el 32 k)
      let draw (k : Nat) : Option Imm32 :=
        if e.fcr.sr then some (srHash e.fcr.seed (BitVec.ofNat 32 k) 0 e.q.stepNo) else none
      let size (k : Nat) : Machine.Num := match value k with
        | .inf _ => .fin false (2 ^ 24 - 1) 104
        | v => v.abs
      let emax : Int := match te with
        | .e4m3 => 8
        | .e5m2 => 15
        | .e3m2 => 4
        | .e2m3 | .e2m1 => 2
        | _ => 0
      let code (sc k : Nat) : Nat := match value k with
        | .nan => 0
        | v => if te = .mxi8 then (mxi8Code e.fcr (draw k) (v.scale (127 - sc))).1 else roundTo e.fcr te (draw k) (v.scale (127 - sc))
      let saturates (sc k : Nat) : Bool := match value k with
        | .nan | .inf _ => true
        | v => if te = .mxi8 then (mxi8Code e.fcr (draw k) (v.scale (127 - sc))).2 else overflows e.fcr te (draw k) (v.scale (127 - sc))
      let tagOf (j : Nat) : Bool := (List.range 4).any fun i => x.tg 256 (4 * j + i)
      (ok (.vqmx vd a te sS part) → ∃ (sc : Nat → Nat) (mask data : RowBits) (full tags : BitVec 32),
        Effects (.vqmx vd a te sS part) e.s (e.flyRow
          (e.fly (4 + raise [a]) (.s sS (BitVec.ofNat 64 ((List.range 8).foldr (fun j z => sc j + z * 256) 0)) ((List.range 8).any tagOf)))
          (4 + raise [a]) vd (.row (e.q.phys (e.q.winRow vd)) mask data full tags)
          (((List.range 8).filter fun j => (List.range 32).any fun i => saturates (sc j) (32 * j + i)).map fun j =>
            BitVec.ofNat 64 (8 * p + j + e.k.toNat * 2 ^ 12 + e.q.stepNo.toNat * 2 ^ 32)))
        ∧ (∀ i, i < 8192 → (mask.getLsbD i = true ↔ p * 256 * n ≤ i ∧ i < (p + 1) * 256 * n))
        ∧ (∀ i, i < 32 → (full.getLsbD i = true ↔ p * 32 * n ≤ 32 * i ∧ 32 * i + 32 ≤ (p + 1) * 32 * n)
            ∧ (tags.getLsbD i = true ↔ ∃ j, j < 8 ∧ (p * 8 + j) * (4 * n) < 32 * i + 32 ∧ 32 * i < (p * 8 + j + 1) * (4 * n)
                ∧ tagOf j = true))
        ∧ ∀ j, j < 8 →
            (∃ m ex, sc j = (if m = 0 then 0 else (min 254 (max 0 ((m.log2 : Int) + ex - emax + 127))).toNat)
              ∧ (∀ i, i < 32 → (value (32 * j + i)).isNan = false → (Machine.Num.fin false m ex).cmp (size (32 * j + i)) ≠ some .lt)
              ∧ (m = 0 ∨ ∃ i, i < 32 ∧ (value (32 * j + i)).isNan = false ∧ size (32 * j + i) = .fin false m ex))
            ∧ ∀ i, i < 32 → data.toNat / 2 ^ ((256 * p + 32 * j + i) * n) % 2 ^ n = code (sc j) (32 * j + i))
      ∧ (ok (.vdqmx vd ra te sS part) →
        let y := (e.opndR ra).row
        let scale (k : Nat) : Nat := (e.sGet sS).1.toNat / 2 ^ (8 * (k / 32)) % 256
        let back (k : Nat) : Nat := match real e.fcr te (y.d.toNat / 2 ^ ((256 * p + k) * n) % 2 ^ n) with
          | .fin s m ex => if scale k = 255 then 0 else roundTo e.fcr .f32 none (.fin s m (ex + ((scale k : Int) - 127)))
          | _ => 0
        let tag (k : Nat) : Bool := y.t.getLsbD ((256 * p + k) * n / 256) || y.t.getLsbD (((256 * p + k) * n + n - 1) / 256)
          || (e.sGet sS).2
        Effects (.vdqmx vd ra te sS part) e.s
          (e.put (4 + raiseR ra) vd 32 ((List.range 256).map fun k => some (back k, tag k)))))
  ∧ (
    ∀ (e : At) (vd : VReg) (a b : VSrc) (sc : SReg) (slot : Slot) (g : Guard) (ty : Ty),
      e.s.cur = some (e.c, e.k) →
      let ok (i : Instr) : Prop := i.wf = true ∧ ∀ r ∈ vregsOf i, e.q.winRow r < bW e.q.billet
      let w := ty.width
      let x := e.opnd a
      let y := e.opnd b
      let v : Nat := (e.sGet sc).1.toNat % 2 ^ 32
      let th : Machine.Num := if ty = .i8 ∨ ty = .mxi8 then .fin false v 0 else real e.fcr .f32 v
      let diff (k : Nat) : Machine.Num := ((deltaVal e.fcr ty (x.el w k)).add false (deltaVal e.fcr ty (y.el w k)).neg).abs
      let forced (k : Nat) : Prop := x.tg w k = true ∨ y.tg w k = true ∨ (diff k).isNan = true
      let inBlock (j k : Nat) : Prop := k / 32 = j ∧ e.active g k = true
      ok (.vdelt vd a b sc slot g ty) → ∃ m : Nat,
        Effects (.vdelt vd a b sc slot g ty) e.s (e.put (6 + raise [a, b]) vd 32
          ((List.range 256).map fun k => if k = slot.toNat then some (m, false) else none))
        ∧ m < 2 ^ (ty.lanes / 32)
        ∧ ∀ j, j < ty.lanes / 32 →
            ((∃ k, inBlock j k ∧ forced k) → m.testBit j = true)
            ∧ (th.isNan = true → m.testBit j = true)
            ∧ (∀ k, inBlock j k → (diff k).cmp th = some .gt ∨ (diff k).cmp th = some .eq → m.testBit j = true)
            ∧ ((Machine.Num.fin false 0 0).cmp th = some .gt ∨ (Machine.Num.fin false 0 0).cmp th = some .eq → m.testBit j = true)
            ∧ ((∀ k, inBlock j k → ¬ forced k ∧ (diff k).cmp th = some .lt) → (Machine.Num.fin false 0 0).cmp th = some .lt →
                m.testBit j = false))

/-! ### The X syllable -/

/-- MMA, MMAD, MEPI, WLOAD, the transfer commands and MZERO. With no poisoned operand, an aligned block address and room under the seat's
quota in each queue named, the command enters the free entry of lowest index of each: its operands, the fcr of this cycle and the seat's
next SEQ; without room the bundle is held. A poisoned address or stamp raises F_POISON, a block address that is no multiple of 256
F_ALIGN, and nothing is enqueued (R178, R179, R194, R197, R212, R229). Every one named completes for every legal encoding (R39). -/
def Obligations.EngineCommandEffects : Prop :=
  ∀ (e : At) (i : Instr) (opc q : Nat) (wt sg : SemR) (ap : Option AReg) (ss : SReg) (slk : Bits8) (qs : List Nat),
    let matrix (m : MatQ) : Prop := q = m.code.toNat ∧ qs = (match m with
      | .h0 => [0]
      | .h1 => [1]
      | .hw => [0, 1])
    let block (a : EngArgs) : Prop := wt = a.wt ∧ sg = a.sg ∧ ap = some a.ap ∧ ss = a.ss ∧ slk = a.slk
    ((∃ m a, matrix m ∧ block a ∧
        (i = .mma m a ∧ opc = 0x01 ∨ i = .mmad m a ∧ opc = 0x02 ∨ i = .mepi m a ∧ opc = 0x04 ∨ i = .wload m a ∧ opc = 0x06))
      ∨ (∃ m row rows lh, matrix m ∧ ap = none ∧ opc = 0x03 ∧ i = .mzero m row rows lh wt sg ss slk)
      ∨ (∃ a, block a ∧ q = 0 ∧ qs = [2] ∧
        (i = .txfer a ∧ opc = 0x10 ∨ i = .tfill a ∧ opc = 0x11 ∨ i = .tdrain a ∧ opc = 0x12 ∨ i = .tmcast a ∧ opc = 0x13))) →
    e.s.cur = some (e.c, e.k) → i.wf = true →
    let pba : Word := match ap with
      | some a => (e.aGet a).1
      | none => 0
    let badA : Prop := ∃ a, ap = some a ∧ (e.aGet a).2 = true
    let badS : Prop := ss ≠ 0 ∧ (e.sGet ss).2 = true
    let free (n ix : Nat) : Prop := ix < capacity n ∧ (e.x.queue n).find ix = none
    let room := ∀ n ∈ qs, inUse (e.x.queue n) e.k < quota e.q.billet n ∧ ∃ ix, free n ix
    (¬ badA → ¬ badS → pba.toNat % 256 = 0 → room →
      ∃ t, Effects i e.s t ∧ t.mem = e.s.mem ∧ ∀ n ∈ qs, ((t.core e.c).seatAt e.k).seqOf n = e.q.seqOf n + 1
        ∧ ∃ ix f, free n ix ∧ (∀ j, j < ix → ¬ free n j) ∧ ((t.core e.c).queue n).find ix = some f
          ∧ f.seat = e.k ∧ f.opc = BitVec.ofNat 8 opc ∧ f.q = BitVec.ofNat 2 q ∧ f.wt = wt ∧ f.sg = sg ∧ f.slk = slk
          ∧ f.pba = pba.setWidth 57 ∧ f.fcr = e.q.fcr ∧ f.seq = e.q.seqOf n ∧ f.enq = e.s.cyc ∧ f.stepc = 0
          ∧ f.stamped = (ss != 0) ∧ f.stamp = (if ss = 0 then 0 else (e.sGet ss).1)
          ∧ (f.st = .queued ∨ f.st = .head))
    ∧ (e.s.sure = false → ¬ badA → ¬ badS → pba.toNat % 256 = 0 → ¬ room → Holds i e.s)
    ∧ (e.s.sure = false → ∀ a, ap = some a → (e.aGet a).2 = true →
        ∃ r, Raises i e ⟨r, 3, fPoison, BitVec.ofNat 64 (a.toNat + 2 ^ 8), none⟩)
    ∧ (e.s.sure = false → ¬ badA → badS → ∃ r, Raises i e ⟨r, 3, fPoison, BitVec.ofNat 64 ss.toNat, none⟩)
    ∧ (e.s.sure = false → ¬ badA → ¬ badS → pba.toNat % 256 ≠ 0 → ∃ r, Raises i e ⟨r, 3, fAlign, pba, none⟩)

/-- TLOOK reports the lowest granted slot, not EMPTY, with the tag, or a miss with the lowest EMPTY one; TCLAIM makes an EMPTY
granted slot READY under the tag with its rows zero; TFREE makes a READY slot without pins EMPTY, is held while it is FILLING,
DRAINING or pinned, and raises F_TILE with reason 2 of an EMPTY one; TSTAT reads an entry (R218, R225, R226, R227, R228). -/
def Obligations.SlotInstructionEffects : Prop :=
  ∀ (e : At) (sd sa : SReg) (slot : Slot) (v : Word), e.s.cur = some (e.c, e.k) → e.sGet sa = (v, false) →
    let n := slot.toNat
    let y (n : Nat) : Tile := e.x.tile n
    let mine (n : Nat) : Prop := n < 256 ∧ (y n).owner = some e.k
    let hit (n : Nat) : Prop := mine n ∧ (y n).st ≠ .empty ∧ (y n).tag = v.extractLsb' 14 43
    let first (p : Nat → Prop) (n : Nat) : Prop := p n ∧ ∀ m, m < n → ¬ p m
    let opened (n : Nat) : Prop := mine n ∧ (y n).st = .empty
    let out (k : Nat) : Write := .s sd (BitVec.ofNat 64 k) false
    let claimed (i : Instr) (n : Nat) : Prop := ∃ t, Effects i e.s t ∧ t.mem = e.s.mem
      ∧ t.seat e.c e.k = (e.fly 3 (out n)).seat e.c e.k
      ∧ (let z := (t.core e.c).tile n
         z.st = .ready ∧ z.owner = some e.k ∧ z.tag = v.extractLsb' 14 43 ∧ z.err = false)
      ∧ (∀ m, m ≠ n → (t.core e.c).tile m = y m)
      ∧ ∀ r, (t.core e.c).granRow r = if r / 16 = n then ⟨0, 0⟩ else e.x.granRow r
    let freed (i : Instr) (n : Nat) : Prop :=
      (mine n → (y n).st = .ready → (y n).pins = 0 → ∃ t, Effects i e.s t ∧ t.mem = e.s.mem
        ∧ ((t.core e.c).tile n).st = .empty ∧ ((t.core e.c).tile n).owner = some e.k
        ∧ ∀ m, m ≠ n → (t.core e.c).tile m = y m)
      ∧ (e.s.sure = false → mine n → (y n).st = .empty → ∃ r, Raises i e ⟨r, 3, fTile, BitVec.ofNat 64 (n + 2 * 2 ^ 8), none⟩)
      ∧ (e.s.sure = false → mine n → (y n).st ≠ .empty → (y n).st ≠ .ready ∨ (y n).pins ≠ 0 → Holds i e.s)
    (∀ j, first hit j → Effects (.tlook sd sa) e.s (e.fly 3 (out (j + 2 ^ 8 * (match (y j).st with
        | .empty => 0
        | .filling => 1
        | .ready => 2
        | .draining => 3)))))
    ∧ ((∀ j, ¬ hit j) → (∀ j, first opened j → Effects (.tlook sd sa) e.s (e.fly 3 (out (2 ^ 63 + j))))
        ∧ ((∀ j, ¬ opened j) → Effects (.tlook sd sa) e.s (e.fly 3 (out (2 ^ 63 + 2 ^ 8)))))
    ∧ (∀ j, first opened j → claimed (.tclaimAuto sd sa) j)
    ∧ ((∀ j, ¬ opened j) → Effects (.tclaimAuto sd sa) e.s (e.fly 3 (out (2 ^ 63))))
    ∧ (opened n → claimed (.tclaimNamed sd sa slot) n)
    ∧ (e.s.sure = false → mine n → (y n).st ≠ .empty →
        ∃ r, Raises (.tclaimNamed sd sa slot) e ⟨r, 3, fTile, BitVec.ofNat 64 (n + 2 * 2 ^ 8), none⟩)
    ∧ freed (.tfreeNamed slot) n ∧ freed (.tfreeReg sa) (v.toNat % 256)
    ∧ (∀ i m, (i = .tstatNamed sd slot ∧ m = n ∨ i = .tstatReg sd sa ∧ m = v.toNat % 256) →
        ((y m).owner = none → Effects i e.s (e.fly 3 (out 0)))
        ∧ (∀ o, (y m).owner = some o → o ≠ e.k → Effects i e.s (e.fly 3 (out (2 ^ 7))))
        ∧ (mine m → ∃ w : Word, w.toNat % 4 = slotCode (y m).st ∧ w.toNat / 2 ^ 6 % 2 = 1 ∧ w.extractLsb' 21 43 = (y m).tag
            ∧ Effects i e.s (e.fly 3 (.s sd w false))))

/-- SIG adds min(255, sA) or its count in phase 1 of the next ck, where no access of the strand has still to be performed, and nothing for
0; SWAIT takes its count where the semaphore holds it and is held where it does not; SEMR reads a semaphore, the overflow bits, which it
clears, an entry's word, which is 0 past the capacity, or PACE, quota and count; EQFLUSH.r resumes the oldest FAULTED entry with a stamp,
and EQFLUSH.d is held while a step of the seat's entries runs and then frees every one of them and no other seat's, the entries of the
queue having different indices (R182, R187, R188, R189, R190). -/
def Obligations.SemaphoreInstructionEffects : Prop :=
  ∀ (e : At) (sd sa sb : SReg) (sem : SemR) (amt : Bits8) (q : EngQ) (word : Bits3) (a b : Word), e.s.cur = some (e.c, e.k) →
    e.sGet sa = (a, false) → e.sGet sb = (b, false) →
    let n := engNo q
    let adds (i : Instr) (k : Nat) : Prop := ∃ t, Effects i e.s t ∧ t.mem = e.s.mem ∧ (k = 0 → t = e.s)
      ∧ (k ≠ 0 → (∀ r ∈ e.q.vres, r.isOpen = false) → ∃ recent,
          t = e.s.modSeat e.c e.k fun r => { r with inc := r.inc ++ [(sem, k)], recent })
    let out (v : Word) : State := e.fly 3 (.s sd v false)
    ((Instr.sigImm sem amt).wf = true → adds (.sigImm sem amt) amt.toNat)
    ∧ ((Instr.sigReg sem sa).wf = true → adds (.sigReg sem sa) (min 255 a.toNat))
    ∧ ((Instr.swait sem amt).wf = true → amt.toNat ≤ (e.q.sem sem).toNat → ∃ t wide, Effects (.swait sem amt) e.s t ∧ t.mem = e.s.mem
        ∧ t.seat e.c e.k = { e.q with w := e.q.w.put sem.toNat (e.q.sem sem - amt), wide })
    ∧ ((Instr.swait sem amt).wf = true → e.s.sure = false → (e.q.sem sem).toNat < amt.toNat → Holds (.swait sem amt) e.s)
    ∧ ((Instr.semrSem sd sem).wf = true → Effects (.semrSem sd sem) e.s (out ((e.q.sem sem).setWidth 64)))
    ∧ Effects (.semrOvf sd) e.s ((out (e.q.ovf.setWidth 64)).modSeat e.c e.k fun r => { r with ovf := 0 })
    ∧ (capacity n ≤ a.toNat % 64 → Effects (.semrEnt sd sa q word) e.s (out 0))
    ∧ (∀ f, a.toNat % 64 < capacity n → (e.x.queue n).find (a.toNat % 64) = some f → f.seat = e.k → f.drop = false →
        ∃ v, Effects (.semrEnt sd sa q word) e.s (out v)
          ∧ (word = 0 → v.extractLsb' 8 8 = f.opc ∧ v.extractLsb' 48 16 = f.seq ∧ v.toNat % 16 = entCode f.st)
          ∧ (word = 1 → v = f.nstep ++ f.stepc) ∧ (word = 2 → v = f.pba.setWidth 64) ∧ (word = 3 → v = f.fcr)
          ∧ (word = 4 → v = f.stamp) ∧ (word = 5 → v = f.bpois) ∧ (word = 6 → v = f.fcode.setWidth 64)
          ∧ (word = 7 → v = f.fval))
    ∧ Effects (.semrCfg sd q) e.s (out (BitVec.ofNat 64
        (pace e.q.billet n + quota e.q.billet n * 2 ^ 16 + inUse (e.x.queue n) e.k * 2 ^ 24)))
    ∧ (e.q.plv = true →
      let mine (p : Nat × Entry) : Prop := p ∈ e.x.queue n ∧ p.2.seat = e.k ∧ p.2.drop = false
      ((∀ p, mine p → p.2.st ≠ .faulted) → Effects (.eqflushR q sb) e.s e.s)
      ∧ (∀ p, mine p → p.2.st = .faulted → (∀ r, mine r → r.2.st = .faulted → r = p ∨ p.2.enq < r.2.enq) →
          Effects (.eqflushR q sb) e.s (e.s.resumeEnt e.c n p.1 b))
      ∧ ((∀ p, mine p → p.2.busy = false) → ∃ t, Effects (.eqflushD q) e.s t ∧ t.mem = e.s.mem
          ∧ ((∀ p, ¬ mine p) → t = e.s.modSeat e.c e.k fun r => r.setPace n none)
          ∧ (((e.x.queue n).map Prod.fst).Nodup → (∀ p ∈ (t.core e.c).queue n, p.2.seat = e.k → p.2.drop = true)
              ∧ ∀ p ∈ e.x.queue n, p.2.seat ≠ e.k → ∃ r ∈ (t.core e.c).queue n, r.1 = p.1 ∧ r.2.seat = p.2.seat ∧ r.2.seq = p.2.seq))
      ∧ (e.s.sure = false → (∃ p, mine p ∧ p.2.st = .running ∧ p.2.busy = true) →
          ∃ t : State, exec (.eqflushD q) e.s = .next { t with last := .held } ∧ t.mem = e.s.mem))

/-- OVPOP gives the seat's oldest event with VALID, or 0, with LOST as the seat's lost-event bit, removes it and clears the bit. MRGN
sets the seat's request to its level, clamped to MCAP at user level, when its bundle commits, one ck after it issued; MINJ arms
injections from the CYC in sA on when it commits, those whose CYC lies before the first ck after that being dropped, and MINJ.off
disarms when it commits (R214, R215, R244, R257, R258). -/
def Obligations.EventAndMarginInstructionEffects : Prop :=
  ∀ (e : At) (sd sa : SReg) (level : Bits3) (sem : SemR) (unit : Bits2) (cnt : Bits8) (gap : Bits12) (a : Word),
    e.s.cur = some (e.c, e.k) → e.sGet sa = (a, false) →
    let ev := e.x.ovq.find? fun w => w.extractLsb' 12 2 = e.k
    (∃ v : Word, v.getLsbD 15 = ev.isSome ∧ v.getLsbD 14 = e.q.olost
      ∧ (∀ i, i < 64 → i ≠ 14 → i ≠ 15 → v.getLsbD i = (ev.getD 0).getLsbD i)
      ∧ Effects (.ovpop sd) e.s ((e.fly 3 (.s sd v false)).modCore e.c fun x =>
          { (x.setSeat e.k { x.seatAt e.k with olost := false }) with ovq := match ev with
            | some w => x.ovq.erase w
            | none => x.ovq }))
    ∧ (∃ t lvl, Effects (.mrgn level sem) e.s t ∧ t.mem = e.s.mem
        ∧ lvl.toNat = min level.toNat (if e.q.plv then 7 else e.x.mwin.toNat / 2 ^ 32 % 8)
        ∧ (let h : Held := .req e.c e.k (bInst e.q.billet) lvl
           (e.s.cyc + 1, h) ∈ t.held
           ∧ (∀ u : State, (u.seat e.c e.k).of (bInst e.q.billet) = true → ((u.pass h).seat e.c e.k).req = lvl)
           ∧ (sem = 0 → t = { e.s with held := e.s.held ++ [(e.s.cyc + 1, h)] })
           ∧ (sem ≠ 0 → t.seat e.c e.k = (e.vresOn e.s (valueRes .mrgn 0 0 sem true e.s.cyc 0)).seat e.c e.k)))
    ∧ (e.q.plv = true → (Instr.minj unit sa cnt gap).wf = true →
        let h : Held := .inject e.c unit a.toNat cnt.toNat gap.toNat
        Effects (.minj unit sa cnt gap) e.s { e.s with held := e.s.held ++ [(e.s.cyc + 1, h)] }
        ∧ ∀ u : State, ∃ late, u.pass h = u.modCore e.c (fun y =>
            { y with injUnit := unit, injLeft := cnt.toNat - late, injDone := 0, injDrop := late,
                     injAt := a.toNat + late * gap.toNat, injGap := gap.toNat })
          ∧ (u.cyc < a.toNat → late = 0)
          ∧ (∀ i, i < late → a.toNat + i * gap.toNat ≤ u.cyc)
          ∧ (∀ i, late ≤ i → i < cnt.toNat → u.cyc < a.toNat + i * gap.toNat))
    ∧ (e.q.plv = true → Effects .minjOff e.s { e.s with held := e.s.held ++ [(e.s.cyc + 1, .disarm e.c)] }
        ∧ ∀ u : State, u.pass (.disarm e.c) = u.modCore e.c fun y => { y with injLeft := 0 })

/-- QPUSH and QPUSH.a of a configured local queue that permits the push, with the grant and a free ring, reserve the record's cells and
answer with the index of its first cell, at once where the payload lies on this device. QPOP with the grant answers with the packet's
length, or with 2^63 and the length where the buffer is too small; where ring and buffer lie on this device it copies the packet to the
buffer at once. A queue that is not configured raises F_BUS, a role not permitted F_PERM with BASE, in either instruction; a payload
beyond the ring or 65,528 bytes raises F_QLEN, after what its buffer's translation raises, which is looked at for at most 65,528 bytes
(the model's choice for a push, log 67). No access of the strand to its buffer has still to be performed, and what the units themselves
push into a queue (from number 0xFC0 on) does not count. QSTAT reads head, tail, configuration or free cells, and 0 of a queue not
configured (R239, R240, R242). -/
def Obligations.QueueInstructionEffects : Prop :=
  ∀ (e : At) (sd sa : SReg) (ab : AReg) (sc : SReg) (wait : Bits20) (sem : SemR) (fld : Bits2) (a b n : Word),
    e.s.cur = some (e.c, e.k) → e.sGet sa = (a, false) → e.aGet ab = (b, false) → e.sGet sc = (n, false) →
    a.toNat % 2 ^ 16 / 2 ^ 14 = 0 →
    let num := a.toNat % 2 ^ 12
    let die : DieId := a.extractLsb' 12 2
    let found := (e.s.die die).queues.find num
    let push (p : Instr) : Prop := (p = .qpush sd sa ab sc wait sem ∨ p = .qpushA sd sa ab sc wait sem) ∧ p.wf = true
    let pop := Instr.qpop sd sa ab sc wait sem
    let cells := (8 + n.toNat + 63) / 64
    (∀ r ∈ e.q.vres, r.isOpen = false) →
    (∀ p, push p → e.s.sure = false →
      (found = none → ∃ r, Raises p e ⟨r, 3, fBus, 0, none⟩)
      ∧ (∀ u, found = some u → u.mayPush num e.q = false → ∃ r, Raises p e ⟨r, 3, fPerm, BitVec.ofNat 64 u.base.toNat, none⟩)
      ∧ (∀ u f, found = some u → u.mayPush num e.q = true → e.span .read b (min n.toNat 65528) = .bad f →
          f.code = fPage ∨ f.code = fPerm ∨ f.code = fKey → ∃ r, Raises p e ⟨r, 3, f.code, BitVec.ofNat 64 f.va, some f⟩)
      ∧ (∀ u l, found = some u → u.mayPush num e.q = true → e.span .read b (min n.toNat 65528) = .ok l →
          65528 < n.toNat ∨ u.rsz < cells →
          ∃ r, Raises p e ⟨r, 3, fQlen, BitVec.ofNat 64 (a.toNat % 2 ^ 16 + min n.toNat (2 ^ 32 - 1) * 2 ^ 16), none⟩))
    ∧ (∀ p, push p → ∀ u l, found = some u → u.mayPush num e.q = true → n.toNat ≤ 65528 → cells ≤ u.rsz →
        e.span .read b n.toNat = .ok l → e.q.grant = true → u.canPush cells = true →
        ∃ t, Effects p e.s t
          ∧ (num < 0xFC0 → ∃ w, (t.die die).queues.find num = some w ∧ w.head = u.head
              ∧ w.tail = u.tail + BitVec.ofNat 24 (u.pad cells + cells)
              ∧ w.recs.length = u.recs.length + (if u.pad cells = 0 then 1 else 2))
          ∧ ∃ v, (t.seat e.c e.k).vres.getLast? = some v ∧ v.kind = .qpush ∧ v.sem = sem ∧ v.ready = !isFar l
              ∧ v.dest = (if sd = 0 then .none else .s sd)
              ∧ v.data = BitVec.ofNat 8192 ((u.tail.toNat + u.pad cells) % 2 ^ 24))
    ∧ (pop.wf = true → e.s.sure = false →
      (found = none → ∃ r, Raises pop e ⟨r, 3, fBus, 0, none⟩)
      ∧ (∀ u, found = some u → u.mayPop e.q = false → ∃ r, Raises pop e ⟨r, 3, fPerm, BitVec.ofNat 64 u.base.toNat, none⟩)
      ∧ (∀ u f, found = some u → u.mayPop e.q = true → e.span .write b (min n.toNat 65528) = .bad f →
          f.code = fPage ∨ f.code = fPerm ∨ f.code = fKey → ∃ r, Raises pop e ⟨r, 3, f.code, BitVec.ofNat 64 f.va, some f⟩))
    ∧ (pop.wf = true → ∀ u l, found = some u → u.mayPop e.q = true → e.span .write b (min n.toNat 65528) = .ok l →
        e.q.grant = true → u.canPop = true →
        ∃ t v, Effects pop e.s t ∧ (t.seat e.c e.k).vres.getLast? = some v ∧ v.kind = .qpop ∧ v.sem = sem
          ∧ v.dest = (if sd = 0 then .none else .s sd)
          ∧ (min n.toNat 65528 < u.headLen →
              v.data = BitVec.ofNat 8192 ((2 ^ 63 + u.headLen) % 2 ^ 64) ∧ v.ready = true ∧ t.mem = e.s.mem
              ∧ (t.die die).queues.find num = some u)
          ∧ (u.headLen ≤ min n.toNat 65528 → v.data = BitVec.ofNat 8192 (u.headLen % 2 ^ 64))
          ∧ (u.headLen ≤ min n.toNat 65528 → e.s.headFar u = none → remote l = false → v.ready = true
              ∧ ∀ g, l = [g] → u.mirror = none → ∀ i, i < u.headLen →
                t.rdB g.xl.kid (g.xl.pa + i) = ((e.s.headBytes u).getD i (0, false)).1))
    ∧ (∀ p, (push p ∨ p = pop ∧ p.wf = true) → e.s.sure = false → ∀ u l, found = some u → u.mayPush num e.q = true →
        u.mayPop e.q = true → n.toNat ≤ 65528 → cells ≤ u.rsz →
        (∃ l, e.span .write b n.toNat = .ok l) →
        e.span .read b n.toNat = .ok l → e.q.grant = false →
        (∀ h, e.q.hold = some h → e.s.cyc ≤ h + wait.toNat) →
        ∃ t : State, exec p e.s = .next { t with last := .held } ∧ t.mem = e.s.mem)
    ∧ (found = none → Effects (.qstat sd sa fld) e.s (e.fly 3 (.s sd 0 false)))
    ∧ (∀ u, found = some u →
        (fld = 0 → Effects (.qstat sd sa fld) e.s (e.fly 3 (.s sd (u.head.setWidth 64) false)))
        ∧ (fld = 1 → Effects (.qstat sd sa fld) e.s (e.fly 3 (.s sd (u.tail.setWidth 64) false)))
        ∧ (fld = 2 → Effects (.qstat sd sa fld) e.s (e.fly 3 (.s sd (BitVec.ofNat 64
            (u.lrsz + (u.mayPush num e.q).toNat * 2 ^ 8 + (u.mayPop e.q).toNat * 2 ^ 9 + 2 ^ 63)) false)))
        ∧ (fld = 3 → Effects (.qstat sd sa fld) e.s (e.fly 3 (.s sd (BitVec.ofNat 64 (u.rsz - (u.tail - u.head).toNat)) false))))

/-- BARI, BARA and BARW send a message to the unit of the cluster that holds the corner of the strand's group; BARA and BARW leave a
result outstanding, as LAUNCH does, whose record's address goes to the dispatcher, and COLL, which counts the strand's joins of its key.
What is sent crosses the domain boundary two ck after the bundle issued (R248). They complete for every legal encoding (R39) of a group
that fits the strand's rectangle (R265), where no access of the strand has still to be performed (R290). LAUNCH of a record that is not
128-byte aligned, and COLL of a descriptor that is not 256-byte aligned, raise F_ALIGN (R265, R271, R315, R424). -/
def Obligations.GroupInstructionEffects : Prop :=
  ∀ (e : At) (sd sa : SReg) (ab : AReg) (bid : Bits4) (lw lh : Bits2) (cnt : Bits12) (sem : SemR) (scp : Scope) (a b : Word),
    e.s.cur = some (e.c, e.k) →
    let ok (i : Instr) : Prop := i.wf = true ∧ e.q.shapeOk i = true
    e.sGet sa = (a, false) → e.aGet ab = (b, false) → (∀ r ∈ e.q.vres, r.isOpen = false) →
    let gw := 2 ^ lw.toNat
    let gh := 2 ^ lh.toNat
    let cx := coreX e.c / gw * gw
    let cy := coreY e.c / gh * gh
    let d := coreDie e.c
    let unit (s : State) : List BarMsg := (s.cluster d (cx / 4 + 2 * (cy / 2))).bmsg
    let sent (t : State) (kind : BarKind) (p : BarMsg → Prop) : Prop := ∃ m : BarMsg, t.held = e.s.held ++ [(e.s.cyc + 2, .bar d m)]
      ∧ m.kind = kind ∧ m.core = e.c ∧ m.seat = e.k ∧ m.inst = bInst e.q.billet ∧ m.bid = bid ∧ m.cx = cx ∧ m.cy = cy
      ∧ t.mem = e.s.mem ∧ p m ∧ ∀ u : State, unit (u.pass (.bar d m)) = unit u ++ [m]
    let waits (t : State) (kind : VKind) : Prop := ∃ v, (t.seat e.c e.k).vres = e.q.vres ++ [v] ∧ v.kind = kind ∧ v.sem = sem
      ∧ v.dest = (if sd = 0 then .none else .s sd) ∧ v.key = e.s.free
    (ok (.bari bid lw lh cnt) → ∃ t, Effects (.bari bid lw lh cnt) e.s t
      ∧ sent t .init (fun m => m.e = if cnt = 0 then gw * gh else cnt.toNat) ∧ t.cores = e.s.cores)
    ∧ (ok (.bara sd bid lw lh sem scp) → ∃ t, Effects (.bara sd bid lw lh sem scp) e.s t
      ∧ sent t .arrive (fun m => m.e = gw * gh ∧ m.key = e.s.free) ∧ waits t .bara)
    ∧ (ok (.barw sd bid lw lh sa sem scp) → ∃ t, Effects (.barw sd bid lw lh sa sem scp) e.s t
      ∧ sent t .wait (fun m => m.phase = a.setWidth 16 ∧ m.key = e.s.free) ∧ waits t .barw)
    ∧ (ok (.launch sd ab sem) → b.toNat % 128 = 0 → ∃ t r, Effects (.launch sd ab sem) e.s t ∧ waits t .launch
      ∧ t.held = e.s.held ++ [(e.s.cyc + 2, .launch d r)]
      ∧ (∀ u : State, ((u.pass (.launch d r)).die d).lreq = (u.die d).lreq ++ [r]) ∧ r.va = b ∧ r.func = e.q.func ∧ r.asn = e.q.asn
      ∧ r.priv = e.q.plv ∧ t.mem = e.s.mem)
    ∧ (ok (.launch sd ab sem) → e.s.sure = false → b.toNat % 128 ≠ 0 →
      ∃ r, Raises (.launch sd ab sem) e ⟨r, 3, fAlign, b, none⟩)
    ∧ (ok (.coll sd ab sem lw lh) → b.toNat % 256 = 0 → ∃ t, Effects (.coll sd ab sem lw lh) e.s t
        ∧ (t.seat e.c e.k).vres.length = e.q.vres.length + 1
        ∧ ∀ l, e.span .read b 256 = .ok l → remote l = false →
            let key := field ((e.s.nearBytes l).map Prod.fst) 8 8 % 2 ^ 64
            (t.seat e.c e.k).collN = e.q.collN.put key (e.q.collN.val 0 key + 1))
    ∧ (ok (.coll sd ab sem lw lh) → e.s.sure = false → b.toNat % 256 ≠ 0 →
      ∃ r, Raises (.coll sd ab sem lw lh) e ⟨r, 3, fAlign, b, none⟩)

/-- NSEND of a configured binding of the strand's function and session, whose slots are READY, sends its bytes; with a poisoned sector
among them, or with the port down, it sends nothing and enters the completion at once, with F_POISON or F_LINK, or sets the lost bit
where the queue of 16 is full, and counts the semaphore; the slots are pinned while they are copied. NPOST arms the slots for an entry
that names the core when it crosses the boundary, two ck after it issued (R248), if its strand is still there; a binding or entry that is
not configured raises F_BUS and one of another owner F_PERM. NSTAT pops the oldest completion, or reads its stamp or an entry's word 1 or
ARR (R341, R343, R344). -/
def Obligations.NetworkInstructionEffects : Prop :=
  ∀ (e : At) (sd sa : SReg) (slot : Slot) (nm1 : Bits4) (sem : SemR) (a : Word),
    e.s.cur = some (e.c, e.k) → e.sGet sa = (a, false) →
    let d := coreDie e.c
    let ix := a.toNat % 2 ^ 14
    let len := a.toNat / 2 ^ 16 % 2 ^ 16
    let k := max 1 ((len + 16383) / 16384)
    let ready (n : Nat) : Prop := ∀ j, j < n → slot.toNat + j < 256 ∧ (e.x.tile (slot.toNat + j)).owner = some e.k
      ∧ (e.x.tile (slot.toNat + j)).st = .ready
    let x := e.s.steerAt d ix
    let out (v : Word) : State := e.fly 3 (.s sd v false)
    let entry (f : SteerSt → Word) : Word := if steerNames x e.c then f x else 0
    (∀ b, (e.s.die d).binds.find ix = some b → b.func = e.q.func → b.session.toNat = bSession e.q.billet → ready k →
      ∃ t, Effects (.nsend sa slot sem) e.s t ∧ t.mem = e.s.mem ∧ (t.seat e.c e.k).ecnt = e.q.ecnt + 1
        ∧ (let data := bytesFrom e.x.granRow (16384 * slot.toNat) len
           let bad := ∃ p ∈ data, p.2 = true
           let nothing (code : Bits16) : Prop := t.out = e.s.out
             ∧ (t.seat e.c e.k).inc = (if sem = 0 then e.q.inc else e.q.inc ++ [(sem, 1)])
             ∧ (e.q.ecq.length < 16 → (t.seat e.c e.k).ecq
                 = e.q.ecq ++ [⟨BitVec.ofNat 64 (code.toNat + e.q.ecnt % 2 ^ 16 * 2 ^ 16), 0⟩] ∧ (t.seat e.c e.k).elost = e.q.elost)
             ∧ (16 ≤ e.q.ecq.length → (t.seat e.c e.k).ecq = e.q.ecq ∧ (t.seat e.c e.k).elost = true)
           (bad → nothing fPoison) ∧ (¬ bad → e.s.portDown d b = true → nothing fLink)
           ∧ (¬ bad → e.s.portDown d b = false → (t.seat e.c e.k).ecq = e.q.ecq
               ∧ t.out = e.s.out ++ [.frame d ix (bClass e.q.billet + 1) (data.map Prod.fst)]))
        ∧ ∀ j, j < k → ((t.core e.c).tile (slot.toNat + j)).pinE = true)
    ∧ (e.s.sure = false → (e.s.die d).binds.find ix = none → ∃ r, Raises (.nsend sa slot sem) e ⟨r, 3, fBus, 0, none⟩)
    ∧ (e.s.sure = false → ∀ b, (e.s.die d).binds.find ix = some b → b.func ≠ e.q.func →
        ∃ r, Raises (.nsend sa slot sem) e ⟨r, 3, fPerm, 0, none⟩)
    ∧ ((Instr.npost sa slot nm1 sem).wf = true → x.w0.getLsbD 0 = true → steerNames x e.c = true →
        e.q.plv = true ∨ ix / 2 = bSession e.q.billet → ready (nm1.toNat + 1) → x.land = none →
        (∀ j, j ≤ nm1.toNat → (e.x.tile (slot.toNat + j)).pins = 0) →
        let h : Held := .post e.c e.k (bInst e.q.billet) ix slot.toNat (nm1.toNat + 1) sem
        Effects (.npost sa slot nm1 sem) e.s { e.s with held := e.s.held ++ [(e.s.cyc + 2, h)] }
        ∧ ∀ u : State, (u.seat e.c e.k).of (bInst e.q.billet) = true →
          let t := u.pass h
          t.mem = u.mem
          ∧ (let y := t.steerAt d ix
             y.w0.extractLsb' 16 8 = slot ∧ y.w0.extractLsb' 24 4 = nm1 ∧ y.w1.getLsbD 16 = true ∧ y.w1.getLsbD 17 = false
               ∧ y.post = some (e.c, e.k, sem))
          ∧ ∀ j, j ≤ nm1.toNat → ((t.core e.c).tile (slot.toNat + j)).st = .filling
              ∧ ((t.core e.c).tile (slot.toNat + j)).armed = true)
    ∧ ((Instr.npost sa slot nm1 sem).wf = true → e.s.sure = false → x.w0.getLsbD 0 = false →
        ∃ r, Raises (.npost sa slot nm1 sem) e ⟨r, 3, fBus, 0, none⟩)
    ∧ ((Instr.npost sa slot nm1 sem).wf = true → e.s.sure = false → x.w0.getLsbD 0 = true → steerNames x e.c = false →
        ∃ r, Raises (.npost sa slot nm1 sem) e ⟨r, 3, fPerm, 0, none⟩)
    ∧ (e.q.ecq = [] → Effects (.nstatE sd) e.s ((out (BitVec.ofNat 64 (e.q.elost.toNat * 2 ^ 32))).modSeat e.c e.k fun q =>
        { q with elost := false }))
    ∧ (∀ g r, e.q.ecq = g :: r → Effects (.nstatE sd) e.s
        ((out (BitVec.ofNat 64 (g.word.toNat + e.q.elost.toNat * 2 ^ 32 + 2 ^ 33))).modSeat e.c e.k fun q =>
          { q with ecq := r, elost := false, estamp := g.stamp }))
    ∧ Effects (.nstatT sd) e.s (out e.q.estamp)
    ∧ Effects (.nstatI sd sa) e.s (out (entry fun x => x.w1))
    ∧ Effects (.nstatA sd sa) e.s (out (entry fun x => x.arr))

/-! ### Events of a core -/

/-- Events of a core's sequencer and seats: a pending cause and F_STEPGAP enter the handler; a switch point gives the core to the
designated seat; a billet starts a strand with its registers; requests, kills, releases, saves and designation change what R168,
R169, R323, R328 and R329 say; results for which nothing waits land, those of loads with the bytes of their answer, or fail as 0 with
their tag and bring their cause once ETMO has expired or a link is down (R419); a frozen core goes on with the answer to its fetch or its
load; the row of a debug read has no result on its way (R31, R55, R59, R94, R102, R153, R173). -/
def Obligations.SeatEvents : Prop :=
  ∀ (s : State) (c : CoreId) (k : SeatId),
    let x := s.core c
    let q := s.seat c k
    let next (i : Instr) (p : State → Prop) : Prop := ∃ t, exec i s = .next t ∧ p t
    let same (i : Instr) : Prop := exec i s = .next s
    (∀ a r, x.issuing = some k → x.mayIssue = true → q.pending s.cyc = true → x.filling k = false → q.pend = a :: r →
      next (.asyncCauseTake c) fun t => t.mem = s.mem ∧ (let z := t.seat c k
        z.pc = q.tvec ∧ z.epc = q.pc ∧ z.tval = a.tval ∧ z.plv = true ∧ z.pend = r ∧ z.act = true
        ∧ z.tcause.extractLsb' 0 16 = a.code ∧ z.tcause.extractLsb' 16 3 = a.src))
    ∧ (x.issuing = some k → x.mayIssue = true → q.pending s.cyc = false → q.act = false → 4096 ≤ q.gap → x.asked k = false →
      next (.stepgap c) fun t => t.mem = s.mem ∧ (let z := t.seat c k
        z.pc = q.tvec ∧ z.epc = q.pc ∧ z.gap = 0 ∧ z.tval = q.stepNo.setWidth 64 ∧ z.tcause.extractLsb' 0 16 = fStepgap))
    ∧ (∀ n, x.swp = true ∨ x.issuing = none → ctlNxt x.ctl = some n → (x.seatAt n).st = .resident →
      next (.seatSwitch c) fun t => t.mem = s.mem ∧ (t.seat c n).st = .issuing ∧ (t.core c).swp = false
        ∧ (t.core c).busy = (if x.busy = 0 then 6 else x.busy) ∧ ∀ j, x.issuing = some j → (t.seat c j).st = .resident)
    ∧ (∀ (idx : Bits8) v n, q.vres[idx.toNat]? = some v → v.dest = .s n → n ≠ 0 → (∀ w ∈ q.vres, v.id ∉ w.after) →
      let lands (i : Instr) (got : Word) (tag : Bool) (p : SeatSt → Prop) : Prop := next i fun t => t.mem = s.mem ∧ (let z := t.seat c k
        z.vres = q.vres.eraseIdx idx.toNat ∧ z.sr.val 0 n.toNat = got ∧ z.sTag.getLsbD n.toNat = tag ∧ p z
        ∧ (v.sem ≠ 0 → (z.sem v.sem).toNat = min 255 ((q.sem v.sem).toNat + 1)))
      (s.mayLand c v = true → v.todo = none → v.remote = false → v.kind ≠ .qpush →
        lands (.resultLanding c k idx none FarAns.none) (v.data.setWidth 64) (v.tags.getLsbD 0) fun _ => True)
      ∧ (∀ l a, v.sent = true → v.kind = .load ∨ v.kind = .lds → v.todo = some (.load l) → a.err = none →
        let b := s.gather v l a
        lands (.resultLanding c k idx none a) (widen v.key (leNat (b.map Prod.fst))) (b.any Prod.snd) fun _ => True)
      ∧ (v.away = true → v.kind.isMem = true → (v.kind = .lds → v.key ≠ 8) → s.linkGone v.ck = true →
          (∀ p, v.todo ≠ some (.push p)) → (∀ p, v.todo ≠ some (.pop p)) →
          lands (.errorResponse c k idx ⟨[], [], some .link, 0, false⟩) 0 true fun z =>
          ∃ a ∈ z.pend, a.code = fLink ∧ a.tval = v.addr ∧ a.src = 4))
    ∧ (∀ a, next (.loadMissFill (c, a)) fun t => (t.core c).freeze = false ∧ t.mem = s.mem ∧ (t.core c).seat = x.seat
        ∧ ∀ f, x.fill = some f → (t.core c).fill = some (if f.code = some none then { f with code := some (some a) }
            else { f with load := f.load.map fun b => some (b.getD a) }))
    ∧ (∀ b i ix l, q.st = .empty → bV b = true → s.removed c = false → x.refuses k b = none → s.instAt (coreDie c) (bInst b) = some i →
        i.index i.tsk.desc c = some ix → i.unbound ix = true → i.st ≠ .ended → bMode b = false → i.saved = [] →
        s.pickSlots c i.tsk.desc none = some l → s.pkg.supply = false → s.keptFrom c k (bInst b) = false →
        s.residentAt i.tsk.desc c = true →
      next (.billetWrite c k b) fun t => t.mem = s.mem ∧ (let z := t.seat c k
        z.st = .wake ∧ z.billet = b ∧ z.pc = BitVec.ofNat 64 (tdEntry i.tsk.desc (bGrade b)) &&& ~~~31 ∧ z.plv = bPlv b
        ∧ z.tvec = bTvec b &&& ~~~31 ∧ z.sr.val 0 1 = BitVec.ofNat 64 ix ∧ z.sr.val 0 3 = BitVec.ofNat 64 (bGrade b)
        ∧ z.sTag = 0 ∧ z.ar.val 0 0 = bDesc b ∧ z.ar.val 0 1 = i.param ∧ z.w = [] ∧ z.fcr = 0 ∧ z.lc = 0 ∧ z.tcause = 0))
    ∧ (∀ b, q.st ≠ .empty ∨ bV b = false → same (.billetWrite c k b))
    ∧ (q.st = .ended ∨ q.st = .halted → next (.billetRelease c k) fun t => (t.seat c k).st = .empty
        ∧ bV (t.seat c k).billet = false)
    ∧ (q.st = .wake → next (.seatWakeDone c k) fun t => t = s.modSeat c k fun q => { q with st := .resident })
    ∧ (x.saveReady k = true → next (.checkpointSaveDone c k) fun t => (t.seat c k).st = .empty
        ∧ bV (t.seat c k).billet = false)
    ∧ (∀ n nv, s.choice c = (if nv then some n else none) → next (.designate c n nv) fun t =>
        ctlNxt (t.core c).ctl = (if nv then some n else none) ∧ (∀ j, ctlPrq (t.core c).ctl j = ctlPrq x.ctl j)
        ∧ (t.core c).seat = x.seat ∧ t.mem = s.mem)
    ∧ (∀ n nv, s.choice c ≠ (if nv then some n else none) → same (.designate c n nv))
    ∧ (q.st ≠ .empty → ∀ i v, (i = .prqKill c k ∧ v = 1 ∨ i = .prqCheckpoint c k ∧ v = 2 ∨ i = .prqDrain c k ∧ v = 3) →
        next i fun t => ctlPrq (t.core c).ctl k = v ∧ (∀ j, j ≠ k → ctlPrq (t.core c).ctl j = ctlPrq x.ctl j)
          ∧ (t.core c).seat = x.seat ∧ t.mem = s.mem)
    ∧ (q.st ≠ .empty → s.overdue c k 1 = true → next (.forcedKill c k) fun t => (t.seat c k).st = .empty
        ∧ ctlPrq (t.core c).ctl k = 0)
    ∧ (q.st ≠ .empty → s.overdue c k 2 = true → s.mayKill (coreDie c) (bInst q.billet) = true →
        next (.ckptRequestTimeout c k) fun t => ctlPrq (t.core c).ctl k = 1 ∧ t.mem = s.mem)
    ∧ (∀ v, next (.rowPowerWrite c v) fun t => t.mem = s.mem ∧ (t.core c).seat = x.seat ∧ ∀ g, g < 32 →
        let u := v.toNat / 2 ^ (2 * g) % 4
        let old := x.gs.toNat / 2 ^ (2 * g) % 4
        let kept := u = 3 ∨ u ≠ 0 ∧ x.groupUsed g = true
        ((t.core c).gs.toNat / 2 ^ (2 * g) % 4 = if kept then old else u)
        ∧ ∀ r, r / 64 = g → (t.core c).row r = if ¬ kept ∧ (u = 2 ∨ old = 2) then .zero else x.row r)
    ∧ (∀ r : Bits11, x.gs.toNat / 2 ^ (2 * (r.toNat / 64)) % 4 ≠ 2 →
        (x.rowOpen r.toNat = false → next (.debugRowRead c r) fun t => t.mem = s.mem ∧ (t.core c).vrf = x.vrf
          ∧ ∃ st, t.out = s.out ++ [.debugRow c r (x.row r.toNat).d (x.row r.toNat).t st])
        ∧ ∀ data tags, next (.debugRowWrite c r data tags) fun t => t.mem = s.mem ∧ (t.core c).row r.toNat = ⟨data, tags⟩
            ∧ ∀ j, j ≠ r.toNat → (t.core c).row j = x.row j)

/-- Events of an engine queue's entry: its gates open in order; the unit chooses, in a ck after that in which it ended a command;
leave is granted; the block is read and tested once, also with what another device answers (R180 to R186, R200, R260). An entry that
has missed its stamp opens none of them (R184).

A step of the matrix engine whose checks pass and for whose slots nothing waits starts, and each row that it computes is to be written
in its ck; a step that reads memory, the window or the granary starts and holds its source bytes until its end, its slots FILLING or
DRAINING (R201 to R213, R220, R231 to R236).

The end of a step writes what it has read and advances the counter; the last one, once its writes have been performed, frees the entry
and signals its token. A missed stamp leaves the entry FAULTED, and so does a late write failure, after the running step (R13,
R180, R184, R203, R233, R234, R237). The entry's seat is not being saved. -/
def Obligations.EngineEvents : Prop :=
  ∀ (s : State) (c : CoreId) (q : EngQ) (ix : EntIdx) (f : Entry),
    let n := engNo q
    let x := s.core c
    let r := s.seat c f.seat
    x.ent n ix = some f → r.st ≠ .out →
    let then' (i : Instr) (p : State → Entry → Prop) : Prop :=
      ∃ t g, exec i s = .next t ∧ (t.core c).ent n ix = some g ∧ p t g
    let head := f.st = .head ∧ f.since < s.cyc ∧ f.drop = false ∧ f.missed s.cyc = false
    let who := s.whoEng c f
    let lead := if n = 2 then 16 else 8
    (head → f.pace = false → (∀ m ∈ f.queues n, ∀ t, r.paceAt m = some t → pace r.billet m ≤ s.cyc - t) →
      then' (.pacingOpen c q ix) fun t g => g = ({ f with pace := true, gateAt := s.cyc } : Entry).aged n s.cyc ∧ t.mem = s.mem)
    ∧ (head → f.pace = true → f.token = false →
      (f.wt = 0 → then' (.waitTokenConsume c q ix) fun t g => g.token = true ∧ (t.seat c f.seat).w = r.w)
      ∧ (f.wt ≠ 0 → r.sem f.wt ≠ 0 → s.tokenTurn c f n = true → then' (.waitTokenConsume c q ix) fun t g => g.token = true
          ∧ (t.seat c f.seat).sem f.wt = r.sem f.wt - 1 ∧ t.mem = s.mem)
      ∧ (f.wt ≠ 0 → r.sem f.wt = 0 ∨ s.tokenTurn c f n = false → exec (.waitTokenConsume c q ix) s = .next s))
    ∧ (head → f.pace = true → f.token = true → f.stampOk = false →
      (f.stamped = false ∨ f.stamp.toNat ≤ s.cyc + lead → then' (.stampGateOpen c q ix) fun t g =>
        let at0 := if f.stamped = false ∨ f.stamp.toNat ≤ f.gateAt + lead then f.gateAt else s.cyc
        g = ({ f with stampOk := true, gateAt := at0 } : Entry).aged n at0 ∧ t.mem = s.mem)
      ∧ (f.stamped = true → s.cyc + lead < f.stamp.toNat → exec (.stampGateOpen c q ix) s = .next s))
    ∧ ((∀ p ∈ x.queue n, p.2.holds n = false) → x.choice n s.cyc = some (ix.toNat, f) → n = 2 ∨ f.whole = false →
      (x.unitAt.val 0 n < s.cyc → then' (.unitChoice c q) fun t g =>
        g.st = .selected ∧ g.seat = f.seat ∧ g.stepc = f.stepc ∧ t.mem = s.mem)
      ∧ (s.cyc ≤ x.unitAt.val 0 n → exec (.unitChoice c q) s = .next s))
    ∧ (∀ d col l, firstReq (s.leaveReqs d col) = some l → l.core = c → l.n = n → l.ix = ix.toNat → col < 8 →
      f.lreq.getD s.cyc + 8 ≤ s.cyc →
      s.granted d col + l.units ≤ s.budgetOf d col → then' (.leaveGrant d (BitVec.ofNat 3 col)) fun t g =>
        g = ({ f with leave := true } : Entry).aged n s.cyc ∧ t.mem = s.mem)
    ∧ (f.st = .selected → f.blk = none → f.missed s.cyc = false → s.blockMay c f = true → ∀ ans,
      let reads := then' (.paramBlockReadDone c q (ix, ans))
      (∀ l, s.span who .read f.pba.toNat 256 = .ok l →
        (isFar l = true → f.asked = false → reads fun t g => g.asked = true ∧ g.blk = none ∧ g.st = .selected ∧ t.mem = s.mem)
        ∧ (isFar l = false ∨ f.asked = true ∧ farFault ans f.pba.toNat = none →
          let b := (farFill ans (farParts l 0) (s.nearBytes l)).map Prod.fst
          (blkBad f.opc.toNat f.q.toNat (r.rw * r.rh) b = none → reads fun t g =>
            g.blk = some b ∧ g.nstep = BitVec.ofNat 32 (blkSteps b) ∧ g.st = .selected ∧ t.mem = s.mem)
          ∧ ∀ o, blkBad f.opc.toNat f.q.toNat (r.rw * r.rh) b = some o → reads fun t g =>
            g.st = .faulted ∧ g.fcode = fBus ∧ g.fval = BitVec.ofNat 64 (f.pba.toNat + o) ∧ t.mem = s.mem)
        ∧ ∀ v, isFar l = true → f.asked = true → farFault ans f.pba.toNat = some v → reads fun _ g =>
            g.st = .faulted ∧ g.fcode = v.1 ∧ g.fval = v.2)
      ∧ ∀ e, s.span who .read f.pba.toNat 256 = .bad e → reads fun _ g =>
          g.st = .faulted ∧ g.fcode = e.code ∧ g.fval = BitVec.ofNat 64 e.va)
    ∧ (∀ b k, f.blk = some b → f.nextStep n s.cyc = some k → f.st = .running ∨ f.busy = false →
      x.stopped = false → s.pkg.supply = false →
      let e := { f with stepc := BitVec.ofNat 32 k }
      let starts (op : Nat) (i : Instr) (p : State → Entry → Prop) : Prop := f.opc.toNat = op → then' i fun t g =>
        t.mem = s.mem ∧ g.st = .running ∧ g.busy = true ∧ g.stepc = f.stepc
        ∧ (if f.busy then ∃ a, g.ahead = f.ahead ++ [a] ∧ a.at0 = s.cyc else g.run.at0 = s.cyc) ∧ p t g
      let len := field b 8 4
      let src := addr64 b 16 0 k
      let fc := fcrOf f.fcr
      let u := f.unit n
      s.stepBad c e b = none →
      (f.dst = [] → s.slotWaits c e b = [] →
        let cb := addr32 b 16 2 k
        let ck (i : Nat) : Nat := rowTime b * i / 2
        let row (i : Nat) : Row := x.rowAt e s.free u (s.cyc + 20 + ck i) (cb + i)
        let writes (t : State) (at0 phys lane v : Nat) : Prop := ∃ w ∈ (t.core c).ewr, w.at0 = at0 ∧ w.gran = false
          ∧ w.row = phys ∧ (∀ z, z < 32 → w.mask.getLsbD (32 * lane + z) = true) ∧ laneOf ⟨w.data, 0⟩ lane = v
        starts 0x01 (.mmaStep c q ix) (fun t _ => ∀ i j, i < 128 → j < colsOf f.q.toNat →
            let lane := lane0Of f b + j
            writes t (s.cyc + 23 + ck i) (r.phys (cb + i)) lane
              (mmaLane fc (if blkFlag b 1 && firstK b k then 0 else laneOf (row i) lane)
                (aRow fc (tyOfCode (field b 1 1)) (x.tileRows e s.free u (blkFlag b 0) (addr32 b 8 0 k) (s.cyc + 4 + ck i))
                  (x.rowAt e s.free u s.cyc) (addr32 b 20 3 k) i)
                (bCol x fc (tyOfCode (field b 2 1)) (addr32 b 12 1 k) (addr32 b 24 4 k) (arrayRow f j)) % 2 ^ 32))
        ∧ starts 0x02 (.mmadStep c q ix) (fun t _ => (t.core c).ewr = x.ewr ++ (mmadStep x e b s.free s.cyc u).wr)
        ∧ starts 0x04 (.mepiStep c q ix) (fun t _ => (t.core c).ewr = x.ewr ++ (mepiStep x e b s.free s.cyc u).wr)
        ∧ starts 0x03 (.mzeroStep c q ix) (fun t _ => ∀ i j, i < min 128 (f.zrows - 128 * k) → j < colsOf f.q.toNat →
            writes t (s.cyc + i / 8) (r.phys (f.zrow + 128 * k + i)) ((if f.whole || !f.zlh then 0 else 128) + j) 0)
        ∧ (r.recent = [] →
          (∀ l, s.span who .read (addr64 b 224 0 k % 2 ^ 57) 16384 = .ok l → isFar l = false →
            starts 0x06 (.wloadStep c q ix) fun _ g => g.buf = s.nearBytes l ∧ g.far = none)
          ∧ (n = 2 →
            (∀ l, s.span who .read (src % 2 ^ 57) len = .ok l → isFar l = false →
              (blkFlag b 0 = false → f.redo.2 ≤ k → starts 0x10 (.txferStep c ix) fun _ g => g.buf = s.nearBytes l ∧ g.far = none)
              ∧ starts 0x11 (.tfillStep c ix) fun t g => g.buf = s.nearBytes l ∧ g.far = none
                  ∧ ∀ m ∈ writeSlots (e.ranges b k), ((t.core c).tile m).st = .filling)
            ∧ (blkFlag b 0 = true → starts 0x10 (.txferStep c ix) fun _ g =>
                g.buf = bytesFrom (x.engRow e s.free) src len ∧ g.far = none)
            ∧ starts 0x12 (.tdrainStep c ix) fun t g => g.buf = bytesFrom (x.engGran e s.free) (1024 * src) len ∧ g.far = none
                ∧ ∀ m ∈ readSlots (e.ranges b k), ((t.core c).tile m).st = .draining)))
      ∧ (n = 2 → f.chk ≠ some k →
        (s.checked c n ix.toNat e b).slotWaits c { e with dst := s.mcastDst c e b } b = [] →
        starts 0x13 (.tmcastStep c ix) fun _ g => g.dst = s.mcastDst c e b))
    ∧ (∀ b ans, f.blk = some b → f.st = .running → f.busy = true → f.far = none → f.drop = false → f.flush = false → f.lwf = none →
      f.fail = none → f.recs = [] → f.toHost f.buf = false →
      let y := x.landRows (s.cyc - 1)
      (y.stepOver n f s.cyc = false → exec (.stepEnd c q (ix, ans)) s = .next (s.modCore c fun x => x.landRows (s.cyc - 1)))
      ∧ (y.stepOver n f s.cyc = true →
        let dst := addr64 b 24 1 f.stepc.toNat
        let away := anySeg f.segs fun z => isFab z.pa
        let wrote (t : State) : Prop :=
          (f.opc.toNat < 5 → (t.core c).vrf = y.vrf ∧ (t.core c).gran = y.gran)
          ∧ (f.opc = 0x06 → (t.core c).wel = (wloadStep y f b f.buf).wel ∧ (t.core c).wsc = (wloadStep y f b f.buf).wsc)
          ∧ (f.opc = 0x10 → blkFlag b 1 = true → (t.core c).vrf = (y.putWindow f.seat dst f.buf).vrf)
          ∧ (f.opc = 0x11 → (t.core c).gran = (y.putGran (1024 * dst) f.buf).gran)
        let stored (t : State) : Prop :=
          (f.toMem b = false → t.mem = s.mem) ∧ (f.toMem b = true → t.mem = (s.storeMarked f.segs f.buf).mem)
        let near (va n : Nat) : Prop := ∀ l, s.span who .write va n = .ok l → remote l = false
        (f.stepc.toNat + 1 < f.nstep.toNat → then' (.stepEnd c q (ix, ans)) fun t g =>
          g.stepc = f.stepc + 1 ∧ g.busy = !f.ahead.isEmpty ∧ g.st = .running ∧ wrote t ∧ stored t
          ∧ g.wout = if ans.perf then [] else f.wout ++ (if away then [f.stepc.toNat] else []))
        ∧ (f.nstep.toNat ≤ f.stepc.toNat + 1 → ans.perf = true ∨ f.wout = [] ∧ away = false →
          (f.opc ≠ 0x13 → blkStpa b = 0 ∨ f.toMem b = false ∧ near (blkStpa b) 32 →
            ∃ t, exec (.stepEnd c q (ix, ans)) s = .next t ∧ wrote t ∧ (blkStpa b = 0 → stored t)
              ∧ (t.core c).ent n ix = none ∧ (f.sg ≠ 0 → (f.sg, 1) ∈ (t.seat c f.seat).inc))
          ∧ (f.opc = 0x13 → n = 2 → blkStpa b = 0 → near (field b 184 8) 64 → (∃ p ∈ f.dst, p.2 ≠ 1) →
              then' (.stepEnd c q (ix, ans)) fun _ g => g.st = .faulted ∧ g.fcode = fMcast))))
    ∧ (let at0 := max (f.stamp.toNat + f.slk.toNat + 1) f.since
       f.stamped = true → f.st = .queued ∨ f.st = .head ∨ f.st = .selected → f.drop = false → at0 ≤ s.cyc →
        then' (.stampMiss c q ix) fun t g => g.st = .faulted ∧ g.fcode = fSmiss ∧ t.mem = s.mem
          ∧ g.fval.toNat % 2 ^ 32 = (at0 - f.stamp.toNat) % 2 ^ 32)
    ∧ (∀ step addr link, f.drop = false →
      (f.wout.contains step.toNat = false ∨ link = true ∧ s.linkGone (f.start.getD 0) = false →
        exec (.lateWriteFailure c q ix step addr link) s = .next s)
      ∧ (f.wout.contains step.toNat = true → (link = true → s.linkGone (f.start.getD 0) = true) →
        then' (.lateWriteFailure c q ix step addr link) fun t g =>
          let code := if link then fLink else fBus
          let val := BitVec.ofNat 64 (addr.toNat % 2 ^ 57)
          let running := f.st = .running ∧ f.busy = true
          (link = true → t.mem = s.mem)
          ∧ (running → g.st = .running ∧ g.stepc = f.stepc ∧ g.lwf = match f.lwf with
            | some v => if v.1 ≤ step.toNat then some v else some (step.toNat, code, val)
            | none => some (step.toNat, code, val))
          ∧ (f.st ≠ .faulted → ¬ running → g.st = .faulted ∧ g.stepc = step ∧ g.fcode = code ∧ g.fval = val)
          ∧ (f.st = .faulted → g.st = .faulted ∧ g.stepc = BitVec.ofNat 32 (min f.stepc.toNat step.toNat))))

/-! ### Events of the queue unit, the barrier units, the stewards and the margin controllers -/

/-- The queue unit grants a request that may be granted, publishes what is written, takes a remote payload that has room with its
credit and its acknowledgement, and lets a wait end in F_QWAIT (R239 to R241, R421, R422); a barrier unit creates, counts, completes
and fails records and answers arrivals; in the second phase of a ck it answers the waits whose phase is reached and keeps the others
(R268 to R271, R280). A message of an instance with no strand left changes no record (R268). -/
def Obligations.UnitEvents : Prop :=
  ∀ (s : State) (c : CoreId) (k : SeatId) (d : DieId) (clu : Bits3) (ix : Bits8) (n : Bits12),
    let next (i : Instr) (p : State → Prop) : Prop := ∃ t, exec i s = .next t ∧ p t
    let same (i : Instr) : Prop := exec i s = .next s
    let x := s.core c
    let q := x.seatAt k
    let u := s.cluster d clu.toNat
    (x.issuing = some k →
      ((∃ e : DieId, s.grantable e c k = true) → next (.queueGrant c) fun t =>
        t.mem = s.mem ∧ t.seat c k = { q with grant := true } ∧ ∀ j, j ≠ k → t.seat c j = s.seat c j)
      ∧ ((∀ e : DieId, s.grantable e c k = false) → same (.queueGrant c)))
    ∧ (x.issuing = none → same (.queueGrant c) ∧ same (.qwaitExpiry c))
    ∧ (∀ v, s.queue? d n.toNat = some v → (∀ r ∈ (s.die d).qreq, r.qnum = n → r.push = true → s.stands r = false) →
        v.mirror = none →
      next (.packetPublish d n) fun t => t.mem = s.mem ∧ ∃ w, t.queue? d n.toNat = some w ∧ w.tail = v.tail
        ∧ ((∀ r ∈ v.recs, r.wait = false) → ∀ r ∈ w.recs, r.pub = true)
        ∧ (∀ r l, v.recs = r :: l →
            (r.wait = true → r.pad = false → w.recs = v.recs ∧ w.head = v.head)
            ∧ (r.wait = false → r.pad = true → r.cells % 2 ^ 24 ≠ 0 →
                w.head = v.head + BitVec.ofNat 24 r.cells ∧ w.recs.length = l.length)
            ∧ (r.pad = false → w.head = v.head ∧ w.recs.length = l.length + 1)))
    ∧ (∀ v r l, s.queue? d n.toNat = some v → (s.die d).qreq = r :: l → r.remote = true → r.qnum = n → r.push = true →
        v.canPush r.cells = true →
      next (.packetPublish d n) fun t => Out.creditReturn r.dev ∈ t.out
        ∧ (r.ack = true → Out.queueAck r.dev r.origin
            (BitVec.ofNat 64 ((v.tail.toNat + v.pad (recCells r.payload.length)) % 2 ^ 24)) r.cls ∈ t.out))
    ∧ (∀ h b l ws wk ia is i w sa, x.issuing = some k → q.hold = some h → s.fetch c k = .bundle b l →
        decodeBundle b = .ok ws wk ia is i → queueOf i = some (w, sa) → x.mayIssue = true → q.pending s.cyc = false →
        q.grant = false → s.hasCredit (q.sr.val 0 sa.toNat) = false → h + w.toNat < s.cyc → q.act = false →
      next (.qwaitExpiry c) fun t => t.mem = s.mem ∧ (let z := t.seat c k
        z.pc = q.tvec ∧ z.epc = q.pc ∧ z.plv = true ∧ z.act = true ∧ z.hold = none
        ∧ z.tcause.extractLsb' 0 16 = fQwait ∧ z.tcause.extractLsb' 20 4 = 3
        ∧ z.tval = BitVec.ofNat 64 (s.expireVal (q.sr.val 0 sa.toNat))))
    ∧ (∀ h b l ws wk ia is i w sa, x.issuing = some k → q.hold = some h → s.fetch c k = .bundle b l →
        decodeBundle b = .ok ws wk ia is i → queueOf i = some (w, sa) → s.cyc ≤ h + w.toNat → same (.qwaitExpiry c))
    ∧ (∀ m, s.barNext d clu.toNat .init ix.toNat = some m → s.barLive d m = true →
        (next (.barrierInit d clu (ix, false)) fun t => t.mem = s.mem ∧ t.cores = s.cores ∧ (let z := t.cluster d clu.toNat
          z.bmsg = u.bmsg.eraseIdx ix.toNat ∧ z.bwait = u.bwait
          ∧ (∀ r, u.bars.find? (fun r => r.keyed m) = some r → z.bars.find? (fun r => r.keyed m) = some r)
          ∧ (u.bars.find? (fun r => r.keyed m) = none →
              z.bars = u.bars ++ [⟨m.inst, m.bid, m.cx, m.cy, 0, m.e, 0, false, 0, 0⟩])))
        ∧ next (.barrierInit d clu (ix, true)) fun t =>
          ∃ z, (t.cluster d clu.toNat).bars.find? (fun r => r.keyed m) = some z ∧ z.failed = true)
    ∧ (∀ m, s.barNext d clu.toNat .arrive ix.toNat = some m → s.barLive d m = true →
        let r := u.record m
        let ans (t : State) (v : Word) : Prop := ∀ y z, (s.seat m.core m.seat).vres = [y] → y.kind = .bara → y.key = m.key →
          (t.seat m.core m.seat).vres = [z] → z = { y with ready := true, data := v.setWidth 8192 }
        (r.failed = false → next (.barrierArrival d clu ix false) fun t =>
          let last := r.a + 1 = r.e
          let r' : BarRec := if last then { r with p := r.p + 1, a := 0 } else { r with a := r.a + 1 }
          let z := t.cluster d clu.toNat
          t.mem = s.mem ∧ z.bmsg = u.bmsg.eraseIdx ix.toNat ∧ z.bwait = u.bwait
          ∧ z.bars.find? (fun r => r.keyed m) = some { r' with at0 := s.cyc, lastIx := m.sidx }
          ∧ ans t (BitVec.ofNat 64 (r.p.toNat + (if last then 2 ^ 16 else 0))))
        ∧ (r.failed = true → next (.barrierArrival d clu ix false) fun t =>
          t.mem = s.mem ∧ (t.cluster d clu.toNat).bars.find? (fun r => r.keyed m) = some r ∧ ans t (BitVec.ofNat 64 (2 ^ 63)))
        ∧ next (.barrierArrival d clu ix true) fun t =>
          (∃ z, (t.cluster d clu.toNat).bars.find? (fun r => r.keyed m) = some z ∧ z.failed = true)
          ∧ ans t (BitVec.ofNat 64 (2 ^ 63)))
    ∧ (∀ m, s.barNext d clu.toNat .wait ix.toNat = some m → s.barLive d m = true →
        (next (.barrierWaitRequest d clu (ix, false)) fun t => t.mem = s.mem ∧ t.cores = s.cores ∧ (let z := t.cluster d clu.toNat
          z.bars.find? (fun r => r.keyed m) = some (u.record m) ∧ z.bwait = u.bwait ++ [m] ∧ z.bmsg = u.bmsg.eraseIdx ix.toNat))
        ∧ next (.barrierWaitRequest d clu (ix, true)) fun t =>
          ∃ z, (t.cluster d clu.toNat).bars.find? (fun r => r.keyed m) = some z ∧ z.failed = true)
    ∧ (∀ m, m ∈ u.bwait →
        let met := (u.record m).failed = true ∨ ((u.record m).p - m.phase).toNat < 32768
        let v : Word := if (u.record m).failed then BitVec.ofNat 64 (2 ^ 63) else (u.record m).p.setWidth 64
        (u.bars.any (fun r => r.keyed m) = true → ¬ met → m ∈ (s.answerBars.cluster d clu.toNat).bwait)
        ∧ (u.bars.any (fun r => r.keyed m) = true → met → m ∉ (s.answerBars.cluster d clu.toNat).bwait
          ∧ ∀ y, (s.seat m.core m.seat).vres = [y] → y.kind = .barw → y.key = m.key →
            (∀ p ∈ s.clusters, ∀ w ∈ p.2.bwait, w.core = m.core → w.seat = m.seat → w.key = m.key → p.2.answerOf w = some v) →
            (s.answerBars.seat m.core m.seat).vres = [{ y with ready := true, data := v.setWidth 8192 }]))
    ∧ (∀ kind i, (∀ e, i = .barrierInit d clu (ix, e) → kind = .init) → (∀ e, i = .barrierArrival d clu ix e → kind = .arrive) →
        (∀ e, i = .barrierWaitRequest d clu (ix, e) → kind = .wait) →
        (∃ e, i = .barrierInit d clu (ix, e) ∨ i = .barrierArrival d clu ix e ∨ i = .barrierWaitRequest d clu (ix, e)) →
        (s.barNext d clu.toNat kind ix.toNat = none → same i)
        ∧ ∀ m, s.barNext d clu.toNat kind ix.toNat = some m → s.barLive d m = false →
            next i fun t => t.mem = s.mem ∧ t.cores = s.cores ∧ (t.cluster d clu.toNat).bars = u.bars)

/-- A request that reaches a steward through its inbox, a strand's or the head steward's, is answered with STATUS 0 and has its effect
where its operands are in range and its sender may ask it, and is answered with STATUS 1 and changes nothing else otherwise; an unknown
type is answered with STATUS 2. CNT writes in the sender's space, and the event of a strand's CNT names no other space. An invalidation in
progress holds the next one, and ends with no matching translation left on the die and every other one kept; a failed steward's cluster is
held at FLOOR 7 (R186, R216, R253, R254, R266, R267, R277, R279, R280). -/
def Obligations.StewardEvents : Prop :=
  ∀ (s : State) (d : DieId) (clu : Bits3) (h : Bool) (co : Bits16) (sq : Imm32),
    let k := clu.toNat
    let c := coreOfField co.toNat
    let u := s.cluster d k
    let mine := inCluster d k co = true
    let replies (i : Instr) (status : Nat) (p : State → Prop) : Prop := ∃ t, exec i s = .next (t.reply d k co sq status) ∧ p t
    let next (i : Instr) (p : State → Prop) : Prop := ∃ t, exec i s = .next t ∧ p t
    let taken (ty : Nat) (body : List Byte) (z : State) (who : Option (FuncId × Bits12 × Nat)) : Prop :=
      s.inbox d k h ty co sq body = .ok (z, who)
    (∀ z who fn an dst un cl, taken 1 (cntBody dst un cl) z who → (∀ p, who = some p → (p.1, p.2.1) = (fn, an)) →
      let x := z.core c
      let words := z.cntWords c un.toNat cl.toNat
      let b := words.flatMap fun w => leBytes 8 w.toNat
      let w : Who := ⟨fn, an, false, [], none, ⟨2, 14, (who.map fun p => p.2.2).getD 3⟩⟩
      (un = 1 → words = [x.hc0.mstep, x.hc0.mrow, x.hc0.mskip, x.hc0.mpois, x.hc0.mflt.setWidth 64, x.hc0.mbusy])
      ∧ (un = 2 → words = [x.hc1.mstep, x.hc1.mrow, x.hc1.mskip, x.hc1.mpois, x.hc1.mflt.setWidth 64, x.hc1.mbusy])
      ∧ (un = 0 → words.length = 11) ∧ (un = 3 → words.length = 24)
      ∧ (mine → dst.toNat % 64 = 0 → un.toNat ≤ 3 → (un = 3 → cl.toNat ≤ 15) →
        ∀ l, z.span w .write dst.toNat b.length = .ok l → replies (.cnt d clu h co sq fn an dst un cl) 0 fun t => t = z.putSegs l b)
      ∧ (¬ mine ∨ dst.toNat % 64 ≠ 0 ∨ 3 < un.toNat ∨ (un = 3 ∧ 15 < cl.toNat) →
        replies (.cnt d clu h co sq fn an dst un cl) 1 fun t => t = z))
    ∧ (∀ z p fn an dst un cl, taken 1 (cntBody dst un cl) z (some p) → (p.1, p.2.1) ≠ (fn, an) →
        exec (.cnt d clu h co sq fn an dst un cl) s = .next s)
    ∧ (∀ z who (v : Bits8), taken 2 [v] z who →
      let ok := who = none ∧ mine ∧ v.toNat ≤ 7 ∧ (z.cluster d k).sfail = false
      (ok → replies (.floor d clu h co sq v) 0 fun t => t.core c = { z.core c with floor := v.setWidth 3 } ∧ t.mem = z.mem)
      ∧ (¬ ok → replies (.floor d clu h co sq v) 1 fun t => t = z))
    ∧ (∀ z who, taken 3 [] z who →
      let x := z.core c
      let ok := who = none ∧ mine ∧ x.mstate = .out ∧ z.excluded c = false
      (ok → replies (.requal d clu h co sq) 0 fun t => t.core c =
        { x with mstate := .normal, stopped := false, overs := 0, floor := BitVec.ofNat 3 (min 7 (x.floor.toNat + 1)) })
      ∧ (¬ ok → replies (.requal d clu h co sq) 1 fun t => t = z))
    ∧ (∀ z who (col lb : Bits8), taken 4 [col, lb] z who →
      let ok := who = none ∧ mine ∧ col.toNat ≤ 7 ∧ 16 ≤ lb.toNat ∧ lb.toNat ≤ 128
      (ok → replies (.budget d clu h co sq col lb) 0 fun t =>
          (t.die d).lb.val 0 col.toNat = lb.toNat ∧ (∀ j, j ≠ col.toNat → (t.die d).lb.val 0 j = (z.die d).lb.val 0 j)
          ∧ t.cores = z.cores ∧ t.mem = z.mem)
      ∧ (¬ ok → replies (.budget d clu h co sq col lb) 1 fun t => t = z))
    ∧ (∀ z who (va : Word) (size flags : Bits8) (f a : Bits16), taken 5 (invalBody va size flags f a) z who →
        let ok := who = none ∧ mine ∧ size.toNat ≤ 4 ∧ flags.toNat ≤ 3 ∧ f.toNat ≤ 31 ∧ a.toNat ≤ 4095
        (u.inval = none → ok → next (.inval d clu h co sq va size flags f a) fun t => t.mem = z.mem ∧ t.cores = z.cores
          ∧ (t.cluster d k).inval = some ⟨va, size.toNat, flags.getLsbD 0, flags.getLsbD 1, f.setWidth 5, a.setWidth 12, co, sq⟩)
        ∧ (u.inval = none → ¬ ok → replies (.inval d clu h co sq va size flags f a) 1 fun t => t = z)
        ∧ (∀ r, u.inval = some r → next (.inval d clu h co sq va size flags f a) fun t => t = s))
    ∧ (∀ r, u.inval = some r → s.pendingAccess d r.func = false →
        ∃ t : State, exec (.invalComplete d clu) s = .next (t.reply d k r.core r.seq 0) ∧ t.mem = s.mem ∧ (t.cluster d k).inval = none
          ∧ (∀ e, coreDie e = d → (t.core e).tlb = (s.core e).tlb.filter fun p => !r.hits p)
          ∧ (∀ e, coreDie e ≠ d → t.core e = s.core e)
          ∧ ∀ j, j < 8 → (t.cluster d j).tlb2 = (s.cluster d j).tlb2.filter fun p => !r.hits p)
    ∧ (u.inval = none ∨ (∃ r, u.inval = some r ∧ s.pendingAccess d r.func = true) → next (.invalComplete d clu) fun t => t = s)
    ∧ (∀ ty : Bits8, (∀ z who, taken ty.toNat [] z who → ty = 0 ∨ 5 < ty.toNat →
          replies (.stewardUnknownType d clu h co sq ty) 2 fun t => t = z)
        ∧ (1 ≤ ty.toNat → ty.toNat ≤ 5 → next (.stewardUnknownType d clu h co sq ty) fun t => t = s))
    ∧ (∀ q ty body, s.queue? d (0xFF0 + k) = some q → h = true → q.recs = [] → q.mirror = none → q.canPush 1 = true →
        body.length ≤ 40 → ∃ z, taken ty body z none ∧ z.cores = s.cores)
    ∧ (next (.stewardWatchdog d clu) fun t => t.mem = s.mem ∧ (t.cluster d k).sfail = true
        ∧ ∀ e, t.core e = if coreDie e = d ∧ clusterOf (coreX e) (coreY e) = k then { s.core e with floor := 7 } else s.core e)

/-- A window end compares WCNT with the budget, moves the margin state, and rewrites RAF, AUTO, WCNT and WNUM; a late verdict is met
unless GUARD is 7; one on an engine's cycle moves its step 5 ck on, is counted, and past ELIM marks F_REPLAY; persistence drives a
column to level 7 and then stops the core; a column settles at the level its cores ask for; an injection is met or dropped; a
droop holds level 7 for 1,600 ck (R244 to R259, R348, R349). What quarantines a core is stated where no task is admitted: it is
QUARANTINE while a seat is occupied, and OUT when every seat is EMPTY. -/
def Obligations.MarginEvents : Prop :=
  ∀ (s : State) (c : CoreId) (d : DieId) (col : Bits3),
    let next (i : Instr) (p : State → Prop) : Prop := ∃ t, exec i s = .next t ∧ p t
    let same (i : Instr) : Prop := exec i s = .next s
    let x := s.core c
    let qn := max 1 (bits x.mwin 27 24)
    let hist := (x.wcnt :: x.whist).take 15
    let wl := bits x.mwin 4 0
    let raf := min 1023 (2 * ((5120 * (hist.take qn).foldl max 0 + 2 ^ wl - 1) / 2 ^ wl))
    let beyond := bits x.mwin 23 8 < x.wcnt
    let after := { x with
      whist := hist, raf := BitVec.ofNat 10 raf, auto := if x.wrep then x.auto else 0, wrep := false, wcnt := 0
      wnum := (x.wnum + 1) % 2 ^ 24 }
    let noTasks := ∀ p ∈ s.dies, p.2.tasks = []
    let vacant := ∀ k, (s.seat c k).st = .empty
    (raf ≤ x.raf.toNat → x.mstate = .normal ∨ x.mstate = .watch → (¬ beyond ∨ x.overs + 1 < bits x.mwin 27 24) →
      next (.windowEnd c) fun t =>
        (¬ beyond → t.core c = { after with overs := 0, mstate := .normal })
        ∧ (beyond → t.core c = { after with
            overs := x.overs + 1, mstate := .watch, floor := BitVec.ofNat 3 (min 7 (x.floor.toNat + 1)) })
        ∧ let v := (s.die (coreDie c)).vtrim.val 0 (coreX c)
          (t.die (coreDie c)).vtrim.val 0 (coreX c) ∈ [v, v + 1, v - 1])
    ∧ (noTasks → x.stopped = false → x.mstate = .normal ∨ x.mstate = .watch → beyond → bits x.mwin 27 24 ≤ x.overs + 1 →
      next (.windowEnd c) fun t => (t.core c).wcnt = 0 ∧ (vacant → (t.core c).mstate = .out)
        ∧ (¬ vacant → (t.core c).mstate = .quarantine))
    ∧ (raf ≤ x.raf.toNat → x.mstate = .quarantine ∨ x.mstate = .out →
      next (.windowEnd c) fun t => t.core c = { after with
        overs := if beyond then min (bits x.mwin 27 24) (x.overs + 1) else 0 })
    ∧ (x.guard ≠ 7 → x.late = none → next (.lateVerdict c) fun t => t.mem = s.mem ∧ t.core c = { x with late := some false })
    ∧ (x.guard = 7 → same (.lateVerdict c) ∧ ∀ q, same (.engineLateVerdict c q))
    ∧ (∀ q ix f, x.running (engNo q) = some (ix.toNat, f) → x.ent (engNo q) ix = some f → x.guard ≠ 7 →
      let n := engNo q
      let row := if f.late ≠ 0 ∧ s.cyc = f.lateAt + 5 then f.late + 1 else 1
      let elim := bits (s.seat c f.seat).mlim 6 4
      next (.engineLateVerdict c q) fun t => t.mem = s.mem
        ∧ (t.core c).ent n ix = some { f with
            run := { f.run with at0 := f.run.at0 + 5, feed := max f.run.feed (s.cyc - f.run.at0) }
            ahead := f.ahead.map fun r => { r with at0 := r.at0 + 5, feed := max r.feed (s.cyc - r.at0) }
            late := row, lateAt := s.cyc }
        ∧ (t.core c).wcnt = min (x.wcnt + 1) (2 ^ 24 - 1)
        ∧ (n = 2 ∨ f.whole = false → (t.core c).mrc.val 0 (n + 1) = x.mrc.val 0 (n + 1) + 1)
        ∧ (n ≠ 2 → f.whole = true → (t.core c).mrc.val 0 1 = x.mrc.val 0 1 + 1 ∧ (t.core c).mrc.val 0 2 = x.mrc.val 0 2 + 1)
        ∧ (elim < row → (∀ a ∈ (s.seat c f.seat).pend, a.src ≠ 0) →
            (∃ a ∈ (t.seat c f.seat).pend, a.code = fReplay ∧ a.src = 0) ∧ (t.core c).auto = min 7 (x.auto + 1))
        ∧ (row ≤ elim → t.seat c f.seat = s.seat c f.seat ∧ (t.core c).auto = x.auto))
    ∧ (∀ un : Bits2, let n := x.persistence un.toNat
      (n.1 < 64 → n.2 < 64 → same (.persistenceLimit c un))
      ∧ (64 ≤ n.1 → n.2 < 64 → next (.persistenceLimit c un) fun t => t.mem = s.mem ∧ ∀ e,
          t.core e = if coreDie e = coreDie c ∧ coreX e = coreX c then { s.core e with col := 7 } else s.core e)
      ∧ (64 ≤ n.2 → noTasks → x.mstate = .normal ∨ x.mstate = .watch → next (.persistenceLimit c un) fun t =>
          (t.core c).stopped = true ∧ (∀ k, (t.seat c k).st = .empty) ∧ (t.core c).mstate = .out))
    ∧ (next (.guardSettled d col) fun t => t.mem = s.mem ∧ ∀ e, t.core e =
        if coreDie e = d ∧ coreX e = col.toNat then { s.core e with col := BitVec.ofNat 3 (s.columnGuard d col.toNat) } else s.core e)
    ∧ (x.injLeft = 0 ∨ s.cyc < x.injAt → same (.injection c))
    ∧ (x.injLeft ≠ 0 → x.injAt ≤ s.cyc →
      (x.issuing = none ∨ x.injAt < s.cyc → next (.injection c) fun t => t.mem = s.mem ∧ t.core c =
        { x with injLeft := x.injLeft - 1, injAt := x.injAt + x.injGap, injDrop := x.injDrop + 1 })
      ∧ (∀ k, x.issuing = some k → x.injAt = s.cyc → x.injUnit = 0 → next (.injection c) fun t => t.mem = s.mem ∧ t.core c =
        { x with injLeft := x.injLeft - 1, injAt := x.injAt + x.injGap, late := some true })
      ∧ (∀ k ix f, x.issuing = some k → x.injAt = s.cyc → x.injUnit ≠ 0 → x.running (x.injUnit.toNat - 1) = some (ix, f) →
          (f.seat ≠ k → next (.injection c) fun t => (t.core c).injDrop = x.injDrop + 1 ∧ (t.core c).injDone = x.injDone)
          ∧ (f.seat = k → next (.injection c) fun t => (t.core c).injDrop = x.injDrop ∧ (t.core c).injDone = x.injDone + 1
              ∧ (t.core c).wcnt = x.wcnt)))
    ∧ (s.pkg.hop = none → next (.droopDetect d col) fun t => t.mem = s.mem ∧ t.cores = s.cores
        ∧ (t.die d).droop.val 0 col.toNat = s.cyc + 1600
        ∧ (t.die d).dlog = (s.die d).dlog ++ [(col.toNat, s.cyc)]
        ∧ ∀ e, coreDie e = d → coreX e = col.toNat → t.colLevel e = 7)
    ∧ (s.pkg.hop ≠ none → next (.droopDetect d col) fun t =>
        t = { s with pkg := { s.pkg with hopDroop := s.pkg.hopDroop ++ [(d.toNat, col.toNat)] } })
    ∧ (∀ t0, (s.die d).droop.find col.toNat = some t0 →
      (s.cyc < t0 → same (.droopHoldEnd d col))
      ∧ (t0 ≤ s.cyc → next (.droopHoldEnd d col) fun t => t.mem = s.mem ∧ (t.die d).droop.find col.toNat = none ∧ ∀ e, t.core e =
        if coreDie e = d ∧ coreX e = col.toNat then { s.core e with col := BitVec.ofNat 3 (s.columnGuard d col.toNat) }
        else s.core e))
    ∧ ((s.die d).droop.find col.toNat = none → same (.droopHoldEnd d col))

/-! ### Events of a die's dispatcher, its cut tree and its I/O -/

/-- The dispatcher's launches and settings: an estimate is written; the oldest launch is refused with its reason or enters the die's
table under the next number, its asker told; an instance is live until 1 ms after its record; a share window begins anew; the
configuration is written within its limits (R308 to R318, R323, R325, R346). -/
def Obligations.LaunchEvents : Prop :=
  ∀ (s : State) (c : CoreId) (k : SeatId) (d : DieId) (w : Word),
    let next (i : Instr) (p : State → Prop) : Prop := ∃ t, exec i s = .next t ∧ p t
    let same (i : Instr) : Prop := exec i s = .next s
    let q := s.seat c k
    (∀ i, q.st ≠ .empty → s.instAt (coreDie c) (bInst q.billet) = some i → next (.rteUpdate c k) fun t => t.mem = s.mem
        ∧ (let e := rttAt (i.tsk.rtt.val [] (bGrade q.billet)) q.stepNo.toNat
          t.seat c k = { q with rte := BitVec.ofNat 32 ((e * (1024 + (s.core c).raf.toNat) + 1023) / 1024) })
        ∧ ∀ j, j ≠ k → t.seat c j = s.seat c j)
    ∧ (q.st = .empty → same (.rteUpdate c k))
    ∧ ((s.die d).lreq = [] ∨ s.pkg.tbstat.getLsbD 0 = false ∨ (s.die d).cwmNew ≠ none →
      ∀ far, same (.launchReadDone (d, far)))
    ∧ (∀ r rest far, (s.die d).lreq = r :: rest → s.pkg.tbstat.getLsbD 0 = true → (s.die d).cwmNew = none →
      let z := s.modDie d fun x => { x with lreq := rest }
      let told (t : State) (v : Nat) : Prop := ∀ c k key y a, r.asker = .strand c k key → (s.seat c k).vres = [y] →
        y.kind = .launch → y.key = key → (t.seat c k).vres = [a] →
        a = { y with ready := true, data := (BitVec.ofNat 64 v).setWidth 8192 }
      let refused (m : Nat) : Prop := next (.launchReadDone (d, far)) fun t => (t.die d).lreq = rest ∧ told t (2 ^ 63 + m)
      let entered (e : DieId) (rec : List Byte) (tk : TaskSt) : Prop := next (.launchReadDone (d, far)) fun t =>
        let m := ((s.die e).lcount + 1) % 2 ^ 30
        let n := e.toNat * 2 ^ 30 + m
        (t.die d).lreq = rest ∧ (t.die e).lcount = m ∧ told t n ∧ ∃ i, t.instAt e n = some i ∧ i.task = tdTask tk.desc
          ∧ i.func = r.func ∧ i.asn = r.asn ∧ i.asker = r.asker ∧ i.param = BitVec.ofNat 64 (lrParam rec)
          ∧ i.crec.toNat = (if lrCrec rec = 0 then tdCrec tk.desc else lrCrec rec) % 2 ^ 64
          ∧ i.deadline = (if lrDeadline rec = 0 then tdDeadline tk.desc else lrDeadline rec) ∧ i.gmin = lrGmin rec
          ∧ (i.st = .waiting ∨ i.st = .ended ∧ i.shed = true ∧ i.pred = true)
      ∀ y, (∀ f, z.readLaunch far r = (y, .unreadable f) → refused 1)
      ∧ (z.readLaunch far r = (y, .breach) → refused 2)
      ∧ (∀ rec e tk, z.readLaunch far r = (y, .ok rec (.known e tk)) →
          let tk' := { tk with rel := relDeadline rec tk.desc (y.ptimeAt y.cyc) }
          (∀ m, y.launchReason r rec e tk false = some m → refused m)
          ∧ (y.launchReason r rec e tk false = none →
            (tk.oneShot = false → entered e rec tk)
            ∧ (tk.oneShot = true → (y.admission ⟨e, tk'⟩ = none → refused 5)
                ∧ ∀ p, y.admission ⟨e, tk'⟩ = some p → entered e rec tk)))
      ∧ (∀ rec tk, z.readLaunch far r = (y, .ok rec (.fresh tk)) →
          let e := BitVec.ofNat 2 (tdDie tk.desc)
          let tk' := { tk with rel := relDeadline rec tk.desc (y.ptimeAt y.cyc) }
          (∀ m, y.launchReason r rec e tk true = some m → refused m)
          ∧ (y.launchReason r rec e tk true = none →
            (y.admission ⟨e, tk'⟩ = none → refused 5)
            ∧ ∀ p, y.admission ⟨e, tk'⟩ = some p → entered e rec tk)))
    ∧ (∀ (n : Imm32) i, s.instAt d n.toNat = some i →
      (∀ t0, i.done = some t0 → t0 + 800000 ≤ s.cyc → next (.instanceRetire d n) fun t => t.instAt d n.toNat = none
        ∧ (let live (o : Option (Nat × Bool)) := o.filter fun p => p.1 != n.toNat
          ∀ m, m ≠ n.toNat → t.instAt d m = (s.instAt d m).map fun j => { j with dep0 := live j.dep0, dep1 := live j.dep1 })
        ∧ t.mem = s.mem ∧ t.cores = s.cores)
      ∧ ((∀ t0, i.done = some t0 → s.cyc < t0 + 800000) → same (.instanceRetire d n)))
    ∧ (let len := 2 ^ bits (s.die (coreDie c)).dcfg 34 30
      (s.cyc % len = 0 → next (.shareWindowEnd c) fun t => t.core c = { s.core c with bgtime := 0 } ∧ t.mem = s.mem)
      ∧ (s.cyc % len ≠ 0 → same (.shareWindowEnd c)))
    ∧ (let ok := bits w 9 0 ≤ bits w 19 10 ∧ bits w 19 10 + bits w 29 20 ≤ 1024 ∧ 16 ≤ bits w 34 30 ∧ bits w 34 30 ≤ 30
        ∧ 10 ≤ bits w 39 35 ∧ bits w 39 35 ≤ 24
      (ok → next (.dispatchConfigWrite d w) fun t => (t.die d).dcfg = w &&& 0xFFFFFFFFFF ∧ t.mem = s.mem ∧ t.cores = s.cores)
      ∧ (¬ ok → same (.dispatchConfigWrite d w)))

/-- The life of an instance: released READY with its grade when its conditions hold, shed when a dependence has failed, its deadline is
past or no grade is offered; bound by its billet in the seat chosen; complete with its code and record when every strand has left;
and the consistent cut: every seat armed, each strand held reported and released below the greatest step, all out together, F_CUT
past its bound (R308, R317, R318, R320 to R322, R330, R331, R333). -/
def Obligations.InstanceEvents : Prop :=
  ∀ (s : State) (d : DieId) (n : Imm32) (i : InstSt), s.instAt d n.toNat = some i →
    let next (j : Instr) (p : State → Prop) : Prop := ∃ t, exec j s = .next t ∧ p t
    let same (j : Instr) : Prop := exec j s = .next s
    let now (t : State) (p : InstSt → Prop) : Prop := ∃ j, t.instAt d n.toNat = some j ∧ p j
    let rel := s.releaseOf d i
    let late := i.dlrel = false ∧ i.arrival = false ∧ i.deadline ≤ rel
    let met := s.depMet i.dep0 = some true ∧ s.depMet i.dep1 = some true ∧ rel ≤ s.ptimeAt s.cyc ∧ s.waited i = true
    (i.st = .waiting →
      (s.depFailed i = true → next (.instanceRelease d n) fun t => now t fun j => j.st = .ended ∧ j.shed = true ∧ j.pred = true)
      ∧ (s.depFailed i = false → i.arrival = true → same (.instanceRelease d n))
      ∧ (s.depFailed i = false → late → next (.instanceRelease d n) fun t => now t fun j =>
          j.st = .ended ∧ j.shed = true ∧ j.pred = i.pred)
      ∧ (s.depFailed i = false → i.arrival = false → ¬ late → met →
        (∀ g, (i.graded = true ∧ g = i.grade ∨ i.graded = false ∧ s.gradeFor i = some g) →
          next (.instanceRelease d n) fun t => now t fun j => j.st = .ready ∧ j.release = rel ∧ j.grade = g ∧ j.graded = true)
        ∧ (i.graded = false → s.gradeFor i = none → next (.instanceRelease d n) fun t => now t fun j =>
            j.st = .ended ∧ j.shed = true))
      ∧ (s.depFailed i = false → i.arrival = false → ¬ late → ¬ met → same (.instanceRelease d n)))
    ∧ (s.pkg.supply = true ∨ i.st = .ended ∨ (i.st = .waiting ∧ tdPrebind i.tsk.desc = false) ∨ i.seats ≠ [] → same (.bind d n))
    ∧ (∀ p c k b, s.pkg.supply = false → (s.die d).losing (tdL2c i.tsk.desc) = false → i.st = .ready → i.graded = true →
        i.seats = [] → i.saved = [] → i.ended = [] → tdLw i.tsk.desc = 0 → tdLh i.tsk.desc = 0 → tdRx i.tsk.desc < 8 →
        tdRy i.tsk.desc < 8 → bInst b = n.toNat → bMode b = false → coreDie c = d → s.placeFor i n.toNat = some (p, [(c, k, b)]) →
      next (.bind d n) fun t => (t.seat c k).st = .wake ∧ (t.seat c k).billet = b
        ∧ (t.seat c k).pc = BitVec.ofNat 64 (tdEntry i.tsk.desc (bGrade b)) &&& ~~~31
        ∧ now t fun j => j.x0 = p.1 ∧ j.y0 = p.2 ∧ j.seats.find 0 = some (c, k))
    ∧ (i.cutReq = true → i.cut = none → i.seats ≠ [] → (s.die d).cuts < 8 → (s.die d).earlierCut i = false →
      next (.cutStart d n) fun t => t.mem = s.mem
        ∧ (now t fun j => j.cutReq = false ∧ j.cut = some ⟨s.cyc, [], none, none, i.removal⟩)
        ∧ ∀ p ∈ i.seats, (t.core p.2.1).cut.getLsbD p.2.2.toNat = true)
    ∧ (i.cutReq = false ∨ i.cut ≠ none ∨ i.seats = [] ∨ 8 ≤ (s.die d).cuts → same (.cutStart d n))
    ∧ (∀ u c k, i.cut = some u → coreDie c = d → bInst (s.seat c k).billet = n.toNat →
      let q := s.seat c k
      let bit := 4 + k.toNat
      ((s.core c).cut.getLsbD bit = false → same (.cutReport c k))
      ∧ ((s.core c).cut.getLsbD bit = true → u.held = [] → u.top = none →
        ((∃ p ∈ i.seats, p.1 ≠ q.sidx) → next (.cutReport c k) fun t => t.cores = s.cores ∧ now t fun j => j.cut =
            some { u with held := [(q.sidx, q.stepNo.toNat)], top := some q.stepNo.toNat
                          least := some (min (u.least.getD q.stepNo.toNat) q.stepNo.toNat) }))
      ∧ ((s.core c).cut.getLsbD bit = true → (∀ p ∈ u.held, p.2 = q.stepNo.toNat) → u.top.getD 0 ≤ q.stepNo.toNat →
          (∀ p ∈ i.seats, p.1 ≠ q.sidx → u.held.find p.1 = some q.stepNo.toNat) → next (.cutReport c k) fun t =>
            (now t fun j => j.cut = none) ∧ ∀ p ∈ i.seats, (t.seat p.2.1 p.2.2).st = .out
              ∧ (t.core p.2.1).cut.getLsbD (4 + p.2.2.toNat) = false ∧ (t.core p.2.1).cut.getLsbD p.2.2.toNat = false)
      ∧ ((s.core c).cut.getLsbD bit = true → u.held = [] → i.seats.find q.sidx = some (c, k) → ∀ g, u.top = some g →
          q.stepNo.toNat < g → next (.cutReport c k) fun t => (t.core c).cut.getLsbD bit = false ∧ now t fun j =>
            ∃ v, j.cut = some v ∧ v.held = [] ∧ v.top = some g))
    ∧ (∀ u, i.cut = some u →
      (s.cyc - u.t0 ≤ tdCutbound i.tsk.desc → same (.cutTimeout d n))
      ∧ (tdCutbound i.tsk.desc < s.cyc - u.t0 → next (.cutTimeout d n) fun t => (now t fun j => j.cut = none)
          ∧ (∀ p ∈ i.seats, (t.core p.2.1).cut.getLsbD p.2.2.toNat = false
            ∧ (t.core p.2.1).cut.getLsbD (4 + p.2.2.toNat) = false)
          ∧ (let at0 := i.corner d
            let v := clusterOf (coreX at0) (coreY at0)
            let msgs := (s.cluster (coreDie at0) v).omsg
            i.client = none → u.removal = false → i.removal = false → msgs.length < 256 →
            s.queue? (coreDie at0) (0xFF8 + v) = none →
              (t.cluster (coreDie at0) v).omsg = msgs ++ [stewMsg 0x81 0 (coreField at0) 0 s.cyc
                (leBytes 8 fCut.toNat ++ leBytes 8 (u.least.getD 0 + u.top.getD 0 * 2 ^ 32) ++ leBytes 4 i.task ++ leBytes 4 n.toNat)])))
    ∧ (∀ ans, i.allOut = false ∨ (s.mirrored i = true ∧ i.committed = false) → same (.instanceComplete d (n, ans)))
    ∧ (∀ ans, i.allOut = true → s.mirrored i = false ∨ i.committed = true →
      let o := i.outcome (s.ptimeAt i.fin)
      let quiet := o.1 = 0 ∧ i.mfail = none ∧ (∀ m, (s.sess m).grade = 0) ∧ ∀ p ∈ s.dies, ∀ j ∈ p.2.insts, j.2.st = .waiting → j.2.seats = []
      next (.instanceComplete d (n, ans)) fun t =>
        (now t fun j => j.done = some s.cyc ∧ j.code = o.1 ∧ j.st = .ended ∧ j.cut = none ∧ j.cutReq = false)
        ∧ (∀ l, (s.die d).fenced = false → s.span i.who .write i.crec.toNat 64 = .ok l → ans.err = none → quiet →
            t.mem = (s.wrSegs l (s.recordOf n.toNat i)).mem)
        ∧ ((s.die d).fenced = true → quiet → t.mem = s.mem)
        ∧ ∀ m, m < 8 → ∀ r ∈ (t.cluster d m).bars, r.inst ≠ n.toNat)

/-- Messages in and out: a message is dropped with its reason counted, or accepted and landed into its slots; a landed one leaves them
READY, disarms its entry and counts its semaphore; an egress completion enters the seat's queue; a port's state changes; the
timebase map is written whole or refused; power moves the budgets of the columns; during a hop of the fabric clock nothing arrives or
leaves, and its end acts on the droops latched meanwhile (R338, R339, R341 to R346, R349 to R351). -/
def Obligations.IoEvents : Prop :=
  ∀ (s : State) (c : CoreId) (k : SeatId) (d : DieId),
    let next (i : Instr) (p : State → Prop) : Prop := ∃ t, exec i s = .next t ∧ p t
    let same (i : Instr) : Prop := exec i s = .next s
    (∀ (mode : Bits2) (key : Imm32) (pay : List Byte) (arr : Word),
      let die := if (s.die d).fenced then d ^^^ 1 else d
      let i := 2 * bits key 12 0 + bits key 13 13
      let e := s.steerAt die i
      let gap := (bits key 31 16 + 65536 - bits e.w1 15 0) % 65536
      let open' := e.w0.getLsbD 0 = true ∧ e.w1.getLsbD 16 = true
      let newer := e.fresh = true ∨ 1 ≤ gap ∧ gap ≤ 32767
      let free := ∀ l, e.land = some l → l.uud = true ∧ mode = 2
      let short := pay.length ≤ 16384 * steerN e
      let dropped (why : Nat) : Prop := next (.messageIngress d mode key pay arr) fun t => t.mem = s.mem ∧ t.cores = s.cores
        ∧ (let f := t.steerAt die i
          bits f.w1 47 32 = min 65535 (bits e.w1 47 32 + 1) ∧ bits f.w1 55 48 = why ∧ bits f.w1 17 0 = bits e.w1 17 0
          ∧ f.w0 = e.w0 ∧ f.land = e.land)
      (s.pkg.hop ≠ none → same (.messageIngress d mode key pay arr))
      ∧ (s.pkg.hop = none → (¬ open' → dropped 1) ∧ (open' → ¬ newer → dropped 2) ∧ (open' → newer → ¬ free → dropped 4)
        ∧ (open' → newer → free → ¬ short → dropped 3))
      ∧ (s.pkg.hop = none → open' → newer → free → short → next (.messageIngress d mode key pay arr) fun t => t.mem = s.mem
          ∧ t.steerAt die i = { e with
              land := some ⟨pay, BitVec.ofNat 16 (bits key 31 16), decide (mode = 2), arr.toNat⟩, fresh := false }))
    ∧ (∀ (ix : Bits14),
      let e := s.steerAt d ix.toNat
      let sc := mkCore d (bits e.w0 6 4) (bits e.w0 10 8)
      (e.land = none → same (.messageLanded d ix))
      ∧ (∀ m, e.land = some m → (∀ p ∈ (s.die d).insts, p.2.arrival = false) → next (.messageLanded d ix) fun t => t.mem = s.mem
        ∧ (let f := t.steerAt d ix.toNat
          f.land = none ∧ f.arr = BitVec.ofNat 64 (s.ptimeAt (min m.arr s.cyc)) ∧ bits f.w1 15 0 = m.seq.toNat ∧ bits f.w1 17 16 = 2 ∧ f.w0 = e.w0)
        ∧ (∀ j, steerSlot e ≤ j → j < steerSlot e + steerN e → ((s.core sc).tile j).armed = true →
            ((t.core sc).tile j).st = .ready ∧ ((t.core sc).tile j).armed = false)
        ∧ (∀ o j w, e.post = some (o, j, w) → w ≠ 0 → (w, 1) ∈ (t.seat o j).inc)))
    ∧ (∀ (ix : Bits8) stamp v, (s.seat c k).vres[ix.toNat]? = some v →
      let waits := v.kind ≠ .nsend ∨ s.pkg.hop ≠ none ∨ s.frameWaits c k v = true
      let at0 := BitVec.ofNat 64 (s.ptimeAt (max v.ck (min stamp.toNat s.cyc)))
      (waits → same (.egressDone c k ix stamp))
      ∧ (¬ waits → next (.egressDone c k ix stamp) fun t => t.mem = s.mem ∧ (let z := t.seat c k
          z.vres = (s.seat c k).vres.eraseIdx ix.toNat
          ∧ ((s.seat c k).ecq.length < 16 → z.ecq = (s.seat c k).ecq ++ [⟨v.data.setWidth 64, at0⟩])
          ∧ (16 ≤ (s.seat c k).ecq.length → z.elost = true ∧ z.ecq = (s.seat c k).ecq)
          ∧ (v.sem ≠ 0 → (z.sem v.sem).toNat = min 255 (((s.seat c k).sem v.sem).toNat + 1)))))
    ∧ (next (.portDown d false false) fun t => (t.die d).down0 = true ∧ (t.die d).down1 = (s.die d).down1 ∧ t.mem = s.mem)
    ∧ (next (.portDown d true false) fun t => (t.die d).down1 = true ∧ (t.die d).down0 = (s.die d).down0 ∧ t.mem = s.mem)
    ∧ (∀ port, next (.portDown d port true) fun t => (if port then (t.die d).down1 else (t.die d).down0) = false)
    ∧ (∀ (base cyc rate : Word) (lock : Bool) (offs : Imm32),
      let near := 0x14000000000 * 1999 ≤ rate.toNat * 2000 ∧ rate.toNat * 2000 ≤ 0x14000000000 * 2001
      let step := s.pkg.tbstat.getLsbD 0 = false ∨ ∀ p ∈ s.dies, p.2.tasks = []
      let smooth := cyc.toNat = s.cyc ∧ base.toNat = s.ptimeAt s.cyc
      next (.timebaseUpdate base cyc rate lock offs) fun t => t.mem = s.mem ∧ t.cores = s.cores
        ∧ t.pkg.tbstat.getLsbD 0 = (s.pkg.tbstat.getLsbD 0 || lock) ∧ t.pkg.tbstat.extractLsb' 32 32 = offs
        ∧ (near → smooth ∨ step → t.pkg.tbbase = base ∧ t.pkg.tbcyc = cyc ∧ t.pkg.tbrate = rate)
        ∧ (¬ (near ∧ (smooth ∨ step)) →
            t.pkg.tbbase = s.pkg.tbbase ∧ t.pkg.tbcyc = s.pkg.tbcyc ∧ t.pkg.tbrate = s.pkg.tbrate))
    ∧ (∀ w : Bits16, s.cyc < s.pkg.pwrAt + 80000 → same (.powerCheck w))
    ∧ (∀ w : Bits16, s.pkg.pwrAt + 80000 ≤ s.cyc → next (.powerCheck w) fun t => t.mem = s.mem ∧ t.cores = s.cores
        ∧ t.pkg.pwrAt = s.cyc ∧ ∀ (e : DieId) (j : Nat), j < 8 →
        let old := (s.die e).lb.val 48 j
        (t.die e).lb.val 48 j = if 3200 < w.toNat then max 16 (old - 8)
          else if w.toNat < 3040 then min ((s.die e).lbCfg.val 48 j) (old + 8) else old)
    ∧ (s.pkg.hop = none → same (.fabricClockHop false) ∧ next (.fabricClockHop true) fun t =>
        t = { s with pkg := { s.pkg with hop := some s.cyc } })
    ∧ (∀ b, s.pkg.hop ≠ none → next (.fabricClockHop b) fun t => t.mem = s.mem ∧ t.cores = s.cores ∧ t.pkg.hop = none
        ∧ t.pkg.hopDroop = [] ∧ ∀ (e : DieId) (col : Nat), (e.toNat, col) ∈ s.pkg.hopDroop →
          (t.die e).droop.val 0 col = s.cyc + 1600 ∧ (col, s.cyc) ∈ (t.die e).dlog)

/-! ### Events of the package, the host mailbox and the host interface -/

/-- Relay pairs: state is committed in the other buffer and then by its header; heartbeats, misses and the fencing of a silent die. HBM: a
slot takes up to three of the oldest accesses of its class and counts on, its corrected errors counted and its uncorrectable ones
poisoned, where no access of the L2 waits for its pseudo-channel; a new map at a frame boundary. A page walk fills the caches of a core.
Keys are loaded, retired with their translations, and emptied once settled (R356 to R365, R370, R373, R374). -/
def Obligations.PackageEvents : Prop :=
  ∀ (s : State) (d : DieId) (c : CoreId) (f : FuncId) (n : Imm32) (kn : Bits10),
    let next (j : Instr) (p : State → Prop) : Prop := ∃ t, exec j s = .next t ∧ p t
    let same (j : Instr) : Prop := exec j s = .next s
    let x := s.die d
    let r := d ^^^ 1
    (∀ i, s.instAt d n.toNat = some i →
      let sn := tdSession i.tsk.desc
      let e := s.sess sn
      let head := s.mirrorSeg r sn 0 16
      (i.allOut = true → s.mirrored i = true → i.mir = false → i.committed = false → x.fenced = false → (s.die r).fenced = false →
        ∀ l ans, s.span i.who .read e.stateva.toNat e.statelen.toNat = .ok l → isFar l = false → ans.err = none →
        let b := s.nearBytes l
        (s.linkUp (64 + 4 * d.toNat) = true → next (.mirrorCommit d (n, ans)) fun t =>
          t.mem = (s.storeMarked (s.mirrorPart r sn (!s.mirrorBuf r sn) b.length) b).mem
          ∧ t.mirrorGen r sn = s.mirrorGen r sn ∧ t.mirrorBuf r sn = s.mirrorBuf r sn
          ∧ ∃ j, t.instAt d n.toNat = some j ∧ j.mir = true ∧ j.committed = i.committed)
        ∧ (s.linkUp (64 + 4 * d.toNat) = false → next (.mirrorCommit d (n, ans)) fun t => t.mem = s.mem
          ∧ ∃ j, t.instAt d n.toNat = some j ∧ j.mir = false ∧ j.committed = true ∧ j.mfail = some (fLink, s.mirrorBase r sn)))
      ∧ (i.allOut = false ∨ s.mirrored i = false ∨ i.mir = true ∨ i.committed = true ∨ x.fenced = true →
          ∀ ans, same (.mirrorCommit d (n, ans)))
      ∧ (i.mir = true → i.committed = false → next (.mirrorHeaderWrite d n) fun t =>
          t.mem = (s.storeMarked head ((leBytes 8 (s.mirrorGen r sn + 1) ++ leBytes 8 (!s.mirrorBuf r sn).toNat).map fun v => (v, false))).mem
          ∧ (isHbm (s.mirrorBase r sn) = true → t.mirrorGen r sn = (s.mirrorGen r sn + 1) % 2 ^ 64
            ∧ t.mirrorBuf r sn = !s.mirrorBuf r sn)
          ∧ ∃ j, t.instAt d n.toNat = some j ∧ j.committed = true)
      ∧ (i.mir = false ∨ i.committed = true → same (.mirrorHeaderWrite d n)))
    ∧ (x.fenced = false → s.pkg.safe = false → s.pkg.supply = false → x.hbsent + 8000 ≤ s.cyc →
      next (.heartbeatSend d) fun t => t.mem = s.mem ∧ (t.die d).hbsent = s.cyc
        ∧ (s.linkUp (64 + 4 * d.toNat) = true → (t.die d).hbdir = true))
    ∧ (x.fenced = true ∨ s.pkg.safe = true ∨ s.pkg.supply = true ∨ s.cyc < x.hbsent + 8000 → same (.heartbeatSend d))
    ∧ (x.hbtick + 8000 ≤ s.cyc → next (.heartbeatTick d) fun t => t.mem = s.mem ∧ (let y := t.die d
        y.hbtick = s.cyc ∧ y.hbdir = false ∧ y.hbio = false
        ∧ y.hbmiss = (if x.hbdir = true ∨ x.hbio = true then 0 else x.hbmiss + 1)
        ∧ (x.hbio = true → x.hbdir = false → x.hblnk = false →
            t.pkg.hslog = s.pkg.hslog ++ [(fLink, BitVec.ofNat 64 (64 + 4 * d.toNat))])))
    ∧ (s.cyc < x.hbtick + 8000 → same (.heartbeatTick d))
    ∧ (x.fenced = false → 4 ≤ x.hbmiss → next (.relayFailure d) fun t => (t.die d).fenced = true
        ∧ (fRelay, BitVec.ofNat 64 d.toNat) ∈ t.pkg.hslog
        ∧ ((∀ p ∈ s.pkg.sess, p.2.statelen = 0) → t.mem = s.mem))
    ∧ (x.fenced = true ∨ x.hbmiss < 4 → same (.relayFailure d))
    ∧ (∀ (pch : Bits7) (cor unc : Bits6),
      let p := pch.toNat
      let sl := x.slot.val 0 p % 256
      let cl := bits x.smap (2 * sl + 1) (2 * sl)
      let l := x.hbmq.val [] (4 * p + cl)
      (∀ a ∈ s.l2.reqs, 128 * a.1 / 2 ^ 37 % 4 ≠ d.toNat ∨ pchOf a.1 ≠ p) →
      next (.hbmSlot d pch [] cor unc) fun t => t.mem = s.mem ∧ (t.die d).slot.val 0 p = (sl + 1) % 256
        ∧ (t.die d).hbmq.val [] (4 * p + cl) = l.drop 3
        ∧ (∀ a, l[0]? = some a → unc.getLsbD 0 = true → 2 * a ∈ t.pois)
        ∧ (3 ≤ l.length → cor = 0 → unc = 0 → t.pois = s.pois ∧ (t.die d).ecc = x.ecc
            ∧ ∀ j, j < 4 → j ≠ cl → (t.die d).hbmq.val [] (4 * p + j) = x.hbmq.val [] (4 * p + j)))
    ∧ (∀ m, x.smapNew = some m →
      ((∀ p ∈ x.slot, p.2 = 0) → next (.slotMapApply d) fun t => (t.die d).smap = m ∧ (t.die d).smapNew = none ∧ t.mem = s.mem)
      ∧ ((∃ p ∈ x.slot, p.2 ≠ 0) → same (.slotMapApply d)))
    ∧ (x.smapNew = none → same (.slotMapApply d))
    ∧ (∀ (k : SeatId) (asn : Bits12) (va : Word) (acc : Access),
      let a := va.toNat % 2 ^ 57
      let w : Who := ⟨f, asn, acc.user, [], some (coreDie c), s.clsSeat c k⟩
      (∀ y root lv p, s.xlate w acc.kind a = .ok y → (s.func f).roots.find asn.toNat = some root →
          s.leafFrom a [3, 2, 1, 0] root.toNat = some (lv, p) →
        next (.pageWalkDone c k f asn va acc) fun t => t.mem = s.mem ∧
          let size := leafSize lv p
          let e : TlbEnt := ⟨f, asn, BitVec.ofNat 64 (a / pageBytes size), size, p⟩
          e ∈ (t.core c).tlb ∧ e ∈ (t.cluster (coreDie c) (clusterOf (coreX c) (coreY c))).tlb2
            ∧ ((s.core c).tlb.length ≤ 64 → (t.core c).tlb.length ≤ 64))
      ∧ (∀ g, s.xlate w acc.kind a = .bad g → next (.pageWalkDone c k f asn va acc) fun t => t.cores = s.cores))
    ∧ (let e := s.keyAt kn.toNat
      let st := bits e.word 1 0
      (∀ mat, (s.func f).doe = true → s.holds f .key kn.toNat = true → st = 0 → ∀ byp,
        next (.keyLoad f kn byp mat true) fun t => t.mem = s.mem ∧ (let z := t.keyAt kn.toNat
          bits z.word 1 0 = (if byp then 2 else 1) ∧ bits z.word 6 2 = f.toNat ∧ bits z.word 23 8 = (bits e.word 23 8 + 1) % 65536
          ∧ z.mat = if byp then 0 else mat))
      ∧ ((s.func f).doe = false ∨ s.holds f .key kn.toNat = false ∨ st ≠ 0 → ∀ byp mat, same (.keyLoad f kn byp mat true))
      ∧ (∀ byp mat, same (.keyLoad f kn byp mat false))
      ∧ (st = 1 ∨ st = 2 → next (.keyRetire kn) fun t => t.mem = s.mem ∧ bits (t.keyAt kn.toNat).word 1 0 = 3
          ∧ bits (t.keyAt kn.toNat).word 6 2 = bits e.word 6 2 ∧ (t.keyAt kn.toNat).mat = e.mat
          ∧ ∀ b, ∀ y ∈ (t.core b).tlb, y.func ≠ BitVec.ofNat 5 (bits e.word 6 2))
      ∧ (st ≠ 1 → st ≠ 2 → same (.keyRetire kn))
      ∧ (st = 3 → s.settled (BitVec.ofNat 5 (bits e.word 6 2)) = true → next (.keyRetireDone kn) fun t => t.mem = s.mem
          ∧ bits (t.keyAt kn.toNat).word 1 0 = 0 ∧ (t.keyAt kn.toNat).mat = 0
          ∧ bits (t.keyAt kn.toNat).word 23 8 = bits e.word 23 8)
      ∧ (st ≠ 3 ∨ s.settled (BitVec.ofNat 5 (bits e.word 6 2)) = false → same (.keyRetireDone kn)))

/-- A mailbox request is answered only to the function whose buffer holds its type and its fields and whose HMDB is set: with status 1 in
the safe state, for a function other than 0 where the type is reserved to it, or where its operands are refused; with status 0 when it has
had its effect; an unknown type with status 2. The answer clears HMDB (R276, R278, R338, R356, R363, R367, R379 to R381, R387, R396). The
interface concerned is not locked. -/
def Obligations.MailboxEvents : Prop :=
  ∀ (s : State) (f g : FuncId) (d : DieId), (s.func f).hmdb = true → s.pkg.safe = false → s.locked f = false → s.locked g = false →
    let type (n : Nat) (l : List Nat) : Prop := field (s.func f).mreq 0 1 = n ∧ (s.func f).mreq.drop 8 = Config.mailBody n l
    let answers (i : Instr) (st : Nat) (p : State → Prop) : Prop := ∃ t, exec i s = .next (t.mailAnswer f st) ∧ p t
    let refuses (i : Instr) : Prop := answers i 1 fun t => t = s
    let has (k : ResKind) (n : Nat) : Prop := s.holds f k n = true
    (∀ k lo hi, let a : Grant := ⟨k, lo, hi⟩
      let l := [g.toNat, kindNo k, lo.toNat, hi.toNat]
      let held := ∃ p ∈ s.funcs, p.1 ≠ g.toNat ∧ ∃ b ∈ p.2.grants, a.meets b = true
      let used := ∃ p ∈ s.dies, ∃ q ∈ p.2.insts, q.2.func = g ∧ q.2.uses a = true
      let mine := a.shaped = true ∧ coveredBy (s.func g).grants a = true
      (type 1 l → f = 0 → s.grantOk g a = true → ¬ held → answers (.alloc f g k lo hi) 0 fun t => t.mem = s.mem ∧ t.cores = s.cores
        ∧ (t.func g).grants = (s.func g).grants ++ [a]
        ∧ (k = .aperture → (t.func g).bar2 = lo)
        ∧ (k = .vector → ∀ j, lo.toNat ≤ j → j ≤ hi.toNat → (t.func g).vec.find j = some .reset)
        ∧ (k = .porterQueue → ∀ j, lo.toNat ≤ j → j ≤ hi.toNat → (t.func g).pqs.find j = some .reset))
      ∧ (type 1 l → f ≠ 0 ∨ s.grantOk g a = false ∨ held → refuses (.alloc f g k lo hi))
      ∧ (type 2 l → f = 0 → mine → ¬ used → answers (.release f g k lo hi) 0 fun t => t.mem = s.mem
        ∧ (t.func g).grants = withoutGrant (s.func g).grants a
        ∧ (k ≠ .cores → k ≠ .aperture → ∀ n, t.holds g k n = (s.holds g k n && !(lo.toNat ≤ n && n ≤ hi.toNat))))
      ∧ (type 2 l → f ≠ 0 ∨ ¬ mine ∨ used → refuses (.release f g k lo hi))
      ∧ (¬ type 1 l → exec (.alloc f g k lo hi) s = .next s) ∧ (¬ type 2 l → exec (.release f g k lo hi) s = .next s))
    ∧ (∀ qn base lr push pd pop mir,
      let l := d.toNat :: qn.toNat :: base.toNat :: lr.toNat :: push.toNat :: pop.toNat :: mir.toNat
        :: pd.flatMap fun p => [p.1.toNat, p.2.toNat]
      let ok := has .memQueue (d.toNat * 4096 + qn.toNat) ∧ base.toNat % 64 = 0 ∧ base.toNat < 2 ^ 57 ∧ lr.toNat ≤ 23
        ∧ mir.toNat % 16 = 0 ∧ mir.toNat < 2 ^ 57
      (type 3 l → qn.toNat < 0xFF8 ∨ f ≠ 0 → ok → answers (.qcfg f d qn base lr push pd pop mir) 0 fun t => t.mem = s.mem
        ∧ t.queue? d qn.toNat = some ⟨f, base, lr.toNat, push, pop, pd, if mir = 0 then none else some mir, 0, 0, [], 0⟩)
      ∧ (type 3 l → qn.toNat < 0xFF8 ∨ f ≠ 0 → ¬ ok → refuses (.qcfg f d qn base lr push pd pop mir))
      ∧ (type 3 l → 0xFF8 ≤ qn.toNat → f = 0 → ∀ q, s.queue? d qn.toNat = some q →
        answers (.qcfg f d qn base lr push pd pop mir) 0 fun t => t.queue? d qn.toNat = some { q with pop := pop })
      ∧ (¬ type 3 l → exec (.qcfg f d qn base lr push pd pop mir) s = .next s))
    ∧ (∀ (ix : Bits14) w0,
      let l := [d.toNat, ix.toNat, w0.toNat]
      let ok := has .session (ix.toNat / 2) ∧ bits w0 23 16 + bits w0 27 24 ≤ 255
      (type 4 l → ok → answers (.steer f d ix w0) 0 fun t => t.mem = s.mem ∧ (let e := t.steerAt d ix.toNat
        e.w0 = w0 &&& 0x00000FFF0FFF0773 ∧ e.fresh = true ∧ e.w1.getLsbD 16 = false
        ∧ (((s.steerAt d ix.toNat).w1.getLsbD 16 = true) → e.land = none)))
      ∧ (type 4 l → ¬ ok → refuses (.steer f d ix w0)) ∧ (¬ type 4 l → exec (.steer f d ix w0) s = .next s))
    ∧ (∀ ix port mode sn ip job pid,
      let l := [d.toNat, ix.toNat, port.toNat, mode.toNat, sn.toNat, ip.toNat, job.toNat, pid.toNat]
      let ok := port.toNat ≤ 1 ∧ mode.toNat ≤ 2 ∧ has .session sn.toNat ∧ ∀ b, (s.die d).binds.find ix.toNat = some b → b.func = f
      (type 5 l → ok → answers (.egress f d ix port mode sn ip job pid) 0 fun t => t.mem = s.mem
        ∧ (t.die d).binds.find ix.toNat = some ⟨f, sn, decide (port = 1), mode, ip, job, pid⟩)
      ∧ (type 5 l → ¬ ok → refuses (.egress f d ix port mode sn ip job pid))
      ∧ (¬ type 5 l → exec (.egress f d ix port mode sn ip job pid) s = .next s))
    ∧ (∀ sn prim va len sva sh,
      let l := [sn.toNat, prim.toNat, va.toNat, len.toNat, sva.toNat, sh.toNat]
      let ok := has .session sn.toNat ∧ va.toNat % 64 = 0 ∧ sva.toNat % 64 = 0 ∧ len.toNat % 64 = 0 ∧ len.toNat ≤ 65536
      (type 6 l → ok → answers (.sess f sn prim va len sva sh) 0 fun t => t.mem = s.mem ∧ t.sess sn.toNat = { s.sess sn.toNat with
        prim := prim, stateva := va, statelen := len, shadowva := sva, shadow := sh, func := f })
      ∧ (type 6 l → ¬ ok → refuses (.sess f sn prim va len sva sh))
      ∧ (¬ type 6 l → exec (.sess f sn prim va len sva sh) s = .next s))
    ∧ (∀ (rs dm : Bits8) cm im dt far z,
      let l := [rs.toNat, dm.toNat, cm.toNat, im.toNat, dt.toNat]
      (∀ m w, type 7 l → has .resident rs.toNat → s.readImage far f im.toNat dt.toNat rs.toNat = (z, some (m, w)) →
        answers (.install f rs dm cm im (dt, far)) 0 fun t => t.mem = s.mem
          ∧ ∃ st, t.pkg.res.find rs.toNat = some ⟨f, m, dt, dm, cm, st⟩
            ∧ ∀ c, dm.getLsbD (coreDie c).toNat = true → cm.getLsbD (8 * coreY c + coreX c) = true →
              (t.core c).wel = (w.foldl CoreSt.placeWeights (s.core c)).wel
              ∧ ∀ j, (t.core c).wgrant.val 0 j = (s.core c).wgrant.val 0 j &&& ~~~ st)
      ∧ (type 7 l → ¬ has .resident rs.toNat ∨ s.readImage far f im.toNat dt.toNat rs.toNat = (z, none) →
        refuses (.install f rs dm cm im (dt, far)))
      ∧ (¬ type 7 l → exec (.install f rs dm cm im (dt, far)) s = .next s))
    ∧ (∀ rs,
      let names (b : List Byte) : Prop := tdFlag b 4 = true ∧ tdResslot b = rs.toNat
      (∀ r, type 8 [rs.toNat] → s.pkg.res.find rs.toNat = some r → r.func = f →
        (∀ p ∈ s.dies, (∀ q ∈ p.2.insts, ¬ names q.2.tsk.desc)
          ∧ ∀ q ∈ p.2.tasks, names q.2.desc → s.isShadow ⟨BitVec.ofNat 2 p.1, q.2⟩ = false) →
        answers (.remove f rs) 0 fun t => t.mem = s.mem ∧ t.pkg.res.find rs.toNat = none)
      ∧ (type 8 [rs.toNat] → s.pkg.res.find rs.toNat = none → refuses (.remove f rs))
      ∧ (¬ type 8 [rs.toNat] → exec (.remove f rs) s = .next s))
    ∧ (∀ asn root,
        let l := [asn.toNat, root.toNat]
        let ok := root.toNat % 2 ^ 21 = 0 ∧ root.toNat < 2 ^ 52
        (type 9 l → ok → answers (.asroot f asn root) 0 fun t => t.mem = s.mem ∧ (t.func f).roots.find asn.toNat = some root)
        ∧ (type 9 l → ¬ ok → refuses (.asroot f asn root)) ∧ (¬ type 9 l → exec (.asroot f asn root) s = .next s))
    ∧ (∀ cl ways,
        let l := [d.toNat, cl.toNat, ways.toNat]
        let old := (s.die d).cwm.val 0 cl.toNat
        let shares := cl.toNat < 14 ∧ s.sharesWay ((s.die d).cwmNew.getD (s.die d).cwm) cl.toNat ways = true
        (type 0xA l → f = 0 → ¬ shares → answers (.cwm f d cl ways) 0 fun t =>
          (∃ m, (t.die d).cwmNew = some m ∧ m.val 0 cl.toNat = ways.setWidth 32 ∧ (t.die d).cwm = (s.die d).cwm)
          ∧ (old &&& ~~~ (ways.setWidth 32) = 0 → t.mem = s.mem ∧ (t.die d).draining = (s.die d).draining)
          ∧ (old &&& ~~~ (ways.setWidth 32) ≠ 0 → ∀ c, coreDie c = d → s.runsClass c cl.toNat = true → s.gone c = false →
              c ∈ (t.die d).draining))
        ∧ (type 0xA l → f ≠ 0 ∨ shares → refuses (.cwm f d cl ways)) ∧ (¬ type 0xA l → exec (.cwm f d cl ways) s = .next s))
    ∧ (∀ m, (type 0xB [d.toNat, m.toNat] → f = 0 → slotMapOk m = true → answers (.smap f d m) 0 fun t => t.mem = s.mem
          ∧ (t.die d).smapNew = some m ∧ (t.die d).smap = (s.die d).smap)
        ∧ (type 0xB [d.toNat, m.toNat] → f ≠ 0 ∨ slotMapOk m = false → refuses (.smap f d m))
        ∧ (¬ type 0xB [d.toNat, m.toNat] → exec (.smap f d m) s = .next s))
    ∧ (∀ ty : Bits8, ty = 0 ∨ 0xB < ty.toNat → field (s.func f).mreq 0 1 = ty.toNat →
        answers (.mailboxUnknownType f ty) 2 fun t => t = s)
    ∧ (∀ t st, (State.mailAnswer t f st).func f = { t.func f with
        mresp := BitVec.ofNat 8 st :: List.replicate 63 0, hmdb := false })
    ∧ (∀ m, (s.die d).cwmNew = some m →
      let free := (∀ c ∈ (s.die d).draining, (s.core c).occupied = [])
        ∧ ∀ p ∈ (s.die d).insts, p.2.seats = [] ∨ (s.die d).losing (tdL2c p.2.tsk.desc) = false
      (free → ∃ t : State, exec (.cwmApply d) s = .next t ∧ (t.die d).cwm = m ∧ (t.die d).cwmNew = none ∧ (t.die d).draining = []
          ∧ t.mem = s.mem ∧ ∀ p ∈ (s.die d).cwm, ∀ e ∈ t.l2.lines, l2Home e.1 / 64 = d.toNat →
            (p.2 &&& ~~~ (m.val 0 p.1)).getLsbD e.2.way = false)
      ∧ (¬ free → exec (.cwmApply d) s = .next s))

/-- The host: a BAR2 access is a function's access at its address space 0, answered with its bytes, with Unsupported Request, or dropped;
an AtomicOp answers the old value and writes the new one, or changes nothing; a completion that does not come fails with F_HCPL;
interfaces are locked, run and stopped; DOE is answered; power-on leaves the state after reset with the boot's results; supply loss
stops the device (R378, R388 to R397). -/
def Obligations.HostEvents : Prop :=
  ∀ (s : State) (f : FuncId) (off : Word) (c : CoreId) (k : SeatId),
    let next (j : Instr) (p : State → Prop) : Prop := ∃ t, exec j s = .next t ∧ p t
    let same (j : Instr) : Prop := exec j s = .next s
    let x := s.func f
    (∀ v (n : Bits11) val, x.vec.find n.toNat = some v → s.locked f = false → v.masked = true →
        next (.coalesceWrite f n val) fun t => t.mem = s.mem ∧ (t.func f).vec.find n.toNat = some { v with
          ccnt := BitVec.ofNat 8 (max 1 (bits val 7 0)), ctime := BitVec.ofNat 16 (bits val 31 16) })
    ∧ (∀ n : Bits11, x.vec.find n.toNat = none → ∀ val, same (.coalesceWrite f n val))
    ∧ (∀ len : Bits12, let n := if len = 0 then 4096 else len.toNat
      (off.toNat + n ≤ x.bar2.toNat →
        (∀ l z b far, x.tdisp ≠ .error → s.span (.ofFunc f) .read off.toNat n = .ok l →
            s.farRead far off.toNat false l = (z, .ok b) → next (.hostBar2Read f off (len, far)) fun t => t.mem = s.mem
          ∧ .hostRead f off (b.map Prod.fst) true (b.any Prod.snd) ∈ t.out
          ∧ (isFar l = false → b = (s.rdSegs l).zip (s.poisBytes l)))
        ∧ (∀ l z e far, x.tdisp ≠ .error → s.span (.ofFunc f) .read off.toNat n = .ok l →
            s.farRead far off.toNat false l = (z, .error e) → next (.hostBar2Read f off (len, far)) fun t =>
          .hostRead f off [] false false ∈ t.out)
        ∧ (∀ e far, x.tdisp ≠ .error → s.span (.ofFunc f) .read off.toNat n = .bad e → next (.hostBar2Read f off (len, far)) fun t =>
          .hostRead f off [] false false ∈ t.out)
        ∧ (∀ far, x.tdisp = .error → next (.hostBar2Read f off (len, far)) fun t =>
          t = { s with out := s.out ++ [.hostRead f off [] false false] }))
      ∧ (∀ far, x.bar2.toNat < off.toNat + n → same (.hostBar2Read f off (len, far))))
    ∧ (∀ data : Bytes,
      (∀ l, data.length ≤ 512 → off.toNat + data.length ≤ x.bar2.toNat → x.tdisp ≠ .error → s.span (.ofFunc f) .write off.toNat data.length = .ok l →
        next (.hostBar2Write f off data) fun t => t.mem = (s.putSegs l data).mem ∧ t.cores = s.cores)
      ∧ (512 < data.length ∨ x.bar2.toNat < off.toNat + data.length ∨ x.tdisp = .error → same (.hostBar2Write f off data)))
    ∧ (∀ op (sz : Bits2) (a b : Bits128) l, let n := 4 * 2 ^ sz.toNat
      let refused (i : Instr) : Prop := next i fun t => t = { s with out := s.out ++ [.hostAtomic f off 0 false] }
      off.toNat + n ≤ x.bar2.toNat →
      (x.tdisp ≠ .error → sz.toNat < 2 ∨ sz = 2 ∧ op = .cas → off.toNat % n = 0 → s.span (.ofFunc f) .atomic off.toNat n = .ok l →
        (s.poisSegs l = false → (∀ g ∈ l, isHbm g.xl.pa = true) → next (.hostAtomic f off op sz a b) fun t =>
          let old := leNat (s.rdSegs l)
          let m := 2 ^ (8 * n)
          let new := match op with
            | .fetchAdd => (old + a.toNat) % m
            | .swap => a.toNat % m
            | .cas => if old = a.toNat % m then b.toNat % m else old
          t.mem = (s.wrSegs l (leBytes n new)).mem ∧ .hostAtomic f off (BitVec.ofNat 128 old) true ∈ t.out)
        ∧ (s.poisSegs l = true → refused (.hostAtomic f off op sz a b)))
      ∧ (x.tdisp = .error ∨ sz = 3 ∨ (sz = 2 ∧ op ≠ .cas) ∨ off.toNat % n ≠ 0 → refused (.hostAtomic f off op sz a b)))
    ∧ (∀ (ix : Bits8) v e, (s.seat c k).vres[ix.toNat]? = some v → v.answerErr ⟨[], [], some (.hcpl true 0), 0, false⟩ = some e →
      (v.kind = .lds → v.key ≠ 8) → (∀ p, v.todo ≠ some (.push p)) → (∀ p, v.todo ≠ some (.pop p)) →
      (∀ w ∈ (s.seat c k).vres, v.id ∉ w.after) → next (.pcieCompletionTimeout c k ix) fun t => t.mem = s.mem ∧ (let z := t.seat c k
        z.vres = (s.seat c k).vres.eraseIdx ix.toNat
        ∧ ∃ y ∈ z.pend, y.code = fHcpl ∧ y.tval = BitVec.ofNat 64 (v.addr.toNat + 2 ^ 60) ∧ y.src = 4))
    ∧ (∀ ix : Bits8, (s.seat c k).vres[ix.toNat]? = none → same (.pcieCompletionTimeout c k ix))
    ∧ ((x.tdisp = .unlocked → next (.lockInterface f) fun t => (t.func f).tdisp = .locked ∧ t.mem = s.mem)
      ∧ (x.tdisp ≠ .unlocked → same (.lockInterface f))
      ∧ (x.tdisp = .locked → next (.startInterface f) fun t => (t.func f).tdisp = .run ∧ t.mem = s.mem)
      ∧ (x.tdisp ≠ .locked → same (.startInterface f)))
    ∧ ((∀ p ∈ s.dies, p.2.insts = []) → (∀ p ∈ s.pkg.keys, p.2.word.toNat % 4 = 0) → next (.stopInterface f) fun t =>
        (t.func f).tdisp = .unlocked ∧ (∀ n r, (t.func f).pqs.find n = some r → r.en = false) ∧ t.mem = s.mem)
    ∧ (∀ req : Bytes,
      (s.pkg.safe = false ∨ f = 0 → next (.spdmRequest f req) fun t => t.mem = s.mem ∧ t.cores = s.cores ∧ (∃ a, .doe f a ∈ t.out)
        ∧ (field req 1 1 = 0xEC → (t.func f).doe = false)
        ∧ (field req 1 1 ≠ 0xE5 → field req 1 1 ≠ 0xEC → (t.func f).doe = x.doe))
      ∧ (s.pkg.safe = true → f ≠ 0 → same (.spdmRequest f req)))
    ∧ (∀ b : BootIn,
      let ok := b.code.toNat ≤ 7 ∧ b.stage.toNat = (if b.code = 0 then 6 else min 5 b.code.toNat)
        ∧ (s.pkg.minver ≤ b.cfgver.toNat ∨ b.code = 1)
      (¬ ok → same (.powerOnReset b))
      ∧ (ok → next (.powerOnReset b) fun t =>
        (∀ a, a < 2 ^ 51 → t.mem.val 0 a = 0) ∧ (Memory.wf s.mem = true → ∀ a, 2 ^ 51 ≤ a → t.mem.val 0 a = s.mem.val 0 a)
        ∧ t.cyc = 0 ∧ t.funcs = [] ∧ t.pkg.safe = decide (b.code ≠ 0) ∧ t.pkg.devnum = b.devnum ∧ t.pkg.minver = s.pkg.minver
        ∧ (t.pkg.mbox.val 0 0).toNat % 16 = b.stage.toNat ∧ t.pkg.mbox.val 0 1 = b.c0
        ∧ t.pkg.mbox.val 0 8 = usable s.l2.lost 3 b.l3
        ∧ (∀ (e : DieId) j, j < 8 → (t.die e).vtrim.val 0 j = bits ([b.v0, b.v1, b.v2, b.v3].getD e.toNat 0) (8 * j + 7) (8 * j))
        ∧ ∀ e, (t.core e).seat = []
            ∧ ((t.core e).mstate = .out ↔ ([b.c0, b.c1, b.c2, b.c3].getD (coreDie e).toNat 0).getLsbD (8 * coreY e + coreX e) = false)))
    ∧ (s.pkg.supply = false → next .supplyLossWarning fun t => t.mem = s.mem ∧ t.cores = s.cores ∧ t.pkg.supply = true
        ∧ t.pkg.hslog = s.pkg.hslog ++ [(fSupply, BitVec.ofNat 64 s.cyc)] ∧ (t.pkg.mbox.val 0 0).getLsbD 6 = true
        ∧ ∃ n ok, .marker (BitVec.ofNat 64 s.cyc) (BitVec.ofNat 64 (s.ptimeAt s.cyc)) n ok ∈ t.out)
    ∧ (s.pkg.supply = true → same .supplyLossWarning)

/-! ### Events of the porter -/

/-- A packet that a running queue starts, of the kind named and with no earlier packet that its BAR waits for, enters the list of
packets started and has its effect: NOP, a malformed packet, SIGNAL, TSTAMP, INTR, LAUNCH, LAUNCH_RES, WAITMEM, FENCE, REARM,
RESUME and PRED, each done with its status and result where it is done at its start (R382 to R389). -/
def Obligations.PacketStartEvents : Prop :=
  ∀ (s u : State) (f : FuncId) (q : Bits8) (far : FarReads) (r r' : PorterQ) (b : List Byte), s.pq f q = some r →
    s.porterRuns f r = true → s.fetchPkt far f r = (u, .got b r') → (pkBar b = true → r.earlier = []) →
    let p : Pkt := ⟨r.nextId, b, false, 0, 0, s.cyc, none, r.rearm.isSome⟩
    let z := u.setPq f q { r' with pkts := r'.pkts ++ [p], nextId := r.nextId + 1 }
    let starts (kind : Nat) (i : Instr) (y : State → Pkt → Prop) : Prop := gotKind b (s.func f).vec = kind →
      ∃ t r₁ p₁, exec i s = .next t ∧ t.pq f q = some r₁ ∧ p₁ ∈ r₁.pkts ∧ p₁.id = r.nextId ∧ p₁.cells = b ∧ y t p₁
    let fin (g : Pkt) (status : Nat) (result : Nat) : Prop :=
      g.done = true ∧ g.status = status ∧ g.result = BitVec.ofNat 64 result
    starts 0 (.porterNop f (q, far)) (fun t g => t.mem = s.mem ∧ fin g 0 0)
    ∧ starts 11 (.malformedPacket f (q, far)) (fun t g => t.mem = s.mem ∧ fin g 1 0)
    ∧ starts 3 (.waitmem f (q, far)) (fun t g => t = z ∧ g.done = false)
    ∧ starts 9 (.porterFence f (q, far)) (fun t g => t = z ∧ g.done = false)
    ∧ (let add := field b 32 1 = 1
      (∀ l, ¬ add → z.porterSpan f .write (field b 16 8) 8 = .ok l → farBad far (field b 16 8) .write false l = none →
        starts 4 (.signal f (q, far)) fun t g => t.mem = (z.putSegs l (leBytes 8 (field b 24 8))).mem ∧ fin g 0 0)
      ∧ (∀ l old y, add → z.porterSpan f .atomic (field b 16 8) 8 = .ok l →
          z.porterAdd f (field b 16 8) l (field b 24 8) (farOf far (field b 16 8)) = (y, .ok old) →
        starts 4 (.signal f (q, far)) fun t g => t.mem = y.mem ∧ fin g 0 old)
      ∧ (∀ l e y, add → z.porterSpan f .atomic (field b 16 8) 8 = .ok l →
          z.porterAdd f (field b 16 8) l (field b 24 8) (farOf far (field b 16 8)) = (y, .error e) →
        starts 4 (.signal f (q, far)) fun _ g => fin g 4 e.code.toNat)
      ∧ (∀ l g₀, add → z.porterSpan f .atomic (field b 16 8) 8 = .ok [g₀] → l = [g₀] → isHbm g₀.xl.pa = true → z.poisSegs l = false →
        starts 4 (.signal f (q, far)) fun t g => fin g 0 (leNat (z.rdSegs l))
          ∧ t.mem = (z.putSegs l (leBytes 8 (leNat (z.rdSegs l) + field b 24 8))).mem)
      ∧ (∀ l x, ¬ add → z.porterSpan f .write (field b 16 8) 8 = .ok l → farBad far (field b 16 8) .write false l = some x →
        starts 4 (.signal f (q, far)) fun _ g => fin g 4 x.code.toNat)
      ∧ (∀ x, ¬ add → z.porterSpan f .write (field b 16 8) 8 = .bad x → starts 4 (.signal f (q, far)) fun _ g => fin g 4 x.code.toNat))
    ∧ (∀ l, z.porterSpan f .write (field b 16 8) 16 = .ok l → farBad far (field b 16 8) .write false l = none →
        starts 7 (.tstamp f (q, far)) fun t g => t.mem = (z.putSegs l (leBytes 8 (u.ptimeAt s.cyc) ++ leBytes 8 s.cyc)).mem ∧ fin g 0 0)
    ∧ (∀ v, let n := field b 16 2
      (s.func f).vec.find n = some v →
      (v.masked = true → starts 8 (.intr f (q, far)) fun t g => t.mem = s.mem ∧ fin g 0 0 ∧ ∃ w, (t.func f).vec.find n = some w
        ∧ w.pend.toNat = min 255 (v.pend.toNat + 1) ∧ w.masked = true)
      ∧ (v.masked = false → v.ccnt.toNat ≤ v.pend.toNat + 1 → starts 8 (.intr f (q, far)) fun t g => t.mem = s.mem ∧ fin g 0 0
        ∧ .msix f n ∈ t.out ∧ ∃ w, (t.func f).vec.find n = some w ∧ w.pend = 0))
    ∧ (let d := z.launchDie f (lrDesc (b.drop 64))
      starts 1 (.porterLaunch f (q, far)) fun t g => t.mem = s.mem ∧ g.done = false ∧ ∃ a, (t.die d).lreq = (s.die d).lreq ++ [a]
        ∧ a.asker = .porter f q r.nextId ∧ a.func = f ∧ a.record = some (b.drop 64) ∧ a.priv = r'.priv)
    ∧ (z.resDesc f b = none → starts 2 (.launchRes f (q, far)) fun t g => t.mem = s.mem ∧ fin g 5 0)
    ∧ (∀ a, z.resDesc f b = some a →
      let rec' := setBytes (b.drop 64) 0 (leBytes 8 a)
      let d := z.launchDie f (lrDesc rec')
      starts 2 (.launchRes f (q, far)) fun t g => t.mem = s.mem ∧ g.done = false ∧ ∃ y, (t.die d).lreq = (s.die d).lreq ++ [y]
        ∧ y.asker = .porter f q r.nextId ∧ y.record = some rec')
    ∧ ((∀ v y, z.testCond far f b 32 28 = (y, .ok (v, false)) → starts 6 (.rearm f (q, far)) fun t g => t.mem = s.mem ∧ fin g 0 0)
      ∧ (∀ v y w l, z.testCond far f b 32 28 = (y, .ok (v, true)) → 1 ≤ field b 26 2 →
          y.porterRead far f (field b 16 8) (64 * field b 24 2) = (w, .ok l) → graphOk (s.func f).vec l = true →
        starts 6 (.rearm f (q, far)) fun t g => g.done = false ∧ t.mem = s.mem
          ∧ ∃ r₁, t.pq f q = some r₁ ∧ r₁.rearm = some ⟨r.nextId, 0, l⟩))
    ∧ (let found := z.resumeOn f (field b 16 4) (field b 20 2) (field b 22 1) (BitVec.ofNat 64 (field b 24 8))
      (found = none → starts 10 (.resume f (q, far)) fun t g => t.mem = s.mem ∧ fin g 6 0)
      ∧ (∀ n y, found = some (n, y) → starts 10 (.resume f (q, far)) fun t g => t.cores = y.cores ∧ fin g 0 n))
    ∧ (∀ c y w, r.rearm = none → r.arm = [] → r.earlier = [] → s.readCells far f r r.head.toNat 1 = (u, b, none) →
      let nt := pkNt b
      let nf := pkNf b
      1 + nt + nf ≤ r.ready →
      z.readCells far f { r' with pkts := r'.pkts ++ [p], nextId := r.nextId + 1 } r'.head.toNat (nt + nf) = (y, c, none) →
      armOk (s.func f).vec (c.take (64 * nt)) = true → armOk (s.func f).vec (c.drop (64 * nt)) = true →
      ∀ v ok, y.testCond far f b 16 40 = (w, .ok (v, ok)) →
        starts 5 (.pred f (q, far)) fun t g => t.mem = s.mem ∧ fin g 0 (if ok then 1 else 0) ∧ ∃ r₁, t.pq f q = some r₁
          ∧ r₁.head = r'.head + BitVec.ofNat 32 (nt + nf)
          ∧ r₁.arm = if ok then c.take (64 * nt) else c.drop (64 * nt))

/-- A doorbell makes cells valid or stops an overrun queue; EN restarts it; a WAITMEM ends with the word it read, or with status 3
after its time; a REARM goes on or ends with its count; a packet that is done completes with its record written; a vector's message is
sent when its time has passed or it is unmasked (R382, R384 to R386, R388, R389). -/
def Obligations.PorterEvents : Prop :=
  ∀ (s : State) (f : FuncId) (q : Bits8) (ix : Bits8) (far : FarReads) (r : PorterQ), s.pq f q = some r →
    let next (j : Instr) (p : State → Prop) : Prop := ∃ t, exec j s = .next t ∧ p t
    let same (j : Instr) : Prop := exec j s = .next s
    let ends (t : State) (id status result : Nat) : Prop := ∃ r₁, t.pq f q = some r₁ ∧ ∃ g ∈ r₁.pkts, g.id = id ∧ g.done = true
      ∧ g.status = status ∧ g.result = BitVec.ofNat 64 result
    (∀ tail : Imm32,
      ((tail - r.head).toNat ≤ 2 ^ r.lsz → next (.porterDoorbell f q tail) fun t => t.mem = s.mem
          ∧ t.pq f q = some { r with tail := tail })
      ∧ (2 ^ r.lsz < (tail - r.head).toNat → next (.porterDoorbell f q tail) fun t => t.mem = s.mem
          ∧ t.pq f q = some { r with tail := tail, err := true, en := false }))
    ∧ (next (.queueEnable f q) fun t => t.mem = s.mem ∧ t.pq f q = some { r with en := true, err := false, head := r.tail })
    ∧ (∀ p, r.pkts[ix.toNat]? = some p → p.done = false → pkType p.cells = 3 →
      let tmo := field p.cells 44 4
      (∀ v y, s.testCond far f p.cells 16 40 = (y, .ok (v, true)) → next (.waitmemSatisfied f q (ix, far)) fun t => t.mem = s.mem ∧ ends t p.id 0 v)
      ∧ (∀ v y, s.testCond far f p.cells 16 40 = (y, .ok (v, false)) →
          next (.waitmemSatisfied f q (ix, far)) fun t => t = y ∧ t.mem = s.mem ∧ t.funcs = s.funcs)
      ∧ (∀ v o y, tmo ≠ 0 → p.at0 + 800 * tmo ≤ s.cyc → s.testCond far f p.cells 16 40 = (y, .ok (v, o)) →
          next (.waitmemTimeout f q (ix, far)) fun t => t.mem = s.mem ∧ ends t p.id 3 v)
      ∧ (tmo = 0 ∨ s.cyc < p.at0 + 800 * tmo → same (.waitmemTimeout f q (ix, far))))
    ∧ (∀ g p, r.rearm = some g → g.left = [] → (∀ k ∈ r.pkts, k.graph = false) → (r.pkts.find? fun k => k.id = g.id) = some p →
      (∀ v y, s.testCond far f p.cells 32 28 = (y, .ok (v, false)) → next (.rearmIteration f (q, far)) fun t => t.mem = s.mem
          ∧ ends t p.id 0 (g.iters + 1) ∧ ∃ r₁, t.pq f q = some r₁ ∧ r₁.rearm = none)
      ∧ (∀ v y w l, s.testCond far f p.cells 32 28 = (y, .ok (v, true)) → g.iters + 1 < field p.cells 26 2 →
          y.porterRead far f (field p.cells 16 8) (64 * field p.cells 24 2) = (w, .ok l) → graphOk (s.func f).vec l = true →
        next (.rearmIteration f (q, far)) fun t => t.mem = s.mem ∧ ∃ r₁, t.pq f q = some r₁ ∧ r₁.rearm = some ⟨p.id, g.iters + 1, l⟩))
    ∧ ((r.rearm = none ∨ ∃ g, r.rearm = some g ∧ g.left ≠ []) → same (.rearmIteration f (q, far)))
    ∧ (∀ p, r.pkts[ix.toNat]? = some p → p.done = true →
      let c := field p.cells 8 8
      (pkCpl p.cells = false → next (.packetComplete f q (ix, far)) fun t => t.mem = s.mem
        ∧ t.pq f q = some { r with pkts := r.pkts.eraseIdx ix.toNat })
      ∧ (∀ l, pkCpl p.cells = true → paMul c 16 = true →
          (s.setPq f q { r with pkts := r.pkts.eraseIdx ix.toNat }).porterSpan f .write c 16 = .ok l →
          farBad far c .write false l = none → next (.packetComplete f q (ix, far)) fun t => t.pq f q = some { r with pkts := r.pkts.eraseIdx ix.toNat } ∧ t.mem = (s.putSegs l
          (leBytes 4 (field p.cells 4 4) ++ leBytes 2 p.status ++ leBytes 1 (field p.cells 0 1) ++ [0]
            ++ leBytes 8 p.result.toNat)).mem))
    ∧ (r.pkts[ix.toNat]? = none → same (.packetComplete f q (ix, far)))
    ∧ (∀ (n : Bits11) v, (s.func f).vec.find n.toNat = some v →
      (v.masked = true → same (.intrTimeout f n))
      ∧ (v.masked = false → v.pend ≠ 0 → v.ctime ≠ 0 → v.since + 800 * v.ctime.toNat ≤ s.cyc → next (.intrTimeout f n) fun t =>
          t.mem = s.mem ∧ t.out = s.out ++ [.msix f n.toNat] ∧ (t.func f).vec.find n.toNat = some { v with pend := 0, flush := false })
      ∧ (s.locked f = false → v.pend = 0 → next (.msixUnmask f n) fun t => t.mem = s.mem ∧ t.out = s.out
          ∧ (t.func f).vec.find n.toNat = some { v with masked := false })
      ∧ (s.locked f = false → v.pend ≠ 0 → v.ccnt.toNat ≤ v.pend.toNat → next (.msixUnmask f n) fun t =>
          t.out = s.out ++ [.msix f n.toNat]))

/-! ### Events of the fabric -/

/-- A link that exists trains with the credits of its receiver, sends one flit in a slot or none, and counts on; a fenced die's package
link sends nothing, nor does any link during a hop of the fabric clock. A received flit meets its class's context, and what is whole is
delivered, a credit return to its source's count; a bad flit is replayed, and after eight failed retries takes the link down, while
between routers it is poisoned and goes on. A timer discards a partial packet with F_HALF; a link goes down with F_LINK; starvation is
recorded with F_STARVE; a suspension setting within its limits is taken (R350, R359, R407, R409, R412 to R418; the packet that returns a
credit: the model's choice, log 90). -/
def Obligations.LinkEvents : Prop :=
  ∀ (s : State) (l : LinkId) (cl : Bits2),
    let next (j : Instr) (p : State → Prop) : Prop := ∃ t, exec j s = .next t ∧ p t
    let same (j : Instr) : Prop := exec j s = .next s
    let x := s.link l
    let tag (t : State) (code : Bits16) : Prop := ∃ v, (code, v) ∈ t.pkg.hslog
    (∀ partner, let own := l.port.toNat < 64 ∧ partner = s.pkg.devnum
      (LinkId.real l = false → same (.linkTrain l partner))
      ∧ (LinkId.real l = true → ¬ own → next (.linkTrain l partner) fun t => t.mem = s.mem ∧ (t.link l).up = true ∧ (t.link l).partner = partner
        ∧ (t.link l).n = 0 ∧ ∀ k, k < 8 → (t.link l).cred.val 0 k = 130)
      ∧ (LinkId.real l = true → own → next (.linkTrain l partner) fun t => (t.link l).up = false ∧ (fLink, BitVec.ofNat 64 l.port.toNat) ∈ t.pkg.hslog))
    ∧ (∀ arr cr, let y := x.join arr cr
      let runs := x.up = true ∧ l.rx = false ∧ s.linkFenced l = false ∧ s.pkg.hop = none
      (¬ runs → same (.flitSlot l arr cr))
      ∧ (runs → y.pick = none → next (.flitSlot l arr cr) fun t => t.mem = s.mem ∧ t.out = s.out
          ∧ (t.link l).n = x.n + 1)
      ∧ (∀ i p g, runs → y.pick = some i → y.tx[i]? = some p → p.flits[p.sent]? = some g →
          next (.flitSlot l arr cr) fun t => t.mem = s.mem ∧ (t.link l).n = x.n + 1
            ∧ t.out = s.out ++ [.flit l p.cls (decide (p.sent = 0)) (decide (p.sent + 1 = p.flits.length)) g.2 g.1]
            ∧ (p.sent = 0 → (t.link l).cred.val 0 (2 * p.cls.toNat + p.chQ.toNat) =
                y.cred.val 0 (2 * p.cls.toNat + p.chQ.toNat) - p.flits.length)))
    ∧ (∀ g : Flit, let c := g.cls.toNat
      let y := x.ctx c
      let h : BitVec 512 × Bool := (g.data, g.psn || !g.ok)
      let taken := g.ok = true ∨ LinkId.mesh l = true
      (x.up = false ∨ l.rx = false → same (.flitReceive l g))
      ∧ (x.up = true → l.rx = true →
        (¬ taken → x.retry < 8 → next (.flitReceive l g) fun t => (t.link l).retry = x.retry + 1 ∧ (t.link l).up = true)
        ∧ (¬ taken → 8 ≤ x.retry → next (.flitReceive l g) fun t => (t.link l).up = false)
        ∧ (taken → g.sop = true → g.eop = true → next (.flitReceive l g) fun t =>
            t.out = s.out ++ [.packet l g.cls [h]] ∧ ((t.link l).ctx c).opened = false ∧ (t.link l).retry = 0
            ∧ (y.opened = true → tag t fHalf)
            ∧ (g.cls = 0 → hdType g.data = 10 → l.port.toNat < 64 →
                t.pkg.cred.val 0 (hdSdev g.data) = s.pkg.cred.val 0 (hdSdev g.data) - 1))
        ∧ (taken → g.sop = true → g.eop = false → next (.flitReceive l g) fun t =>
            (t.link l).ctx c = ⟨true, [h], s.cyc⟩ ∧ (y.opened = true → tag t fHalf))
        ∧ (taken → g.sop = false → y.opened = true → g.eop = true → next (.flitReceive l g) fun t =>
            t.out = s.out ++ [.packet l g.cls (y.flits ++ [h])] ∧ ((t.link l).ctx c).opened = false)
        ∧ (taken → g.sop = false → y.opened = true → g.eop = false → next (.flitReceive l g) fun t =>
            (t.link l).ctx c = ⟨true, y.flits ++ [h], s.cyc⟩)
        ∧ (taken → g.sop = false → y.opened = false → next (.flitReceive l g) fun t =>
            tag t fHalf ∧ ((t.link l).ctx c).opened = false)))
    ∧ (let y := x.ctx cl.toNat
      let due := y.opened = true ∧ 4 * 4096 ≤ 5 * (s.cyc - y.timer)
      (due → next (.reassemblyTimeout l cl) fun t => tag t fHalf ∧ ((t.link l).ctx cl.toNat).opened = false)
      ∧ (¬ due → same (.reassemblyTimeout l cl)))
    ∧ (x.up = true → next (.linkDown l) fun t => (t.link l).up = false
        ∧ (l.rx = false → (fLink, BitVec.ofNat 64 l.port.toNat) ∈ t.pkg.hslog ∧ ((∃ p ∈ x.tx, p.sent ≠ 0) → tag t fHalf)))
    ∧ (x.up = false → same (.linkDown l))
    ∧ (let limit := 16 * 2 ^ bits x.susp 11 8
      (limit ≤ x.starve.val 0 cl.toNat → next (.starvation l cl) fun t => tag t fStarve ∧ (t.link l).starve.val 0 cl.toNat = 0)
      ∧ (x.starve.val 0 cl.toNat < limit → same (.starvation l cl)))
    ∧ (∀ w : Word, (suspOk w = true → next (.suspensionWrite l w) fun t => t.mem = s.mem ∧ (t.link l).susp = w &&& 0xF77)
        ∧ (suspOk w = false → same (.suspensionWrite l w)))

/-- Transactions that nothing answers, or whose route is dead, fail with F_LINK, and a push whose acknowledgement does not come ends
with its reason; a request of another device is refused and logged, or reads, writes or updates memory, and is answered in its class; a
pushed payload is staged, or discarded and its credit given back, with its reason if an acknowledgement is asked for; a collective is
performed when all have joined, and ends for each participant once its destinations are written, or fails with its reason; registers
without a row of their own take what their access lets them take (R6, R249, R366, R378, R382, R388, R390, R408, R419 to R427; values out
of range are ignored: the model's choice, log 79; a device behind a dead link: log 25). -/
def Obligations.FabricEvents : Prop :=
  ∀ (s : State) (c : CoreId) (k : SeatId) (d : DieId),
    let next (j : Instr) (p : State → Prop) : Prop := ∃ t, exec j s = .next t ∧ p t
    let same (j : Instr) : Prop := exec j s = .next s
    let plain (v : Vres) : Prop := v.kind.isMem = true ∧ ¬ (v.kind = .lds ∧ v.key = 8)
      ∧ (∀ p, v.todo ≠ some (.push p)) ∧ ∀ p, v.todo ≠ some (.pop p)
    (∀ (ix : Bits8) v, (s.seat c k).vres[ix.toNat]? = some v →
      (s.cyc < v.ck + 800 * s.pkg.etmo → same (.transactionTimeout c k ix))
      ∧ (v.ck + 800 * s.pkg.etmo ≤ s.cyc → v.kind ≠ .coll → v.owed = false → same (.transactionTimeout c k ix))
      ∧ (v.ck + 800 * s.pkg.etmo ≤ s.cyc → v.owed = true → plain v →
          (∀ w ∈ (s.seat c k).vres, v.id ∉ w.after) → next (.transactionTimeout c k ix) fun t => t.mem = s.mem ∧ (t.seat c k).vres = (s.seat c k).vres.eraseIdx ix.toNat
          ∧ ∃ a ∈ (t.seat c k).pend, a.code = fLink ∧ a.tval = v.addr ∧ a.src = 4)
      ∧ (v.ck + 800 * s.pkg.etmo ≤ s.cyc → v.owed = true → v.kind = .qpush → v.todo = none →
          (∀ w ∈ (s.seat c k).vres, v.id ∉ w.after) → next (.transactionTimeout c k ix) fun t => t.mem = s.mem
          ∧ (t.seat c k).vres = (s.seat c k).vres.eraseIdx ix.toNat
          ∧ ∀ n : SReg, v.dest = .s n → n ≠ 0 → (t.seat c k).sr.val 0 n.toNat = BitVec.ofNat 64 (2 ^ 63 + 5)))
    ∧ (∀ l : LinkId, let x := s.link l
      (x.up = true → same (.routeRecompute l))
      ∧ (∀ v, x.up = false → l.port.toNat < 64 → (s.seat c k).vres = [v] → x.partner.toNat ∈ v.owedBy → plain v →
          (∀ c k, ∀ w ∈ (s.seat c k).vres, w.after = []) → next (.routeRecompute l) fun t => (t.seat c k).vres = []
            ∧ ∃ a ∈ (t.seat c k).pend, a.code = fLink ∧ a.tval = v.addr))
    ∧ (∀ (src : FarDev) (addr : Word) (op : FabOp) (data : Bytes) (po : GranNos),
      let pa := bits addr 51 0
      let n := fabLen op data
      let answer (t : State) (b : Bytes) (ok : Bool) (p : GranNos) : Prop :=
        t.out = s.out ++ [.fabricData src.1 b ok p src.2.toNat]
      (s.imported src.1 pa n = none → next (.fabricAccess src addr op data po) fun t => t.mem = s.mem ∧ answer t [] false []
        ∧ ∃ a, (t.pkg.tlog.val [] (if isHbm pa then pa / 2 ^ 37 % 4 else 8)).getLast? =
            some ⟨BitVec.ofNat 64 pa, BitVec.ofNat 64 (2 ^ 32 + src.1.toNat), a, s.cyc⟩)
      ∧ (∀ f, s.imported src.1 pa n = some f → let kid := s.rangeKid f pa
        (∀ m, op = .read m → next (.fabricAccess src addr op data po) fun t => t.mem = s.mem
          ∧ answer t (s.rdBytes kid pa n) true (poisGrans ((s.rdBytes kid pa n).zip (s.poisBytes [fabSeg kid pa n]))))
        ∧ (op = .write → next (.fabricAccess src addr op data po) fun t => t.mem = (s.wrBytes kid pa data).mem
          ∧ answer t [] true [] ∧ ∀ g ∈ po, granOf (pa + 64 * g) ∈ t.pois)
        ∧ ((∀ m, op ≠ .read m) → op ≠ .write → let bad := (granules pa (opWidth op)).any s.isPois
          next (.fabricAccess src addr op data po) fun t =>
            let old := leNat (s.rdBytes kid pa (opWidth op))
            answer t (leBytes (opWidth op) old) true (if bad then [0] else [])
            ∧ (∀ w, bad = false → opNew op old = some w → t.mem = (s.wrBytes kid pa (leBytes (opWidth op) w)).mem)
            ∧ (bad = true ∨ opNew op old = none → t.mem = s.mem))))
    ∧ (∀ (src : FarDev) (f : FuncId) (qn : Bits12) (ack : Bool) (org : Bits16) (pay : Bytes) (po : GranNos),
      let i := Instr.remotePushArrival d src f qn ack org (pay, po)
      let acked (t : State) (m : Nat) : Prop := t.out = s.out ++ .creditReturn src.1 ::
        if ack then [.queueAck src.1 org (BitVec.ofNat 64 (2 ^ 63 + m)) src.2.toNat] else []
      (s.queue? d qn.toNat = none → next i fun t => (t.die d).qdrop = (s.die d).qdrop + 1 ∧ acked t 1)
      ∧ (∀ u, s.queue? d qn.toNat = some u →
        ((src.1, f) ∉ u.pushDev → next i fun t => t.queue? d qn.toNat = some { u with drops := u.drops + 1 } ∧ acked t 2)
        ∧ ((src.1, f) ∈ u.pushDev → 2 ^ u.lrsz < (8 + pay.length + 63) / 64 → next i fun t =>
            t.queue? d qn.toNat = some { u with drops := u.drops + 1 } ∧ acked t 3)
        ∧ ((src.1, f) ∈ u.pushDev → (8 + pay.length + 63) / 64 ≤ 2 ^ u.lrsz → next i fun t => t.out = s.out ∧ t.mem = s.mem
            ∧ ∃ a, (t.die d).qreq = (s.die d).qreq ++ [a] ∧ a.remote = true ∧ a.payload = pay ∧ a.pois = po ∧ a.qnum = qn
            ∧ a.origin = org ∧ a.dev = src.1 ∧ a.cls = src.2.toNat ∧ a.ack = ack)))
    ∧ (∀ (f : FuncId) (key : Word) (m : Imm32) (rank : Bits16) (far : FarBufs),
      let told (t : State) (j : Joiner) (w : Word) : Prop := ∀ y z, (s.seat j.core j.seat).vres = [y] → y.kind = .coll →
        y.key = j.res → (t.seat j.core j.seat).vres = [z] → z = { y with ready := true, data := w.setWidth 8192 }
      let failed (t : State) (r : Nat) : Prop := ∀ y ∈ t.pkg.colls, y.is f key m.toNat = true → y.dead = some r
      let why := far.findSome? fun b => b.why
      ((∀ x ∈ s.pkg.colls, x.is f key m.toNat = true → x.dead ≠ none) → (why = none → same (.collComplete f key m rank far))
        ∧ same (.collTimeout f key m))
      ∧ (∀ x j, (s.pkg.colls.find? fun x => x.is f key m.toNat && x.dead.isNone) = some x →
        let parts := cdParts j.desc j.lw j.lh
        let away := x.acks.filter fun r => (farRank far r).isNone
        (∀ r, why = some r → (1 ≤ r.toNat ∧ r.toNat ≤ 4 → x.joined = [j] → next (.collComplete f key m rank far) fun t =>
            failed t r.toNat ∧ told t j (BitVec.ofNat 64 (2 ^ 63 + r.toNat)))
          ∧ (r.toNat = 0 ∨ 4 < r.toNat → same (.collComplete f key m rank far)))
        ∧ (why = none → x.done = true → away = [] → (x.joined.find? fun j => j.rank = rank.toNat) = some j →
          next (.collComplete f key m rank far) fun t => t.mem = s.mem ∧ told t j 0)
        ∧ (why = none → x.done = true → away ≠ [] → next (.collComplete f key m rank far) fun t => t.mem = s.mem ∧ t.cores = s.cores)
        ∧ (∀ rest ty src u, why = none → x.joined = j :: rest → x.done = false → cdTy j.desc = some ty →
            s.bufFault parts x.joined = none → s.sources parts x.joined far parts = some src →
            (s.askSources parts x.joined).putAll parts (ty.width / 8) (collOut j.desc (fcrOf (rank0Fcr x.joined far)) ty src) x.joined = some u →
          next (.collComplete f key m rank far) fun t => t.mem = u.mem)
        ∧ (∀ p, why = none → x.joined = [j] → x.done = false → s.bufFault parts x.joined = some p →
          next (.collComplete f key m rank far) fun t => failed t 4 ∧ told t j (BitVec.ofNat 64 (2 ^ 63 + 4)))
        ∧ (∀ rest, x.joined = j :: rest → x.done = false →
          let late := cdTmo j.desc ≠ 0 ∧ j.at0 + 800 * cdTmo j.desc ≤ s.cyc ∧ x.joined.length < parts
          (late → rest = [] → next (.collTimeout f key m) fun t => failed t 3 ∧ told t j (BitVec.ofNat 64 (2 ^ 63 + 3)))
          ∧ (¬ late → same (.collTimeout f key m)))))
    ∧ (∀ (f : FuncId) (w : Word),
      (mwinOk w = true → next (.registerWrite (.mwin c) w) fun t =>
          t.core c = { s.core c with mwin := w &&& 0x70FFFFF1F, overs := min (s.core c).overs (bits w 27 24) })
      ∧ (mwinOk w = false → same (.registerWrite (.mwin c) w))
      ∧ (bits w 9 0 ≤ (s.core c).raf.toNat → next (.registerWrite (.mral c) w) fun t =>
          t.core c = { s.core c with raf := BitVec.ofNat 10 (bits w 9 0) })
      ∧ (next (.registerWrite (.wgrant c k) w) fun t => (t.core c).wgrant.val 0 k.toNat = w &&& 0x0001FFFF0001FFFF &&& ~~~ s.resident c)
      ∧ (w.getLsbD 0 = false → next (.registerWrite (.withdraw c) w) fun t => t.core c = { s.core c with withdrawn := false })
      ∧ (w.getLsbD 0 = true → (s.core c).withdrawn = true → same (.registerWrite (.withdraw c) w))
      ∧ (10 ≤ w.toNat → w.toNat ≤ 10000 → next (.registerWrite .etmo w) fun t => t.pkg = { s.pkg with etmo := w.toNat })
      ∧ (w.toNat < 10 ∨ 10000 < w.toNat → same (.registerWrite .etmo w))
      ∧ (∀ n, let old := s.pkg.fwin.val ⟨0, 0, false, 0⟩ n.toNat
        (w.toNat % 2 ^ 45 = 0 → next (.registerWrite (.fwinBase n) w) fun t => t.pkg.fwin.find n.toNat = some { old with base := w })
        ∧ (w.toNat % 2 ^ 45 ≠ 0 → same (.registerWrite (.fwinBase n) w))
        ∧ next (.registerWrite (.fwinCtl n) w) fun t =>
            t.pkg.fwin.find n.toNat = some ⟨w.extractLsb' 0 9, old.base, w.getLsbD 9, w.extractLsb' 10 5⟩)
      ∧ (∀ n, next (.registerWrite (.importRow n) w) fun t => t.pkg.imports.find n.toNat =
          if w.getLsbD 63 then some ⟨w.extractLsb' 0 9, bits w 30 9, w.extractLsb' 31 5⟩ else none)
      ∧ (next (.registerWrite (.reqEnable f) w) fun t => (t.func f).aore = w.getLsbD 0)
      ∧ (∀ q r, s.pq f q = some r → s.locked f = false →
        (r.en = false → w.toNat % 64 = 0 → paOk w.toNat = true → next (.registerWrite (.qBase f q) w) fun t =>
          t.pq f q = some { r with base := w })
        ∧ (r.en = true → same (.registerWrite (.qBase f q) w))
        ∧ (r.en = false → 4 ≤ bits w 4 0 → bits w 4 0 ≤ 16 → next (.registerWrite (.qLsz f q) w) fun t => ∃ u, t.pq f q = some u
          ∧ u.lsz = bits w 4 0 ∧ u.en = w.getLsbD 8 ∧ (w.getLsbD 8 = true → u.err = false ∧ u.head = r.tail))
        ∧ (r.en = true → w.getLsbD 8 = true → bits w 4 0 = r.lsz → next (.registerWrite (.qLsz f q) w) fun t =>
          t.pq f q = some { r with err := false, head := r.tail }))
      ∧ (∀ n v, (s.func f).vec.find n.toNat = some v → s.locked f = false → w.getLsbD 0 = true →
          next (.registerWrite (.vecMask f n) w) fun t => (t.func f).vec.find n.toNat = some { v with masked := true })
      ∧ (∀ n v, (s.func f).vec.find n.toNat = some v → s.locked f = false → v.masked = true →
          (next (.registerWrite (.vecAddr f n) w) fun t => (t.func f).vec.find n.toNat = some { v with addr := w })
          ∧ next (.registerWrite (.vecData f n) w) fun t => (t.func f).vec.find n.toNat = some { v with data := w.extractLsb' 0 32 })
      ∧ (next (.registerWrite (.hmdb f) w) fun t => (t.func f).hmdb = (w.getLsbD 0 || (s.func f).hmdb))
      ∧ (∀ i, (s.func f).mreq.length = 64 → next (.registerWrite (.mailReq f i) w) fun t =>
          field (t.func f).mreq (8 * i.toNat) 8 = w.toNat)
      ∧ (∀ a b, same (.registerWrite (.readOnly a b) w)))

/-! ### The machine as a whole -/

/-- The words that the spec writes out for its examples decode to the instructions they stand for, in every slot (R34 to R39). -/
def Obligations.ExampleWordsDecode : Prop :=
  decodeBundle (bundleOf (.s 0x39180000000004)) = .ok ⟨0, false⟩ (.loopReg 6 1) .nop .nop .nop
  ∧ decodeBundle (bundleOf (.s 0x3A000000000001)) = .ok ⟨0, false⟩ (.lclose 1 0) .nop .nop .nop
  ∧ decodeBundle (bundleOf (.a 0x0222000000000040)) = .ok ⟨0, false⟩ .nop (.aaddi 2 2 64) .nop .nop
  ∧ decodeBundle (bundleOf (.a 0x2080430000000000)) = .ok ⟨0, false⟩ .nop (.vld 64 (.post 2 1) ⟨0, false⟩ .f32 0) .nop .nop
  ∧ decodeBundle (bundleOf (.v 0x018C810280080000)) = .ok ⟨0, false⟩ .nop .nop (.vadd 70 (.pq 1) (.v 5) ⟨2, false⟩ .f32) .nop
  ∧ decodeBundle (bundleOf (.v 0x300E82848012000D)) =
      .ok ⟨0, false⟩ .nop .nop (.vcmp 7 (.pq 2) (.s 9) 5 true ⟨4, true⟩ .f32) .nop
  ∧ decodeBundle (bundleOf (.x 0x010D512500000000)) = .ok ⟨0, false⟩ .nop .nop .nop (.mma .h0 ⟨3, 5, 4, 9, 40⟩)
  ∧ decodeBundle (bundleOf (.x 0x038000000007F880)) = .ok ⟨0, false⟩ .nop .nop .nop (.mzero .hw 128 255 false 0 0 0 0)
  ∧ decodeBundle (bundleOf (.x 0x0560000000000000)) = .ok ⟨0, false⟩ .nop .nop .nop (.ovpop 12)
  ∧ decodeBundle (bundleOf (.x 0x2002400000000002)) = .ok ⟨0, false⟩ .nop .nop .nop (.sigReg 2 9)
  ∧ decodeBundle (bundleOf (.x 0x2100000000000035)) = .ok ⟨0, false⟩ .nop .nop .nop (.swait 5 3)
  ∧ decodeBundle (bundleOf (.x 0x283286B0004001F4)) = .ok ⟨0, false⟩ .nop .nop .nop (.qpush 6 10 3 11 500 4)
  ∧ decodeBundle (bundleOf (.x 0x3840060000000006)) = .ok ⟨0, false⟩ .nop .nop .nop (.launch 8 3 6)
  ∧ decodeBundle (bundleOf (.x 0x48480C0000000055)) = .ok ⟨0, false⟩ .nop .nop .nop (.coll 9 6 5 1 1)
  ∧ decodeBundle (bundleOf (.x 0x0000000000000001)) = .bad 3 0

/-- Decode and encode agree: the syllable that a well-formed instruction encodes to decodes to that instruction, with every operand at
every value that its encoding admits (R34 to R48). -/
def Obligations.EncodingRoundTrip : Prop :=
  ∀ (i : Instr) (y : Syl), i.wf = true → encode i = some y → decodeSyl y = some i

/-- Registers and cores by their numbers: die, x and y name a core, and its cluster (R3); the queues of the engines hold 16, 16 and 32
entries (R174); v and p numbers name window rows and physical predicates under the rotation bases (R23); s0 reads zero and p0 all ones
(R17). -/
def Obligations.NumbersNameParts : Prop :=
  (∀ (d : DieId) (x y : Nat), x < 8 → y < 8 → coreDie (mkCore d x y) = d ∧ coreX (mkCore d x y) = x ∧ coreY (mkCore d x y) = y)
  ∧ (∀ c : CoreId, mkCore (coreDie c) (coreX c) (coreY c) = c ∧ coreX c < 8 ∧ coreY c < 8)
  ∧ (∀ x y k : Nat, x < 8 → y < 8 → k < 8 → (clusterOf x y = k ↔
      4 * (k % 2) ≤ x ∧ x ≤ 4 * (k % 2) + 3 ∧ 2 * (k / 2) ≤ y ∧ y ≤ 2 * (k / 2) + 1))
  ∧ clusterOf 5 3 = 3
  ∧ capacity 0 = 16 ∧ capacity 1 = 16 ∧ capacity 2 = 32
  ∧ (∀ (q : SeatSt) (n : VReg), q.winRow n =
      if n.toNat < 64 then n.toNat else 64 + (n.toNat - 64 + q.vrb.toNat) % 64)
  ∧ (∀ (q : SeatSt) (n : PReg), n.toNat < 12 → (q.predIx n).toNat =
      if n.toNat < 4 then n.toNat else 4 + (n.toNat - 4 + q.prb.toNat) % 8)
  ∧ ∀ e : At, e.sGet 0 = (0, false) ∧ e.pGet 0 = BitVec.allOnes 1024

/-- A fixed-latency result put in flight at issue cycle `x.ic` with bound `lat` is what its register holds from issue cycle
`x.ic + lat` on, and until it lands the register file keeps what it held; no other register changes by it. A write to s0 or p0 is
discarded (R17, R54). No other result for the same register is in flight. -/
def Obligations.ResultsLand : Prop :=
  ∀ (x : CoreSt) (k : SeatId) (w : Write) (lat now free : Nat),
    let q := x.seatAt k
    let z := (x.setSeat k (q.fly1 free x.ic lat w)).landDue k now
    let y := x.landDue k now
    (∀ f ∈ q.fly, f.w.same w = false) →
    (∀ n v t, w = .s n v t → n ≠ 0 →
      (x.ic + lat ≤ now → (z.seatAt k).sr.val 0 n.toNat = v ∧ (z.seatAt k).sTag.getLsbD n.toNat = t)
      ∧ (now < x.ic + lat → (z.seatAt k).sr.val 0 n.toNat = q.sr.val 0 n.toNat
          ∧ (z.seatAt k).sTag.getLsbD n.toNat = q.sTag.getLsbD n.toNat)
      ∧ ∀ j : SReg, j ≠ n → (z.seatAt k).sr.val 0 j.toNat = (y.seatAt k).sr.val 0 j.toNat)
    ∧ (∀ n v t, w = .a n v t → x.ic + lat ≤ now →
        (z.seatAt k).ar.val 0 n.toNat = v ∧ (z.seatAt k).aTag.getLsbD n.toNat = t)
    ∧ (∀ n v, w = .m n v → x.ic + lat ≤ now → (z.seatAt k).mr.val 0 n.toNat = v)
    ∧ (∀ n v, w = .p n v → n ≠ 0 → x.ic + lat ≤ now → (z.seatAt k).pr.val 0 n.toNat = v)
    ∧ (∀ n r, w = .pq n r → x.ic + lat ≤ now → (z.seatAt k).pq.val .zero n.toNat = r)
    ∧ (∀ n m d fl g, w = .row n m d fl g → x.ic + lat ≤ now →
        (z.row n).d = (x.row n).d &&& ~~~ m ||| d &&& m ∧ (z.row n).t = (x.row n).t &&& ~~~ fl ||| g)
    ∧ ((∃ v t, w = .s 0 v t) ∨ (∃ v, w = .p 0 v) → q.fly1 free x.ic lat w = q)

/-- What an attempt of an instruction of a bundle can answer: it is held, it takes its effect, or it takes one precise trap and nothing
else of it happens. Taking a precise trap with ACT clear and no result in flight writes the trap registers of R154 and starts the
handler at tvec at supervisor level; every other register of the strand and, but for the record of a failed translation, memory and
the other cores stay as they were (R36, R151, R154). -/
def Obligations.TrapsArePrecise : Prop :=
  ∀ e : At, e.s.cur = some (e.c, e.k) →
    (∀ (i : Instr) (t : State), (encode i).isSome = true → e.s.sure = false → exec i e.s = .next t →
      (∃ m : PCause, t = e.s.takePrecise e.c e.k m) ∨ t.last = .held ∨ t.last = .issued ∨ t.last = .moved)
    ∧ ∀ m : PCause, m.syl < 8 → e.q.act = false → e.q.fly = [] →
      let t := e.s.takePrecise e.c e.k m
      let z := t.seat e.c e.k
      z.epc = e.q.pc ∧ z.pc = e.q.tvec ∧ z.tval = m.tval ∧ z.plv = true ∧ z.act = true ∧ z.tcause.getLsbD 24 = e.q.plv
      ∧ z.tcause.extractLsb' 0 16 = m.code ∧ z.tcause.extractLsb' 16 4 = 0 ∧ z.tcause.extractLsb' 20 4 = BitVec.ofNat 4 m.syl
      ∧ z.tlc = e.q.lc ∧ z.tls = e.q.ls ∧ z.tle = e.q.le ∧ z.lc = 0
      ∧ z.trot.extractLsb' 0 6 = e.q.vrb ∧ z.trot.extractLsb' 8 3 = e.q.prb
      ∧ (∀ n, 1 ≤ n → n < 32 → z.tpsn.getLsbD n = e.q.sTag.getLsbD n) ∧ (∀ n, n < 16 → z.tpsn.getLsbD (32 + n) = e.q.aTag.getLsbD n)
      ∧ z.sTag = 0 ∧ z.aTag = 0
      ∧ z.sr = e.q.sr ∧ z.ar = e.q.ar ∧ z.mr = e.q.mr ∧ z.pr = e.q.pr ∧ z.pq = e.q.pq ∧ z.w = e.q.w ∧ z.ls = e.q.ls ∧ z.le = e.q.le
      ∧ z.vrb = e.q.vrb ∧ z.prb = e.q.prb ∧ z.fcr = e.q.fcr ∧ z.stepNo = e.q.stepNo ∧ z.rte = e.q.rte
      ∧ (t.core e.c).vrf = e.x.vrf ∧ (∀ c, c ≠ e.c → t.core c = e.s.core c) ∧ (m.xf = none → t.mem = e.s.mem)

/-- A step runs the bundle at the pc: with no event of the agenda due and nothing in the way of the focus core's seat, the bundle
fetched and decoded is latched; each of its syllables is attempted on the state after the header; a bundle of one instruction besides
NOPs then ends as its attempt ends: trapped, held or frozen with its load, replayed where its cycle meets a late verdict, or with its
effect and the pc moved past it, to the loop's start, or to where a control instruction said. Then the ck ends and the next core has its
turn. An event on the agenda is run by itself when its step has come (R30, R36, R37, R59, R82, R86, R245, R248, R431; the agenda is the
model's own, log 1). -/
def Obligations.StepRunsTheInstruction : Prop :=
  ∀ (s : State) (c : CoreId) (k : SeatId) (b : BitVec 256) (h : Header) (is ia iv ix : Instr),
    (∀ n i r, s.agenda = (n, i) :: r → n ≤ s.free → step s = exec i { s with free := s.free + 1, agenda := r, latch := none, sure := false })
    ∧ (let p := ({ s with focus := c, latch := none, sure := false, last := .idle } : State).modCore c CoreSt.phase1
      let x := p.core c
      let q := x.seatAt k
      let l : Latch := ⟨q.pc, h.ws, h.wk, is, ia, iv, ix⟩
      x.stopped = false → p.pkg.supply = false → x.stall = 0 → x.freeze = false → x.swp = false → x.busy = 0 →
      ∀ segs, x.issuing = some k → q.pending p.cyc = false ∨ x.filling k = true → p.fetch c k = .bundle b segs → decodeBundle b = .ok h is ia iv ix → q.gap < 4096 →
      (∀ i ∈ [is, ia, iv, ix], q.tier1 i = []) → q.waitMet l = true →
      exec (.issueAttempt c .none) s = .next { p.codeLook c segs with latch := some l })
    ∧ (∀ t, (∀ p, s.agenda.head? = some p → s.free < p.1) → exec (.issueAttempt s.focus .none) { s with free := s.free + 1 } = .next t →
      (t.latch = none → step s = .next t.tick)
      ∧ ∀ l u, t.latch = some l → runBundle exec l t = .next u → step s = .next u.tick)
    ∧ (∀ (l : Latch) (i : Instr) (u : State), s.cur = some (c, k) → l.order = [i] →
      let q := s.seat c k
      let w := ({ s with latch := none, sure := false } : State).setSeat c k (q.header l)
      exec i w = .next u →
      (∀ r j, u.last = .trapped r j → runBundle exec l s = .next ((u.restore c k q).noIssue c))
      ∧ (u.last = .held → (u.core c).freeze = false → runBundle exec l s = .next ((u.restore c k q).noIssue c))
      ∧ (u.last = .held → (u.core c).freeze = true → (u.core c).filling k = false ∨ (s.core c).verdict k = none →
          runBundle exec l s = .next ((u.restore c k q).boundary s.out.length))
      ∧ (∀ inj, (u.last = .held ∧ (u.core c).freeze = true ∧ (u.core c).filling k = true) ∨ u.last = .issued ∨ u.last = .moved → (s.core c).verdict k = some inj → runBundle exec l s =
          .next { ({ s with latch := none, sure := false } : State).replay c k inj with last := .held })
      ∧ (u.last = .issued ∨ u.last = .moved → (s.core c).verdict k = none → ∀ v, exec i { w with sure := true } = .next v →
          runBundle exec l s = .next ((({ (v.boundary s.out.length).commit c k l (decide (v.last = .moved)) q.act with
            sure := false, last := .issued } : State).settle c k l).cycle c)))
    ∧ (∀ (q : SeatSt) (pc : Word), (∀ a, q.npc = some a → ∀ g, q.nextPc pc g = (q.lc, a))
      ∧ (q.npc = none → q.lc ≠ 0 → pc = q.le →
          q.nextPc pc true = (q.lc - 1, if q.lc - 1 ≠ 0 then q.ls else q.le + 32) ∧ q.nextPc pc false = (q.lc, pc + 32))
      ∧ (q.npc = none → q.lc = 0 ∨ pc ≠ q.le → ∀ g, q.nextPc pc g = (q.lc, pc + 32)))

/-- Every operation and every step answers a next state: nothing that the spec gives an effect stops the machine (derived: each
attempt takes its effect, is held or traps, R36, R151, R159, R431). -/
def Obligations.EveryStepAnswersNext : Prop :=
  (∀ (i : Instr) (s : State), ∃ t, exec i s = .next t) ∧ ∀ s : State, s.goesOn

/-- Every step keeps memory in its canonical form: addresses rise strictly, and no listed byte is one that an unlisted address reads
as, so that equal memories are equal data (log 3). -/
def Obligations.StepKeepsInvariant : Prop :=
  ∀ s t : State, s.inv = true → step s = .next t → t.inv = true

/-- What reset leaves: the values that the spec's tables give (R27, R155, R166, R249, R276, R309, R345, R413, R419), every seat EMPTY,
nothing in memory, and the invariant. That lc, vrb, prb, the semaphores and the tags of an empty seat hold their Start values, that
memory lists nothing and a core is NORMAL are the model's choice (log 2, log 3). -/
def Obligations.ResetState : Prop :=
  let s := State.reset
  s.inv = true ∧ s.mem = []
  ∧ (∀ (c : CoreId) (k : SeatId), let x := s.core c
    let q := s.seat c k
    q.st = .empty ∧ bV q.billet = false ∧ q.plv = false ∧ q.fcr = 0 ∧ q.lc = 0 ∧ q.vrb = 0 ∧ q.prb = 0 ∧ q.tcause = 0
    ∧ (∀ n, q.sem n = 0) ∧ q.sTag = 0 ∧ q.aTag = 0
    ∧ bits q.mlim 2 0 = 3 ∧ bits q.mlim 6 4 = 3
    ∧ x.ctl = 0 ∧ x.floor = 0 ∧ x.mstate = .normal
    ∧ bits x.mwin 4 0 = 20 ∧ bits x.mwin 23 8 = 256 ∧ bits x.mwin 27 24 = 4 ∧ bits x.mwin 38 32 = 7
    ∧ (x.h0 = [] ∧ x.h1 = [] ∧ x.te = []))
  ∧ (∀ d : DieId, let y := s.die d
    bits y.dcfg 9 0 = 717 ∧ bits y.dcfg 19 10 = 973 ∧ bits y.dcfg 29 20 = 51 ∧ bits y.dcfg 34 30 = 20 ∧ bits y.dcfg 39 35 = 16
    ∧ y.cwm.val 0 15 = 0xFFFF ∧ ∀ n, n < 15 → y.cwm.val 0 n = 0)
  ∧ s.pkg.tbrate = 0x14000000000 ∧ s.pkg.tbbase = 0 ∧ s.pkg.tbcyc = 0 ∧ s.pkg.etmo = 100
  ∧ ∀ l : LinkId, bits (s.link l).susp 2 0 = 3 ∧ bits (s.link l).susp 6 4 = 4 ∧ bits (s.link l).susp 11 8 = 5
end

