-- ==== Sys2Proof/Laws/Decode.lean ====
section
/-!
SUPPORT. The decoder and the encoder agree field by field: each syllable format gives back the fields and the opcode put
into it, each code the name it stands for, and a well-formed operation is read back from the syllable that encodes it.
-/
namespace Sys2Proof

/-! ### Fields of a concatenation -/

theorem extract_append_low {n m : Nat} (x : BitVec n) (y : BitVec m) (k w : Nat) (h : k + w ≤ m) :
    (x ++ y).extractLsb' k w = y.extractLsb' k w := by
  ext i hi
  simp only [BitVec.getElem_extractLsb', BitVec.getLsbD_append]
  rw [if_pos (by omega)]

theorem extract_append_high {n m : Nat} (x : BitVec n) (y : BitVec m) (k w : Nat) (h : m ≤ k) :
    (x ++ y).extractLsb' k w = x.extractLsb' (k - m) w := by
  ext i hi
  simp only [BitVec.getElem_extractLsb', BitVec.getLsbD_append]
  rw [if_neg (by omega), show k + i - m = k - m + i from by omega]

theorem extract_full {n : Nat} (x : BitVec n) : x.extractLsb' 0 n = x := by
  ext i hi
  simp

theorem getLsbD_append_low {n m : Nat} (x : BitVec n) (y : BitVec m) (k : Nat) (h : k < m) :
    (x ++ y).getLsbD k = y.getLsbD k := by
  rw [BitVec.getLsbD_append, if_pos h]

theorem getLsbD_append_high {n m : Nat} (x : BitVec n) (y : BitVec m) (k : Nat) (h : m ≤ k) :
    (x ++ y).getLsbD k = x.getLsbD (k - m) := by
  rw [BitVec.getLsbD_append, if_neg (by omega)]

theorem setWidth_append_low {n m : Nat} (x : BitVec n) (y : BitVec m) (w : Nat) (h : w ≤ m) :
    (x ++ y).setWidth w = y.extractLsb' 0 w := by
  ext i hi
  simp only [BitVec.getElem_setWidth, BitVec.getElem_extractLsb', BitVec.getLsbD_append, Nat.zero_add]
  rw [if_pos (by omega)]

theorem setWidth_up_down {n : Nat} (x : BitVec n) (m : Nat) (h : n ≤ m) : (x.setWidth m).setWidth n = x := by
  rw [BitVec.setWidth_setWidth_of_le _ h, BitVec.setWidth_eq]

theorem bit1_getLsbD (b : Bool) : (bit1 b).getLsbD 0 = b := by
  cases b <;> rfl

/-- The low bits of a word as a field. -/
theorem setWidth_eq_extract {n : Nat} (x : BitVec n) (w : Nat) : x.setWidth w = x.extractLsb' 0 w := by
  ext i hi
  simp

/-- A bit of a word as a field of one bit. -/
theorem bit_eq_extract {n : Nat} (x : BitVec n) (k : Nat) (b : Bool) (h : x.extractLsb' k 1 = bit1 b) :
    x.getLsbD k = b := by
  have e : (x.extractLsb' k 1).getLsbD 0 = (bit1 b).getLsbD 0 := by rw [h]
  rw [BitVec.getLsbD_extractLsb'] at e
  cases b <;> simpa [bit1] using e

/-- A word whose field is not zero is not zero. -/
theorem ne_zero_of_extract {n : Nat} (x : BitVec n) (k w : Nat) (h : x.extractLsb' k w ≠ 0) : x ≠ 0 := by
  rintro rfl
  exact h (by simp)

/-! ### Codes -/

@[simp] theorem Ty.ofCode_code (t : Ty) : Ty.ofCode t.code = some t := by
  cases t <;> rfl

@[simp] theorem Scope.ofCode_code (t : Scope) : Scope.ofCode t.code = some t := by
  cases t <;> rfl

@[simp] theorem Aop.ofCode_code (t : Aop) : Aop.ofCode t.code = some t := by
  cases t <;> rfl

@[simp] theorem RedOp.ofCode_code (t : RedOp) : RedOp.ofCode t.code = some t := by
  cases t <;> rfl

@[simp] theorem MatQ.ofCode_code (t : MatQ) : MatQ.ofCode t.code = some t := by
  cases t <;> rfl

@[simp] theorem EngQ.ofCode_code (t : EngQ) : EngQ.ofCode t.code = some t := by
  cases t <;> rfl

@[simp] theorem VSrc.ofCode_code (a : VSrc) : VSrc.ofCode a.code = some a := by
  cases a with
  | v r =>
    have h1 : (VSrc.v r).code.extractLsb' 7 2 = 0#2 := by
      repeat (first
    | exact extract_full _
    | refine (extract_append_low _ _ _ _ (by decide)).trans ?_
    | refine (extract_append_high _ _ _ _ (by decide)).trans ?_)
    have h2 : (VSrc.v r).code.extractLsb' 0 7 = r := by
      repeat (first
    | exact extract_full _
    | refine (extract_append_low _ _ _ _ (by decide)).trans ?_
    | refine (extract_append_high _ _ _ _ (by decide)).trans ?_)
    simp only [VSrc.ofCode, h1, h2]
    rfl
  | pq r =>
    have h1 : (VSrc.pq r).code.extractLsb' 7 2 = 1#2 := by
      repeat (first
    | exact extract_full _
    | refine (extract_append_low _ _ _ _ (by decide)).trans ?_
    | refine (extract_append_high _ _ _ _ (by decide)).trans ?_)
    have h2 : (VSrc.pq r).code.extractLsb' 0 3 = r := by
      repeat (first
    | exact extract_full _
    | refine (extract_append_low _ _ _ _ (by decide)).trans ?_
    | refine (extract_append_high _ _ _ _ (by decide)).trans ?_)
    simp only [VSrc.ofCode, h1, h2]
    rfl
  | s r =>
    have h1 : (VSrc.s r).code.extractLsb' 7 2 = 2#2 := by
      repeat (first
    | exact extract_full _
    | refine (extract_append_low _ _ _ _ (by decide)).trans ?_
    | refine (extract_append_high _ _ _ _ (by decide)).trans ?_)
    have h2 : (VSrc.s r).code.extractLsb' 0 5 = r := by
      repeat (first
    | exact extract_full _
    | refine (extract_append_low _ _ _ _ (by decide)).trans ?_
    | refine (extract_append_high _ _ _ _ (by decide)).trans ?_)
    simp only [VSrc.ofCode, h1, h2]
    rfl

/-- The low bits of the specifier of an s register are its number. -/
@[simp] theorem VSrc.s_code_low (r : SReg) : (VSrc.s r).code.setWidth 5 = r := by
  refine (setWidth_eq_extract _ _).trans ?_
  repeat (first
    | exact extract_full _
    | refine (extract_append_low _ _ _ _ (by decide)).trans ?_
    | refine (extract_append_high _ _ _ _ (by decide)).trans ?_)

/-- A row source is a source. -/
def RowSrc.src : RowSrc → VSrc
  | .v r => .v r
  | .pq r => .pq r

theorem RowSrc.code_eq (a : RowSrc) : a.code = a.src.code := by
  cases a <;> rfl

@[simp] theorem RowSrc.src_row (a : RowSrc) : a.src.row = some a := by
  cases a <;> rfl

@[simp] theorem VSrc.s_row (r : SReg) : (VSrc.s r).row = none := rfl

@[simp] theorem VSrc.ofCode_zero : VSrc.ofCode 0 = some (.v 0) := by decide

@[simp] theorem VSrc.ofCode_pred (p : PReg) : VSrc.ofCode (predSpec p) = some (.v (0#3 ++ p)) := by
  revert p
  decide

@[simp] theorem predSpec_low (p : PReg) : (predSpec p).setWidth 4 = p := by
  revert p
  decide

@[simp] theorem RowSrc.ofCode_code (a : RowSrc) : VSrc.ofCode a.code = some a.src := by
  rw [RowSrc.code_eq, VSrc.ofCode_code]

@[simp] theorem pdField_low (p : PReg) : (0#3 ++ p : BitVec 7).setWidth 4 = p := by
  revert p
  decide

@[simp] theorem sdField_low (r : SReg) : (0#2 ++ r : BitVec 7).setWidth 5 = r := by
  revert r
  decide

/-! ### Memory operands -/

@[simp] theorem AMem.of_fields (m : AMem) : (if m.pi then AMem.post m.ab m.mm else AMem.off m.ab m.ofs) = m := by
  cases m <;> rfl

@[simp] theorem VMem.of_fields (m : VMem) : (if m.pi then VMem.post m.ab m.mm else VMem.off m.ab m.ofs) = m := by
  cases m <;> rfl

/-! ### Formats -/

@[simp] theorem SR.of_word (op : Bits8) (f : SR) : SR.of (SR.word op f) = f := by
  cases f
  simp only [SR.of, SR.word, SR.mk.injEq]
  and_intros <;>
  repeat (first
    | exact extract_full _
    | refine (extract_append_low _ _ _ _ (by decide)).trans ?_
    | refine (extract_append_high _ _ _ _ (by decide)).trans ?_)

@[simp] theorem SR.opc_word (op : Bits8) (f : SR) : (SR.word op f).extractLsb' 48 8 = op := by
  simp only [SR.word]
  repeat (first
    | exact extract_full _
    | refine (extract_append_low _ _ _ _ (by decide)).trans ?_
    | refine (extract_append_high _ _ _ _ (by decide)).trans ?_)

@[simp] theorem SI.of_word (op : Bits8) (f : SI) : SI.of (SI.word op f) = f := by
  cases f
  simp only [SI.of, SI.word, SI.mk.injEq]
  and_intros <;>
  repeat (first
    | exact extract_full _
    | refine (extract_append_low _ _ _ _ (by decide)).trans ?_
    | refine (extract_append_high _ _ _ _ (by decide)).trans ?_)

@[simp] theorem SI.opc_word (op : Bits8) (f : SI) : (SI.word op f).extractLsb' 48 8 = op := by
  simp only [SI.word]
  repeat (first
    | exact extract_full _
    | refine (extract_append_low _ _ _ _ (by decide)).trans ?_
    | refine (extract_append_high _ _ _ _ (by decide)).trans ?_)

@[simp] theorem SB.of_word (op : Bits8) (f : SB) : SB.of (SB.word op f) = f := by
  cases f
  simp only [SB.of, SB.word, SB.mk.injEq]
  and_intros <;>
  repeat (first
    | exact extract_full _
    | refine (extract_append_low _ _ _ _ (by decide)).trans ?_
    | refine (extract_append_high _ _ _ _ (by decide)).trans ?_)

@[simp] theorem SB.opc_word (op : Bits8) (f : SB) : (SB.word op f).extractLsb' 48 8 = op := by
  simp only [SB.word]
  repeat (first
    | exact extract_full _
    | refine (extract_append_low _ _ _ _ (by decide)).trans ?_
    | refine (extract_append_high _ _ _ _ (by decide)).trans ?_)

@[simp] theorem SP.of_word (op : Bits8) (f : SP) : SP.of (SP.word op f) = f := by
  cases f
  simp only [SP.of, SP.word, SP.mk.injEq]
  and_intros <;>
  repeat (first
    | exact extract_full _
    | refine (extract_append_low _ _ _ _ (by decide)).trans ?_
    | refine (extract_append_high _ _ _ _ (by decide)).trans ?_)

@[simp] theorem SP.opc_word (op : Bits8) (f : SP) : (SP.word op f).extractLsb' 48 8 = op := by
  simp only [SP.word]
  repeat (first
    | exact extract_full _
    | refine (extract_append_low _ _ _ _ (by decide)).trans ?_
    | refine (extract_append_high _ _ _ _ (by decide)).trans ?_)

@[simp] theorem SL.of_word (op : Bits8) (f : SL) : SL.of (SL.word op f) = f := by
  cases f
  simp only [SL.of, SL.word, SL.mk.injEq]
  and_intros <;>
  (try refine bit_eq_extract _ _ _ ?_) <;>
  repeat (first
    | exact extract_full _
    | refine (extract_append_low _ _ _ _ (by decide)).trans ?_
    | refine (extract_append_high _ _ _ _ (by decide)).trans ?_)

@[simp] theorem SL.opc_word (op : Bits8) (f : SL) : (SL.word op f).extractLsb' 48 8 = op := by
  simp only [SL.word]
  repeat (first
    | exact extract_full _
    | refine (extract_append_low _ _ _ _ (by decide)).trans ?_
    | refine (extract_append_high _ _ _ _ (by decide)).trans ?_)

@[simp] theorem SC.of_word (op : Bits8) (f : SC) : SC.of (SC.word op f) = f := by
  cases f
  simp only [SC.of, SC.word, SC.mk.injEq]
  and_intros <;>
  repeat (first
    | exact extract_full _
    | refine (extract_append_low _ _ _ _ (by decide)).trans ?_
    | refine (extract_append_high _ _ _ _ (by decide)).trans ?_)

@[simp] theorem SC.opc_word (op : Bits8) (f : SC) : (SC.word op f).extractLsb' 48 8 = op := by
  simp only [SC.word]
  repeat (first
    | exact extract_full _
    | refine (extract_append_low _ _ _ _ (by decide)).trans ?_
    | refine (extract_append_high _ _ _ _ (by decide)).trans ?_)

@[simp] theorem AR.of_word (op : Bits8) (f : AR) : AR.of (AR.word op f) = f := by
  cases f
  simp only [AR.of, AR.word, AR.mk.injEq]
  and_intros <;>
  repeat (first
    | exact extract_full _
    | refine (extract_append_low _ _ _ _ (by decide)).trans ?_
    | refine (extract_append_high _ _ _ _ (by decide)).trans ?_)

@[simp] theorem AR.opc_word (op : Bits8) (f : AR) : (AR.word op f).extractLsb' 56 8 = op := by
  simp only [AR.word]
  repeat (first
    | exact extract_full _
    | refine (extract_append_low _ _ _ _ (by decide)).trans ?_
    | refine (extract_append_high _ _ _ _ (by decide)).trans ?_)

@[simp] theorem AM.of_word (op : Bits8) (f : AM) : AM.of (AM.word op f) = f := by
  cases f
  simp only [AM.of, AM.word, AM.mk.injEq]
  and_intros <;>
  (try refine bit_eq_extract _ _ _ ?_) <;>
  repeat (first
    | exact extract_full _
    | refine (extract_append_low _ _ _ _ (by decide)).trans ?_
    | refine (extract_append_high _ _ _ _ (by decide)).trans ?_)

@[simp] theorem AM.opc_word (op : Bits8) (f : AM) : (AM.word op f).extractLsb' 56 8 = op := by
  simp only [AM.word]
  repeat (first
    | exact extract_full _
    | refine (extract_append_low _ _ _ _ (by decide)).trans ?_
    | refine (extract_append_high _ _ _ _ (by decide)).trans ?_)

@[simp] theorem AV.of_word (op : Bits8) (f : AV) : AV.of (AV.word op f) = f := by
  cases f
  simp only [AV.of, AV.word, AV.mk.injEq]
  and_intros <;>
  (try refine bit_eq_extract _ _ _ ?_) <;>
  repeat (first
    | exact extract_full _
    | refine (extract_append_low _ _ _ _ (by decide)).trans ?_
    | refine (extract_append_high _ _ _ _ (by decide)).trans ?_)

@[simp] theorem AV.opc_word (op : Bits8) (f : AV) : (AV.word op f).extractLsb' 56 8 = op := by
  simp only [AV.word]
  repeat (first
    | exact extract_full _
    | refine (extract_append_low _ _ _ _ (by decide)).trans ?_
    | refine (extract_append_high _ _ _ _ (by decide)).trans ?_)

@[simp] theorem AT.of_word (op : Bits8) (f : AT) : AT.of (AT.word op f) = f := by
  cases f
  simp only [AT.of, AT.word, AT.mk.injEq]
  and_intros <;>
  (try refine bit_eq_extract _ _ _ ?_) <;>
  repeat (first
    | exact extract_full _
    | refine (extract_append_low _ _ _ _ (by decide)).trans ?_
    | refine (extract_append_high _ _ _ _ (by decide)).trans ?_)

@[simp] theorem AT.opc_word (op : Bits8) (f : AT) : (AT.word op f).extractLsb' 56 8 = op := by
  simp only [AT.word]
  repeat (first
    | exact extract_full _
    | refine (extract_append_low _ _ _ _ (by decide)).trans ?_
    | refine (extract_append_high _ _ _ _ (by decide)).trans ?_)

@[simp] theorem AQ.of_word (op : Bits8) (f : AQ) : AQ.of (AQ.word op f) = f := by
  cases f
  simp only [AQ.of, AQ.word, AQ.mk.injEq]
  and_intros <;>
  repeat (first
    | exact extract_full _
    | refine (extract_append_low _ _ _ _ (by decide)).trans ?_
    | refine (extract_append_high _ _ _ _ (by decide)).trans ?_)

@[simp] theorem AQ.opc_word (op : Bits8) (f : AQ) : (AQ.word op f).extractLsb' 56 8 = op := by
  simp only [AQ.word]
  repeat (first
    | exact extract_full _
    | refine (extract_append_low _ _ _ _ (by decide)).trans ?_
    | refine (extract_append_high _ _ _ _ (by decide)).trans ?_)

@[simp] theorem AA.of_word (op : Bits8) (f : AA) : AA.of (AA.word op f) = f := by
  cases f
  simp only [AA.of, AA.word, AA.mk.injEq]
  and_intros <;>
  repeat (first
    | exact extract_full _
    | refine (extract_append_low _ _ _ _ (by decide)).trans ?_
    | refine (extract_append_high _ _ _ _ (by decide)).trans ?_)

@[simp] theorem AA.opc_word (op : Bits8) (f : AA) : (AA.word op f).extractLsb' 56 8 = op := by
  simp only [AA.word]
  repeat (first
    | exact extract_full _
    | refine (extract_append_low _ _ _ _ (by decide)).trans ?_
    | refine (extract_append_high _ _ _ _ (by decide)).trans ?_)

@[simp] theorem VR.of_word (op : Bits8) (f : VR) : VR.of (VR.word op f) = f := by
  cases f
  simp only [VR.of, VR.word, VR.mk.injEq]
  and_intros <;>
  (try refine bit_eq_extract _ _ _ ?_) <;>
  repeat (first
    | exact extract_full _
    | refine (extract_append_low _ _ _ _ (by decide)).trans ?_
    | refine (extract_append_high _ _ _ _ (by decide)).trans ?_)

@[simp] theorem VR.opc_word (op : Bits8) (f : VR) : (VR.word op f).extractLsb' 56 8 = op := by
  simp only [VR.word]
  repeat (first
    | exact extract_full _
    | refine (extract_append_low _ _ _ _ (by decide)).trans ?_
    | refine (extract_append_high _ _ _ _ (by decide)).trans ?_)

@[simp] theorem VI.of_word (op : Bits8) (f : VI) : VI.of (VI.word op f) = f := by
  cases f
  simp only [VI.of, VI.word, VI.mk.injEq]
  and_intros <;>
  (try refine bit_eq_extract _ _ _ ?_) <;>
  repeat (first
    | exact extract_full _
    | refine (extract_append_low _ _ _ _ (by decide)).trans ?_
    | refine (extract_append_high _ _ _ _ (by decide)).trans ?_)

@[simp] theorem VI.opc_word (op : Bits8) (f : VI) : (VI.word op f).extractLsb' 56 8 = op := by
  simp only [VI.word]
  repeat (first
    | exact extract_full _
    | refine (extract_append_low _ _ _ _ (by decide)).trans ?_
    | refine (extract_append_high _ _ _ _ (by decide)).trans ?_)

@[simp] theorem XE.of_word (op : Bits8) (f : XE) : XE.of (XE.word op f) = f := by
  cases f
  simp only [XE.of, XE.word, XE.mk.injEq]
  and_intros <;>
  repeat (first
    | exact extract_full _
    | refine (extract_append_low _ _ _ _ (by decide)).trans ?_
    | refine (extract_append_high _ _ _ _ (by decide)).trans ?_)

@[simp] theorem XE.opc_word (op : Bits8) (f : XE) : (XE.word op f).extractLsb' 56 8 = op := by
  simp only [XE.word]
  repeat (first
    | exact extract_full _
    | refine (extract_append_low _ _ _ _ (by decide)).trans ?_
    | refine (extract_append_high _ _ _ _ (by decide)).trans ?_)

@[simp] theorem XR.of_word (op : Bits8) (f : XR) : XR.of (XR.word op f) = f := by
  cases f
  simp only [XR.of, XR.word, XR.mk.injEq]
  and_intros <;>
  repeat (first
    | exact extract_full _
    | refine (extract_append_low _ _ _ _ (by decide)).trans ?_
    | refine (extract_append_high _ _ _ _ (by decide)).trans ?_)

@[simp] theorem XR.opc_word (op : Bits8) (f : XR) : (XR.word op f).extractLsb' 56 8 = op := by
  simp only [XR.word]
  repeat (first
    | exact extract_full _
    | refine (extract_append_low _ _ _ _ (by decide)).trans ?_
    | refine (extract_append_high _ _ _ _ (by decide)).trans ?_)

/-- The S syllable of a well-formed operation is read back where the raw reading gives it. -/
theorem decodeSyl_s (w : BitVec 56) (i : Instr) (op : Bits8) (ho : w.extractLsb' 48 8 = op) (h0 : op ≠ 0)
    (hr : rawSAt op.toNat w = some i) (hw : i.wf = true) (he : encode i = some (.s w)) : decodeSyl (.s w) = some i := by
  have hz : w ≠ 0 := ne_zero_of_extract w 48 8 (by rw [ho]; exact h0)
  have hr' : rawS w = some i := by rw [rawS, ho, hr]
  simp [decodeSyl, hr', hw, he, Option.filter]
  exact fun h => absurd h hz

/-- The A syllable of a well-formed operation is read back where the raw reading gives it. -/
theorem decodeSyl_a (w : BitVec 64) (i : Instr) (op : Bits8) (ho : w.extractLsb' 56 8 = op) (h0 : op ≠ 0)
    (hr : rawAAt op.toNat w = some i) (hw : i.wf = true) (he : encode i = some (.a w)) : decodeSyl (.a w) = some i := by
  have hz : w ≠ 0 := ne_zero_of_extract w 56 8 (by rw [ho]; exact h0)
  have hr' : rawA w = some i := by rw [rawA, ho, hr]
  simp [decodeSyl, hr', hw, he, Option.filter]
  exact fun h => absurd h hz

/-- The V syllable of a well-formed operation is read back where the raw reading gives it. -/
theorem decodeSyl_v (w : BitVec 64) (i : Instr) (op : Bits8) (ho : w.extractLsb' 56 8 = op) (h0 : op ≠ 0)
    (hr : rawVAt op.toNat w = some i) (hw : i.wf = true) (he : encode i = some (.v w)) : decodeSyl (.v w) = some i := by
  have hz : w ≠ 0 := ne_zero_of_extract w 56 8 (by rw [ho]; exact h0)
  have hr' : rawV w = some i := by rw [rawV, ho, hr]
  simp [decodeSyl, hr', hw, he, Option.filter]
  exact fun h => absurd h hz

/-- The X syllable of a well-formed operation is read back where the raw reading gives it. -/
theorem decodeSyl_x (w : BitVec 64) (i : Instr) (op : Bits8) (ho : w.extractLsb' 56 8 = op) (h0 : op ≠ 0)
    (hr : rawXAt op.toNat w = some i) (hw : i.wf = true) (he : encode i = some (.x w)) : decodeSyl (.x w) = some i := by
  have hz : w ≠ 0 := ne_zero_of_extract w 56 8 (by rw [ho]; exact h0)
  have hr' : rawX w = some i := by rw [rawX, ho, hr]
  simp [decodeSyl, hr', hw, he, Option.filter]
  exact fun h => absurd h hz

/-- The V syllable of three operands, read with its type and its sources. -/
theorem rawVAt_of (op : Bits8) (r : VR) (ty : Ty) (a b c : VSrc) (h : op.toNat ≠ 0x43)
    (ht : Ty.ofCode r.ty = some ty) (ha : VSrc.ofCode r.oa = some a) (hb : VSrc.ofCode r.ob = some b)
    (hc : VSrc.ofCode r.oc = some c) : rawVAt op.toNat (VR.word op r) = rawVR op.toNat r ty a b c := by
  simp only [rawVAt, VR.of_word, if_neg h, ht, ha, hb, hc]

theorem AM.mem_of (rt : SReg) (m : AMem) (sz : Bits2) (sx : Bool) (scp : Bits3) (wt : SemR) :
    AM.mem ⟨rt, m.ab, m.mm, m.pi, sz, sx, scp, wt, m.ofs⟩ = m := AMem.of_fields m

theorem AV.mem_of (vt : VReg) (m : VMem) (g : PReg) (gn : Bool) (ty : BitVec 5) (vi : VReg) (wt : SemR) :
    AV.mem ⟨vt, m.ab, m.mm, m.pi, g, gn, ty, vi, wt, m.ofs⟩ = m := VMem.of_fields m

end Sys2Proof
end

