-- ==== Sys2Proof/Laws/State.lean ====
section
/-!
SUPPORT. What the updates of the state leave as they were, field by field, and the laws of tables, cores and seats.
-/
namespace Sys2Proof.Machine

/-! ### Fields that an update leaves as they were -/

@[simp] theorem State.setCore_cyc (s : State) (c : CoreId) (x : CoreSt) : (s.setCore c x).cyc = s.cyc := rfl
@[simp] theorem State.setCore_mem (s : State) (c : CoreId) (x : CoreSt) : (s.setCore c x).mem = s.mem := rfl
@[simp] theorem State.setCore_pois (s : State) (c : CoreId) (x : CoreSt) : (s.setCore c x).pois = s.pois := rfl
@[simp] theorem State.setCore_keyed (s : State) (c : CoreId) (x : CoreSt) : (s.setCore c x).keyed = s.keyed := rfl
@[simp] theorem State.setCore_fog (s : State) (c : CoreId) (x : CoreSt) : (s.setCore c x).fog = s.fog := rfl
@[simp] theorem State.setCore_l2 (s : State) (c : CoreId) (x : CoreSt) : (s.setCore c x).l2 = s.l2 := rfl
@[simp] theorem State.setCore_held (s : State) (c : CoreId) (x : CoreSt) : (s.setCore c x).held = s.held := rfl
@[simp] theorem State.setCore_clusters (s : State) (c : CoreId) (x : CoreSt) : (s.setCore c x).clusters = s.clusters := rfl
@[simp] theorem State.setCore_dies (s : State) (c : CoreId) (x : CoreSt) : (s.setCore c x).dies = s.dies := rfl
@[simp] theorem State.setCore_funcs (s : State) (c : CoreId) (x : CoreSt) : (s.setCore c x).funcs = s.funcs := rfl
@[simp] theorem State.setCore_pkg (s : State) (c : CoreId) (x : CoreSt) : (s.setCore c x).pkg = s.pkg := rfl
@[simp] theorem State.setCore_out (s : State) (c : CoreId) (x : CoreSt) : (s.setCore c x).out = s.out := rfl
@[simp] theorem State.setCore_free (s : State) (c : CoreId) (x : CoreSt) : (s.setCore c x).free = s.free := rfl
@[simp] theorem State.setCore_agenda (s : State) (c : CoreId) (x : CoreSt) : (s.setCore c x).agenda = s.agenda := rfl
@[simp] theorem State.setCore_last (s : State) (c : CoreId) (x : CoreSt) : (s.setCore c x).last = s.last := rfl
@[simp] theorem State.setCore_latch (s : State) (c : CoreId) (x : CoreSt) : (s.setCore c x).latch = s.latch := rfl
@[simp] theorem State.setCore_sure (s : State) (c : CoreId) (x : CoreSt) : (s.setCore c x).sure = s.sure := rfl
@[simp] theorem State.setCore_focus (s : State) (c : CoreId) (x : CoreSt) : (s.setCore c x).focus = s.focus := rfl

@[simp] theorem State.modCore_cyc (s : State) (c : CoreId) (f : CoreSt → CoreSt) : (s.modCore c f).cyc = s.cyc := rfl
@[simp] theorem State.modCore_mem (s : State) (c : CoreId) (f : CoreSt → CoreSt) : (s.modCore c f).mem = s.mem := rfl
@[simp] theorem State.modCore_pois (s : State) (c : CoreId) (f : CoreSt → CoreSt) : (s.modCore c f).pois = s.pois := rfl
@[simp] theorem State.modCore_keyed (s : State) (c : CoreId) (f : CoreSt → CoreSt) : (s.modCore c f).keyed = s.keyed := rfl
@[simp] theorem State.modCore_fog (s : State) (c : CoreId) (f : CoreSt → CoreSt) : (s.modCore c f).fog = s.fog := rfl
@[simp] theorem State.modCore_l2 (s : State) (c : CoreId) (f : CoreSt → CoreSt) : (s.modCore c f).l2 = s.l2 := rfl
@[simp] theorem State.modCore_held (s : State) (c : CoreId) (f : CoreSt → CoreSt) : (s.modCore c f).held = s.held := rfl
@[simp] theorem State.modCore_clusters (s : State) (c : CoreId) (f : CoreSt → CoreSt) : (s.modCore c f).clusters = s.clusters := rfl
@[simp] theorem State.modCore_dies (s : State) (c : CoreId) (f : CoreSt → CoreSt) : (s.modCore c f).dies = s.dies := rfl
@[simp] theorem State.modCore_funcs (s : State) (c : CoreId) (f : CoreSt → CoreSt) : (s.modCore c f).funcs = s.funcs := rfl
@[simp] theorem State.modCore_pkg (s : State) (c : CoreId) (f : CoreSt → CoreSt) : (s.modCore c f).pkg = s.pkg := rfl
@[simp] theorem State.modCore_out (s : State) (c : CoreId) (f : CoreSt → CoreSt) : (s.modCore c f).out = s.out := rfl
@[simp] theorem State.modCore_free (s : State) (c : CoreId) (f : CoreSt → CoreSt) : (s.modCore c f).free = s.free := rfl
@[simp] theorem State.modCore_agenda (s : State) (c : CoreId) (f : CoreSt → CoreSt) : (s.modCore c f).agenda = s.agenda := rfl
@[simp] theorem State.modCore_last (s : State) (c : CoreId) (f : CoreSt → CoreSt) : (s.modCore c f).last = s.last := rfl
@[simp] theorem State.modCore_latch (s : State) (c : CoreId) (f : CoreSt → CoreSt) : (s.modCore c f).latch = s.latch := rfl
@[simp] theorem State.modCore_sure (s : State) (c : CoreId) (f : CoreSt → CoreSt) : (s.modCore c f).sure = s.sure := rfl
@[simp] theorem State.modCore_focus (s : State) (c : CoreId) (f : CoreSt → CoreSt) : (s.modCore c f).focus = s.focus := rfl

@[simp] theorem State.setSeat_cyc (s : State) (c : CoreId) (k : SeatId) (q : SeatSt) : (s.setSeat c k q).cyc = s.cyc := rfl
@[simp] theorem State.setSeat_mem (s : State) (c : CoreId) (k : SeatId) (q : SeatSt) : (s.setSeat c k q).mem = s.mem := rfl
@[simp] theorem State.setSeat_pois (s : State) (c : CoreId) (k : SeatId) (q : SeatSt) : (s.setSeat c k q).pois = s.pois := rfl
@[simp] theorem State.setSeat_keyed (s : State) (c : CoreId) (k : SeatId) (q : SeatSt) : (s.setSeat c k q).keyed = s.keyed := rfl
@[simp] theorem State.setSeat_fog (s : State) (c : CoreId) (k : SeatId) (q : SeatSt) : (s.setSeat c k q).fog = s.fog := rfl
@[simp] theorem State.setSeat_l2 (s : State) (c : CoreId) (k : SeatId) (q : SeatSt) : (s.setSeat c k q).l2 = s.l2 := rfl
@[simp] theorem State.setSeat_held (s : State) (c : CoreId) (k : SeatId) (q : SeatSt) : (s.setSeat c k q).held = s.held := rfl
@[simp] theorem State.setSeat_clusters (s : State) (c : CoreId) (k : SeatId) (q : SeatSt) : (s.setSeat c k q).clusters = s.clusters := rfl
@[simp] theorem State.setSeat_dies (s : State) (c : CoreId) (k : SeatId) (q : SeatSt) : (s.setSeat c k q).dies = s.dies := rfl
@[simp] theorem State.setSeat_funcs (s : State) (c : CoreId) (k : SeatId) (q : SeatSt) : (s.setSeat c k q).funcs = s.funcs := rfl
@[simp] theorem State.setSeat_pkg (s : State) (c : CoreId) (k : SeatId) (q : SeatSt) : (s.setSeat c k q).pkg = s.pkg := rfl
@[simp] theorem State.setSeat_out (s : State) (c : CoreId) (k : SeatId) (q : SeatSt) : (s.setSeat c k q).out = s.out := rfl
@[simp] theorem State.setSeat_free (s : State) (c : CoreId) (k : SeatId) (q : SeatSt) : (s.setSeat c k q).free = s.free := rfl
@[simp] theorem State.setSeat_agenda (s : State) (c : CoreId) (k : SeatId) (q : SeatSt) : (s.setSeat c k q).agenda = s.agenda := rfl
@[simp] theorem State.setSeat_last (s : State) (c : CoreId) (k : SeatId) (q : SeatSt) : (s.setSeat c k q).last = s.last := rfl
@[simp] theorem State.setSeat_latch (s : State) (c : CoreId) (k : SeatId) (q : SeatSt) : (s.setSeat c k q).latch = s.latch := rfl
@[simp] theorem State.setSeat_sure (s : State) (c : CoreId) (k : SeatId) (q : SeatSt) : (s.setSeat c k q).sure = s.sure := rfl
@[simp] theorem State.setSeat_focus (s : State) (c : CoreId) (k : SeatId) (q : SeatSt) : (s.setSeat c k q).focus = s.focus := rfl

@[simp] theorem State.modSeat_cyc (s : State) (c : CoreId) (k : SeatId) (f : SeatSt → SeatSt) : (s.modSeat c k f).cyc = s.cyc := rfl
@[simp] theorem State.modSeat_mem (s : State) (c : CoreId) (k : SeatId) (f : SeatSt → SeatSt) : (s.modSeat c k f).mem = s.mem := rfl
@[simp] theorem State.modSeat_pois (s : State) (c : CoreId) (k : SeatId) (f : SeatSt → SeatSt) : (s.modSeat c k f).pois = s.pois := rfl
@[simp] theorem State.modSeat_keyed (s : State) (c : CoreId) (k : SeatId) (f : SeatSt → SeatSt) : (s.modSeat c k f).keyed = s.keyed := rfl
@[simp] theorem State.modSeat_fog (s : State) (c : CoreId) (k : SeatId) (f : SeatSt → SeatSt) : (s.modSeat c k f).fog = s.fog := rfl
@[simp] theorem State.modSeat_l2 (s : State) (c : CoreId) (k : SeatId) (f : SeatSt → SeatSt) : (s.modSeat c k f).l2 = s.l2 := rfl
@[simp] theorem State.modSeat_held (s : State) (c : CoreId) (k : SeatId) (f : SeatSt → SeatSt) : (s.modSeat c k f).held = s.held := rfl
@[simp] theorem State.modSeat_clusters (s : State) (c : CoreId) (k : SeatId) (f : SeatSt → SeatSt) : (s.modSeat c k f).clusters = s.clusters := rfl
@[simp] theorem State.modSeat_dies (s : State) (c : CoreId) (k : SeatId) (f : SeatSt → SeatSt) : (s.modSeat c k f).dies = s.dies := rfl
@[simp] theorem State.modSeat_funcs (s : State) (c : CoreId) (k : SeatId) (f : SeatSt → SeatSt) : (s.modSeat c k f).funcs = s.funcs := rfl
@[simp] theorem State.modSeat_pkg (s : State) (c : CoreId) (k : SeatId) (f : SeatSt → SeatSt) : (s.modSeat c k f).pkg = s.pkg := rfl
@[simp] theorem State.modSeat_out (s : State) (c : CoreId) (k : SeatId) (f : SeatSt → SeatSt) : (s.modSeat c k f).out = s.out := rfl
@[simp] theorem State.modSeat_free (s : State) (c : CoreId) (k : SeatId) (f : SeatSt → SeatSt) : (s.modSeat c k f).free = s.free := rfl
@[simp] theorem State.modSeat_agenda (s : State) (c : CoreId) (k : SeatId) (f : SeatSt → SeatSt) : (s.modSeat c k f).agenda = s.agenda := rfl
@[simp] theorem State.modSeat_last (s : State) (c : CoreId) (k : SeatId) (f : SeatSt → SeatSt) : (s.modSeat c k f).last = s.last := rfl
@[simp] theorem State.modSeat_latch (s : State) (c : CoreId) (k : SeatId) (f : SeatSt → SeatSt) : (s.modSeat c k f).latch = s.latch := rfl
@[simp] theorem State.modSeat_sure (s : State) (c : CoreId) (k : SeatId) (f : SeatSt → SeatSt) : (s.modSeat c k f).sure = s.sure := rfl
@[simp] theorem State.modSeat_focus (s : State) (c : CoreId) (k : SeatId) (f : SeatSt → SeatSt) : (s.modSeat c k f).focus = s.focus := rfl

@[simp] theorem State.setDie_cyc (s : State) (d : DieId) (x : DieSt) : (s.setDie d x).cyc = s.cyc := rfl
@[simp] theorem State.setDie_mem (s : State) (d : DieId) (x : DieSt) : (s.setDie d x).mem = s.mem := rfl
@[simp] theorem State.setDie_pois (s : State) (d : DieId) (x : DieSt) : (s.setDie d x).pois = s.pois := rfl
@[simp] theorem State.setDie_keyed (s : State) (d : DieId) (x : DieSt) : (s.setDie d x).keyed = s.keyed := rfl
@[simp] theorem State.setDie_fog (s : State) (d : DieId) (x : DieSt) : (s.setDie d x).fog = s.fog := rfl
@[simp] theorem State.setDie_l2 (s : State) (d : DieId) (x : DieSt) : (s.setDie d x).l2 = s.l2 := rfl
@[simp] theorem State.setDie_held (s : State) (d : DieId) (x : DieSt) : (s.setDie d x).held = s.held := rfl
@[simp] theorem State.setDie_cores (s : State) (d : DieId) (x : DieSt) : (s.setDie d x).cores = s.cores := rfl
@[simp] theorem State.setDie_clusters (s : State) (d : DieId) (x : DieSt) : (s.setDie d x).clusters = s.clusters := rfl
@[simp] theorem State.setDie_funcs (s : State) (d : DieId) (x : DieSt) : (s.setDie d x).funcs = s.funcs := rfl
@[simp] theorem State.setDie_pkg (s : State) (d : DieId) (x : DieSt) : (s.setDie d x).pkg = s.pkg := rfl
@[simp] theorem State.setDie_out (s : State) (d : DieId) (x : DieSt) : (s.setDie d x).out = s.out := rfl
@[simp] theorem State.setDie_free (s : State) (d : DieId) (x : DieSt) : (s.setDie d x).free = s.free := rfl
@[simp] theorem State.setDie_agenda (s : State) (d : DieId) (x : DieSt) : (s.setDie d x).agenda = s.agenda := rfl
@[simp] theorem State.setDie_last (s : State) (d : DieId) (x : DieSt) : (s.setDie d x).last = s.last := rfl
@[simp] theorem State.setDie_latch (s : State) (d : DieId) (x : DieSt) : (s.setDie d x).latch = s.latch := rfl
@[simp] theorem State.setDie_sure (s : State) (d : DieId) (x : DieSt) : (s.setDie d x).sure = s.sure := rfl
@[simp] theorem State.setDie_focus (s : State) (d : DieId) (x : DieSt) : (s.setDie d x).focus = s.focus := rfl

@[simp] theorem State.modDie_cyc (s : State) (d : DieId) (f : DieSt → DieSt) : (s.modDie d f).cyc = s.cyc := rfl
@[simp] theorem State.modDie_mem (s : State) (d : DieId) (f : DieSt → DieSt) : (s.modDie d f).mem = s.mem := rfl
@[simp] theorem State.modDie_pois (s : State) (d : DieId) (f : DieSt → DieSt) : (s.modDie d f).pois = s.pois := rfl
@[simp] theorem State.modDie_keyed (s : State) (d : DieId) (f : DieSt → DieSt) : (s.modDie d f).keyed = s.keyed := rfl
@[simp] theorem State.modDie_fog (s : State) (d : DieId) (f : DieSt → DieSt) : (s.modDie d f).fog = s.fog := rfl
@[simp] theorem State.modDie_l2 (s : State) (d : DieId) (f : DieSt → DieSt) : (s.modDie d f).l2 = s.l2 := rfl
@[simp] theorem State.modDie_held (s : State) (d : DieId) (f : DieSt → DieSt) : (s.modDie d f).held = s.held := rfl
@[simp] theorem State.modDie_cores (s : State) (d : DieId) (f : DieSt → DieSt) : (s.modDie d f).cores = s.cores := rfl
@[simp] theorem State.modDie_clusters (s : State) (d : DieId) (f : DieSt → DieSt) : (s.modDie d f).clusters = s.clusters := rfl
@[simp] theorem State.modDie_funcs (s : State) (d : DieId) (f : DieSt → DieSt) : (s.modDie d f).funcs = s.funcs := rfl
@[simp] theorem State.modDie_pkg (s : State) (d : DieId) (f : DieSt → DieSt) : (s.modDie d f).pkg = s.pkg := rfl
@[simp] theorem State.modDie_out (s : State) (d : DieId) (f : DieSt → DieSt) : (s.modDie d f).out = s.out := rfl
@[simp] theorem State.modDie_free (s : State) (d : DieId) (f : DieSt → DieSt) : (s.modDie d f).free = s.free := rfl
@[simp] theorem State.modDie_agenda (s : State) (d : DieId) (f : DieSt → DieSt) : (s.modDie d f).agenda = s.agenda := rfl
@[simp] theorem State.modDie_last (s : State) (d : DieId) (f : DieSt → DieSt) : (s.modDie d f).last = s.last := rfl
@[simp] theorem State.modDie_latch (s : State) (d : DieId) (f : DieSt → DieSt) : (s.modDie d f).latch = s.latch := rfl
@[simp] theorem State.modDie_sure (s : State) (d : DieId) (f : DieSt → DieSt) : (s.modDie d f).sure = s.sure := rfl
@[simp] theorem State.modDie_focus (s : State) (d : DieId) (f : DieSt → DieSt) : (s.modDie d f).focus = s.focus := rfl

@[simp] theorem State.modCluster_cyc (s : State) (d : DieId) (n : Nat) (f : ClusterSt → ClusterSt) : (s.modCluster d n f).cyc = s.cyc := rfl
@[simp] theorem State.modCluster_mem (s : State) (d : DieId) (n : Nat) (f : ClusterSt → ClusterSt) : (s.modCluster d n f).mem = s.mem := rfl
@[simp] theorem State.modCluster_pois (s : State) (d : DieId) (n : Nat) (f : ClusterSt → ClusterSt) : (s.modCluster d n f).pois = s.pois := rfl
@[simp] theorem State.modCluster_keyed (s : State) (d : DieId) (n : Nat) (f : ClusterSt → ClusterSt) : (s.modCluster d n f).keyed = s.keyed := rfl
@[simp] theorem State.modCluster_fog (s : State) (d : DieId) (n : Nat) (f : ClusterSt → ClusterSt) : (s.modCluster d n f).fog = s.fog := rfl
@[simp] theorem State.modCluster_l2 (s : State) (d : DieId) (n : Nat) (f : ClusterSt → ClusterSt) : (s.modCluster d n f).l2 = s.l2 := rfl
@[simp] theorem State.modCluster_held (s : State) (d : DieId) (n : Nat) (f : ClusterSt → ClusterSt) : (s.modCluster d n f).held = s.held := rfl
@[simp] theorem State.modCluster_cores (s : State) (d : DieId) (n : Nat) (f : ClusterSt → ClusterSt) : (s.modCluster d n f).cores = s.cores := rfl
@[simp] theorem State.modCluster_dies (s : State) (d : DieId) (n : Nat) (f : ClusterSt → ClusterSt) : (s.modCluster d n f).dies = s.dies := rfl
@[simp] theorem State.modCluster_funcs (s : State) (d : DieId) (n : Nat) (f : ClusterSt → ClusterSt) : (s.modCluster d n f).funcs = s.funcs := rfl
@[simp] theorem State.modCluster_pkg (s : State) (d : DieId) (n : Nat) (f : ClusterSt → ClusterSt) : (s.modCluster d n f).pkg = s.pkg := rfl
@[simp] theorem State.modCluster_out (s : State) (d : DieId) (n : Nat) (f : ClusterSt → ClusterSt) : (s.modCluster d n f).out = s.out := rfl
@[simp] theorem State.modCluster_free (s : State) (d : DieId) (n : Nat) (f : ClusterSt → ClusterSt) : (s.modCluster d n f).free = s.free := rfl
@[simp] theorem State.modCluster_agenda (s : State) (d : DieId) (n : Nat) (f : ClusterSt → ClusterSt) : (s.modCluster d n f).agenda = s.agenda := rfl
@[simp] theorem State.modCluster_last (s : State) (d : DieId) (n : Nat) (f : ClusterSt → ClusterSt) : (s.modCluster d n f).last = s.last := rfl
@[simp] theorem State.modCluster_latch (s : State) (d : DieId) (n : Nat) (f : ClusterSt → ClusterSt) : (s.modCluster d n f).latch = s.latch := rfl
@[simp] theorem State.modCluster_sure (s : State) (d : DieId) (n : Nat) (f : ClusterSt → ClusterSt) : (s.modCluster d n f).sure = s.sure := rfl
@[simp] theorem State.modCluster_focus (s : State) (d : DieId) (n : Nat) (f : ClusterSt → ClusterSt) : (s.modCluster d n f).focus = s.focus := rfl

@[simp] theorem State.modFunc_cyc (s : State) (n : FuncId) (f : FuncSt → FuncSt) : (s.modFunc n f).cyc = s.cyc := rfl
@[simp] theorem State.modFunc_mem (s : State) (n : FuncId) (f : FuncSt → FuncSt) : (s.modFunc n f).mem = s.mem := rfl
@[simp] theorem State.modFunc_pois (s : State) (n : FuncId) (f : FuncSt → FuncSt) : (s.modFunc n f).pois = s.pois := rfl
@[simp] theorem State.modFunc_keyed (s : State) (n : FuncId) (f : FuncSt → FuncSt) : (s.modFunc n f).keyed = s.keyed := rfl
@[simp] theorem State.modFunc_fog (s : State) (n : FuncId) (f : FuncSt → FuncSt) : (s.modFunc n f).fog = s.fog := rfl
@[simp] theorem State.modFunc_l2 (s : State) (n : FuncId) (f : FuncSt → FuncSt) : (s.modFunc n f).l2 = s.l2 := rfl
@[simp] theorem State.modFunc_held (s : State) (n : FuncId) (f : FuncSt → FuncSt) : (s.modFunc n f).held = s.held := rfl
@[simp] theorem State.modFunc_cores (s : State) (n : FuncId) (f : FuncSt → FuncSt) : (s.modFunc n f).cores = s.cores := rfl
@[simp] theorem State.modFunc_clusters (s : State) (n : FuncId) (f : FuncSt → FuncSt) : (s.modFunc n f).clusters = s.clusters := rfl
@[simp] theorem State.modFunc_dies (s : State) (n : FuncId) (f : FuncSt → FuncSt) : (s.modFunc n f).dies = s.dies := rfl
@[simp] theorem State.modFunc_pkg (s : State) (n : FuncId) (f : FuncSt → FuncSt) : (s.modFunc n f).pkg = s.pkg := rfl
@[simp] theorem State.modFunc_out (s : State) (n : FuncId) (f : FuncSt → FuncSt) : (s.modFunc n f).out = s.out := rfl
@[simp] theorem State.modFunc_free (s : State) (n : FuncId) (f : FuncSt → FuncSt) : (s.modFunc n f).free = s.free := rfl
@[simp] theorem State.modFunc_agenda (s : State) (n : FuncId) (f : FuncSt → FuncSt) : (s.modFunc n f).agenda = s.agenda := rfl
@[simp] theorem State.modFunc_last (s : State) (n : FuncId) (f : FuncSt → FuncSt) : (s.modFunc n f).last = s.last := rfl
@[simp] theorem State.modFunc_latch (s : State) (n : FuncId) (f : FuncSt → FuncSt) : (s.modFunc n f).latch = s.latch := rfl
@[simp] theorem State.modFunc_sure (s : State) (n : FuncId) (f : FuncSt → FuncSt) : (s.modFunc n f).sure = s.sure := rfl
@[simp] theorem State.modFunc_focus (s : State) (n : FuncId) (f : FuncSt → FuncSt) : (s.modFunc n f).focus = s.focus := rfl

@[simp] theorem State.modPkg_cyc (s : State) (f : PkgSt → PkgSt) : (s.modPkg f).cyc = s.cyc := rfl
@[simp] theorem State.modPkg_mem (s : State) (f : PkgSt → PkgSt) : (s.modPkg f).mem = s.mem := rfl
@[simp] theorem State.modPkg_pois (s : State) (f : PkgSt → PkgSt) : (s.modPkg f).pois = s.pois := rfl
@[simp] theorem State.modPkg_keyed (s : State) (f : PkgSt → PkgSt) : (s.modPkg f).keyed = s.keyed := rfl
@[simp] theorem State.modPkg_fog (s : State) (f : PkgSt → PkgSt) : (s.modPkg f).fog = s.fog := rfl
@[simp] theorem State.modPkg_l2 (s : State) (f : PkgSt → PkgSt) : (s.modPkg f).l2 = s.l2 := rfl
@[simp] theorem State.modPkg_held (s : State) (f : PkgSt → PkgSt) : (s.modPkg f).held = s.held := rfl
@[simp] theorem State.modPkg_cores (s : State) (f : PkgSt → PkgSt) : (s.modPkg f).cores = s.cores := rfl
@[simp] theorem State.modPkg_clusters (s : State) (f : PkgSt → PkgSt) : (s.modPkg f).clusters = s.clusters := rfl
@[simp] theorem State.modPkg_dies (s : State) (f : PkgSt → PkgSt) : (s.modPkg f).dies = s.dies := rfl
@[simp] theorem State.modPkg_funcs (s : State) (f : PkgSt → PkgSt) : (s.modPkg f).funcs = s.funcs := rfl
@[simp] theorem State.modPkg_out (s : State) (f : PkgSt → PkgSt) : (s.modPkg f).out = s.out := rfl
@[simp] theorem State.modPkg_free (s : State) (f : PkgSt → PkgSt) : (s.modPkg f).free = s.free := rfl
@[simp] theorem State.modPkg_agenda (s : State) (f : PkgSt → PkgSt) : (s.modPkg f).agenda = s.agenda := rfl
@[simp] theorem State.modPkg_last (s : State) (f : PkgSt → PkgSt) : (s.modPkg f).last = s.last := rfl
@[simp] theorem State.modPkg_latch (s : State) (f : PkgSt → PkgSt) : (s.modPkg f).latch = s.latch := rfl
@[simp] theorem State.modPkg_sure (s : State) (f : PkgSt → PkgSt) : (s.modPkg f).sure = s.sure := rfl
@[simp] theorem State.modPkg_focus (s : State) (f : PkgSt → PkgSt) : (s.modPkg f).focus = s.focus := rfl

@[simp] theorem State.send_cyc (s : State) (o : Out) : (s.send o).cyc = s.cyc := rfl
@[simp] theorem State.send_mem (s : State) (o : Out) : (s.send o).mem = s.mem := rfl
@[simp] theorem State.send_pois (s : State) (o : Out) : (s.send o).pois = s.pois := rfl
@[simp] theorem State.send_keyed (s : State) (o : Out) : (s.send o).keyed = s.keyed := rfl
@[simp] theorem State.send_fog (s : State) (o : Out) : (s.send o).fog = s.fog := rfl
@[simp] theorem State.send_l2 (s : State) (o : Out) : (s.send o).l2 = s.l2 := rfl
@[simp] theorem State.send_held (s : State) (o : Out) : (s.send o).held = s.held := rfl
@[simp] theorem State.send_cores (s : State) (o : Out) : (s.send o).cores = s.cores := rfl
@[simp] theorem State.send_clusters (s : State) (o : Out) : (s.send o).clusters = s.clusters := rfl
@[simp] theorem State.send_dies (s : State) (o : Out) : (s.send o).dies = s.dies := rfl
@[simp] theorem State.send_funcs (s : State) (o : Out) : (s.send o).funcs = s.funcs := rfl
@[simp] theorem State.send_pkg (s : State) (o : Out) : (s.send o).pkg = s.pkg := rfl
@[simp] theorem State.send_free (s : State) (o : Out) : (s.send o).free = s.free := rfl
@[simp] theorem State.send_agenda (s : State) (o : Out) : (s.send o).agenda = s.agenda := rfl
@[simp] theorem State.send_last (s : State) (o : Out) : (s.send o).last = s.last := rfl
@[simp] theorem State.send_latch (s : State) (o : Out) : (s.send o).latch = s.latch := rfl
@[simp] theorem State.send_sure (s : State) (o : Out) : (s.send o).sure = s.sure := rfl
@[simp] theorem State.send_focus (s : State) (o : Out) : (s.send o).focus = s.focus := rfl

/-! ### Parts that an update leaves as they were -/

@[simp] theorem State.setCore_die (s : State) (c : CoreId) (x : CoreSt) (i : DieId) : (s.setCore c x).die i = s.die i := rfl
@[simp] theorem State.setCore_cluster (s : State) (c : CoreId) (x : CoreSt) (i : DieId) (m : Nat) : (s.setCore c x).cluster i m = s.cluster i m := rfl
@[simp] theorem State.setCore_func (s : State) (c : CoreId) (x : CoreSt) (i : FuncId) : (s.setCore c x).func i = s.func i := rfl

@[simp] theorem State.modCore_die (s : State) (c : CoreId) (f : CoreSt → CoreSt) (i : DieId) : (s.modCore c f).die i = s.die i := rfl
@[simp] theorem State.modCore_cluster (s : State) (c : CoreId) (f : CoreSt → CoreSt) (i : DieId) (m : Nat) : (s.modCore c f).cluster i m = s.cluster i m := rfl
@[simp] theorem State.modCore_func (s : State) (c : CoreId) (f : CoreSt → CoreSt) (i : FuncId) : (s.modCore c f).func i = s.func i := rfl

@[simp] theorem State.setSeat_die (s : State) (c : CoreId) (k : SeatId) (q : SeatSt) (i : DieId) : (s.setSeat c k q).die i = s.die i := rfl
@[simp] theorem State.setSeat_cluster (s : State) (c : CoreId) (k : SeatId) (q : SeatSt) (i : DieId) (m : Nat) : (s.setSeat c k q).cluster i m = s.cluster i m := rfl
@[simp] theorem State.setSeat_func (s : State) (c : CoreId) (k : SeatId) (q : SeatSt) (i : FuncId) : (s.setSeat c k q).func i = s.func i := rfl

@[simp] theorem State.modSeat_die (s : State) (c : CoreId) (k : SeatId) (f : SeatSt → SeatSt) (i : DieId) : (s.modSeat c k f).die i = s.die i := rfl
@[simp] theorem State.modSeat_cluster (s : State) (c : CoreId) (k : SeatId) (f : SeatSt → SeatSt) (i : DieId) (m : Nat) : (s.modSeat c k f).cluster i m = s.cluster i m := rfl
@[simp] theorem State.modSeat_func (s : State) (c : CoreId) (k : SeatId) (f : SeatSt → SeatSt) (i : FuncId) : (s.modSeat c k f).func i = s.func i := rfl

@[simp] theorem State.setDie_core (s : State) (d : DieId) (x : DieSt) (i : CoreId) : (s.setDie d x).core i = s.core i := rfl
@[simp] theorem State.setDie_seat (s : State) (d : DieId) (x : DieSt) (i : CoreId) (j : SeatId) : (s.setDie d x).seat i j = s.seat i j := rfl
@[simp] theorem State.setDie_cluster (s : State) (d : DieId) (x : DieSt) (i : DieId) (m : Nat) : (s.setDie d x).cluster i m = s.cluster i m := rfl
@[simp] theorem State.setDie_func (s : State) (d : DieId) (x : DieSt) (i : FuncId) : (s.setDie d x).func i = s.func i := rfl

@[simp] theorem State.modDie_core (s : State) (d : DieId) (f : DieSt → DieSt) (i : CoreId) : (s.modDie d f).core i = s.core i := rfl
@[simp] theorem State.modDie_seat (s : State) (d : DieId) (f : DieSt → DieSt) (i : CoreId) (j : SeatId) : (s.modDie d f).seat i j = s.seat i j := rfl
@[simp] theorem State.modDie_cluster (s : State) (d : DieId) (f : DieSt → DieSt) (i : DieId) (m : Nat) : (s.modDie d f).cluster i m = s.cluster i m := rfl
@[simp] theorem State.modDie_func (s : State) (d : DieId) (f : DieSt → DieSt) (i : FuncId) : (s.modDie d f).func i = s.func i := rfl

@[simp] theorem State.modCluster_core (s : State) (d : DieId) (n : Nat) (f : ClusterSt → ClusterSt) (i : CoreId) : (s.modCluster d n f).core i = s.core i := rfl
@[simp] theorem State.modCluster_seat (s : State) (d : DieId) (n : Nat) (f : ClusterSt → ClusterSt) (i : CoreId) (j : SeatId) : (s.modCluster d n f).seat i j = s.seat i j := rfl
@[simp] theorem State.modCluster_die (s : State) (d : DieId) (n : Nat) (f : ClusterSt → ClusterSt) (i : DieId) : (s.modCluster d n f).die i = s.die i := rfl
@[simp] theorem State.modCluster_func (s : State) (d : DieId) (n : Nat) (f : ClusterSt → ClusterSt) (i : FuncId) : (s.modCluster d n f).func i = s.func i := rfl

@[simp] theorem State.modFunc_core (s : State) (n : FuncId) (f : FuncSt → FuncSt) (i : CoreId) : (s.modFunc n f).core i = s.core i := rfl
@[simp] theorem State.modFunc_seat (s : State) (n : FuncId) (f : FuncSt → FuncSt) (i : CoreId) (j : SeatId) : (s.modFunc n f).seat i j = s.seat i j := rfl
@[simp] theorem State.modFunc_die (s : State) (n : FuncId) (f : FuncSt → FuncSt) (i : DieId) : (s.modFunc n f).die i = s.die i := rfl
@[simp] theorem State.modFunc_cluster (s : State) (n : FuncId) (f : FuncSt → FuncSt) (i : DieId) (m : Nat) : (s.modFunc n f).cluster i m = s.cluster i m := rfl

@[simp] theorem State.modPkg_core (s : State) (f : PkgSt → PkgSt) (i : CoreId) : (s.modPkg f).core i = s.core i := rfl
@[simp] theorem State.modPkg_seat (s : State) (f : PkgSt → PkgSt) (i : CoreId) (j : SeatId) : (s.modPkg f).seat i j = s.seat i j := rfl
@[simp] theorem State.modPkg_die (s : State) (f : PkgSt → PkgSt) (i : DieId) : (s.modPkg f).die i = s.die i := rfl
@[simp] theorem State.modPkg_cluster (s : State) (f : PkgSt → PkgSt) (i : DieId) (m : Nat) : (s.modPkg f).cluster i m = s.cluster i m := rfl
@[simp] theorem State.modPkg_func (s : State) (f : PkgSt → PkgSt) (i : FuncId) : (s.modPkg f).func i = s.func i := rfl

@[simp] theorem State.send_core (s : State) (o : Out) (i : CoreId) : (s.send o).core i = s.core i := rfl
@[simp] theorem State.send_seat (s : State) (o : Out) (i : CoreId) (j : SeatId) : (s.send o).seat i j = s.seat i j := rfl
@[simp] theorem State.send_die (s : State) (o : Out) (i : DieId) : (s.send o).die i = s.die i := rfl
@[simp] theorem State.send_cluster (s : State) (o : Out) (i : DieId) (m : Nat) : (s.send o).cluster i m = s.cluster i m := rfl
@[simp] theorem State.send_func (s : State) (o : Out) (i : FuncId) : (s.send o).func i = s.func i := rfl

/-! ### Tables -/

section Tables
variable {α : Type}

@[simp] theorem Tab.val_nil (d : α) (k : Nat) : Tab.val ([] : Tab α) d k = d := rfl
@[simp] theorem Tab.find_nil (k : Nat) : Tab.find ([] : Tab α) k = none := rfl
@[simp] theorem Tab.put_nil (k : Nat) (x : α) : Tab.put ([] : Tab α) k x = [(k, x)] := rfl
@[simp] theorem Tab.del_nil (k : Nat) : Tab.del ([] : Tab α) k = [] := rfl

/-- The number put holds its value. -/
@[simp] theorem Tab.val_put_same (t : Tab α) (d : α) (k : Nat) (x : α) : (t.put k x).val d k = x := by
  induction t with
  | nil => simp [Tab.val]
  | cons p r ih =>
    obtain ⟨i, y⟩ := p
    unfold Tab.put
    split
    · simp [Tab.val]
    · split
      · simp [Tab.val]
      · rename_i h1 h2
        simp [Tab.val, ih]; omega

/-- Every other number holds what it held. -/
theorem Tab.val_put_ne (t : Tab α) (d : α) {k j : Nat} (x : α) (h : j ≠ k) : (t.put k x).val d j = t.val d j := by
  induction t with
  | nil => simp [Tab.val]; omega
  | cons p r ih =>
    obtain ⟨i, y⟩ := p
    unfold Tab.put
    split
    · simp [Tab.val]; omega
    · split
      · rename_i h1 h2
        subst h2
        simp only [Tab.val]; rw [if_neg (by omega), if_neg (by omega)]
      · simp [Tab.val, ih]

/-- The number put is listed. -/
@[simp] theorem Tab.find_put_same (t : Tab α) (k : Nat) (x : α) : (t.put k x).find k = some x := by
  induction t with
  | nil => simp [Tab.find]
  | cons p r ih =>
    obtain ⟨i, y⟩ := p
    unfold Tab.put
    split
    · simp [Tab.find]
    · split
      · simp [Tab.find]
      · rename_i h1 h2
        simp [Tab.find, ih]; omega

/-- Every other number is listed as it was. -/
theorem Tab.find_put_ne (t : Tab α) {k j : Nat} (x : α) (h : j ≠ k) : (t.put k x).find j = t.find j := by
  induction t with
  | nil => simp [Tab.find]; omega
  | cons p r ih =>
    obtain ⟨i, y⟩ := p
    unfold Tab.put
    split
    · simp [Tab.find]; omega
    · split
      · rename_i h1 h2
        subst h2
        simp only [Tab.find]; rw [if_neg (by omega), if_neg (by omega)]
      · simp [Tab.find, ih]

/-- The later of two values put under one number stands. -/
@[simp] theorem Tab.put_put (t : Tab α) (k : Nat) (x y : α) : (t.put k x).put k y = t.put k y := by
  induction t with
  | nil => simp [Tab.put]
  | cons p r ih =>
    obtain ⟨i, z⟩ := p
    by_cases h1 : k < i
    · simp [Tab.put, h1]
    · by_cases h2 : k = i
      · simp [Tab.put, h2]
      · simp [Tab.put, h1, h2, ih]

/-- A number taken out is not listed. -/
@[simp] theorem Tab.val_del_same (t : Tab α) (d : α) (k : Nat) : (t.del k).val d k = d := by
  induction t with
  | nil => rfl
  | cons p r ih =>
    obtain ⟨i, y⟩ := p
    unfold Tab.del
    split
    · exact ih
    · rename_i h
      simp [Tab.val, ih, h]

/-- Every other number holds what it held. -/
theorem Tab.val_del_ne (t : Tab α) (d : α) {k j : Nat} (h : j ≠ k) : (t.del k).val d j = t.val d j := by
  induction t with
  | nil => rfl
  | cons p r ih =>
    obtain ⟨i, y⟩ := p
    unfold Tab.del
    split
    · rename_i h'
      subst h'
      simp only [ih, Tab.val]; rw [if_neg (by omega)]
    · simp [Tab.val, ih]

/-- A value read is one listed or the default. -/
theorem Tab.val_eq_find (t : Tab α) (d : α) (k : Nat) : t.val d k = (t.find k).getD d := by
  induction t with
  | nil => rfl
  | cons p r ih =>
    obtain ⟨i, y⟩ := p
    simp only [Tab.val, Tab.find]
    split
    · rfl
    · exact ih

/-- A value changed throughout a table, read back. -/
theorem Tab.find_mapV (f : α → α) (t : Tab α) (k : Nat) : (t.mapV f).find k = (t.find k).map f := by
  induction t with
  | nil => rfl
  | cons p r ih =>
    obtain ⟨i, y⟩ := p
    simp only [Tab.mapV, List.map_cons, Tab.find] at ih ⊢
    split
    · rfl
    · exact ih

/-- A changed table of values whose default the change keeps. -/
theorem Tab.val_mapV (f : α → α) (t : Tab α) (d : α) (k : Nat) (h : f d = d) : (t.mapV f).val d k = f (t.val d k) := by
  rw [Tab.val_eq_find, Tab.find_mapV, Tab.val_eq_find]
  cases t.find k <;> simp [h]

/-- The first number of a rising table, and the rest. -/
theorem Tab.rising_cons (p : Nat × α) (t : Tab α) :
    Tab.rising (p :: t) = true ↔ Tab.rising t = true ∧ ∀ q ∈ t, p.1 < q.1 := by
  induction t generalizing p with
  | nil => simp [Tab.rising]
  | cons q r ih =>
    obtain ⟨i, x⟩ := p
    obtain ⟨j, y⟩ := q
    simp only [Tab.rising, Bool.and_eq_true, decide_eq_true_eq, ih (j, y), List.mem_cons, forall_eq_or_imp]
    constructor
    · rintro ⟨h, h1, h2⟩
      exact ⟨⟨h1, h2⟩, h, fun q hq => Nat.lt_trans h (h2 q hq)⟩
    · rintro ⟨⟨h1, h2⟩, h, _⟩
      exact ⟨h, h1, h2⟩

/-- What a table lists after a value is put: the pair put and pairs listed before. -/
theorem Tab.mem_put {t : Tab α} {k : Nat} {x : α} {p : Nat × α} (h : p ∈ t.put k x) : p = (k, x) ∨ p ∈ t := by
  induction t with
  | nil => simpa using h
  | cons q r ih =>
    obtain ⟨i, y⟩ := q
    unfold Tab.put at h
    split at h
    · simpa using h
    · split at h
      · rcases List.mem_cons.1 h with h | h
        · exact .inl h
        · exact .inr (List.mem_cons_of_mem _ h)
      · rcases List.mem_cons.1 h with h | h
        · exact .inr (h ▸ List.mem_cons_self ..)
        · exact (ih h).imp id (List.mem_cons_of_mem _)

/-- What a table lists after a number is taken out was listed before, under another number. -/
theorem Tab.mem_del {t : Tab α} {k : Nat} {p : Nat × α} (h : p ∈ t.del k) : p ∈ t ∧ p.1 ≠ k := by
  induction t with
  | nil => simp at h
  | cons q r ih =>
    obtain ⟨i, y⟩ := q
    unfold Tab.del at h
    split at h
    · exact (ih h).imp (List.mem_cons_of_mem _) id
    · rename_i hi
      rcases List.mem_cons.1 h with h | h
      · exact ⟨h ▸ List.mem_cons_self .., by rw [h]; exact hi⟩
      · exact (ih h).imp (List.mem_cons_of_mem _) id

/-- A put keeps the numbers rising. -/
theorem Tab.rising_put {t : Tab α} (h : Tab.rising t = true) (k : Nat) (x : α) : Tab.rising (t.put k x) = true := by
  induction t with
  | nil => rfl
  | cons p r ih =>
    obtain ⟨i, y⟩ := p
    have hr := (Tab.rising_cons _ _).1 h
    unfold Tab.put
    split
    · rename_i h1
      refine (Tab.rising_cons _ _).2 ⟨h, fun q hq => ?_⟩
      rcases List.mem_cons.1 hq with rfl | hq
      · exact h1
      · exact Nat.lt_trans h1 (hr.2 q hq)
    · split
      · rename_i h1 h2
        subst h2
        exact (Tab.rising_cons _ _).2 ⟨hr.1, hr.2⟩
      · rename_i h1 h2
        refine (Tab.rising_cons _ _).2 ⟨ih hr.1, fun q hq => ?_⟩
        rcases Tab.mem_put hq with rfl | hq
        · show i < k; omega
        · exact hr.2 q hq

/-- Taking a number out keeps the numbers rising. -/
theorem Tab.rising_del {t : Tab α} (h : Tab.rising t = true) (k : Nat) : Tab.rising (t.del k) = true := by
  induction t with
  | nil => rfl
  | cons p r ih =>
    obtain ⟨i, y⟩ := p
    have hr := (Tab.rising_cons _ _).1 h
    unfold Tab.del
    split
    · exact ih hr.1
    · exact (Tab.rising_cons _ _).2 ⟨ih hr.1, fun q hq => hr.2 q (Tab.mem_del hq).1⟩

/-- A part of a rising table rises. -/
theorem Tab.rising_filter {t : Tab α} (h : Tab.rising t = true) (p : Nat × α → Bool) : Tab.rising (t.filter p) = true := by
  induction t with
  | nil => rfl
  | cons q r ih =>
    have hr := (Tab.rising_cons _ _).1 h
    rw [List.filter_cons]
    split
    · exact (Tab.rising_cons _ _).2 ⟨ih hr.1, fun a ha => hr.2 a (List.mem_filter.1 ha).1⟩
    · exact ih hr.1

/-- In a rising table a pair that is listed is the one found. -/
theorem Tab.find_of_mem {t : Tab α} (h : Tab.rising t = true) {k : Nat} {x : α} (hm : (k, x) ∈ t) : t.find k = some x := by
  induction t with
  | nil => simp at hm
  | cons p r ih =>
    obtain ⟨i, y⟩ := p
    have hr := (Tab.rising_cons _ _).1 h
    rcases List.mem_cons.1 hm with hm | hm
    · cases hm
      simp [Tab.find]
    · have := hr.2 _ hm
      simp only at this
      simp only [Tab.find]
      rw [if_neg (by omega)]
      exact ih hr.1 hm

end Tables

/-! ### Cores and seats -/

/-- The core set is the core read. -/
@[simp] theorem State.core_setCore (s : State) (c : CoreId) (x : CoreSt) : (s.setCore c x).core c = x := by
  simp [State.core, State.setCore]

/-- Every other core is as it was. -/
theorem State.core_setCore_ne (s : State) {c d : CoreId} (x : CoreSt) (h : d ≠ c) : (s.setCore c x).core d = s.core d := by
  simp only [State.core, State.setCore]
  exact Tab.val_put_ne _ _ _ fun e => h (BitVec.eq_of_toNat_eq e)

/-- The core changed. -/
@[simp] theorem State.core_modCore (s : State) (c : CoreId) (f : CoreSt → CoreSt) : (s.modCore c f).core c = f (s.core c) := by
  simp [State.modCore]

/-- Every other core is as it was. -/
theorem State.core_modCore_ne (s : State) {c d : CoreId} (f : CoreSt → CoreSt) (h : d ≠ c) :
    (s.modCore c f).core d = s.core d := State.core_setCore_ne _ _ h

/-- The later of two cores set under one number stands. -/
@[simp] theorem State.setCore_setCore (s : State) (c : CoreId) (x y : CoreSt) : (s.setCore c x).setCore c y = s.setCore c y := by
  simp [State.setCore]

/-- The seat set is the seat read. -/
@[simp] theorem CoreSt.seatAt_setSeat (x : CoreSt) (k : SeatId) (q : SeatSt) : (x.setSeat k q).seatAt k = q := by
  simp [CoreSt.seatAt, CoreSt.setSeat]

/-- Every other seat of the core is as it was. -/
theorem CoreSt.seatAt_setSeat_ne (x : CoreSt) {k j : SeatId} (q : SeatSt) (h : j ≠ k) :
    (x.setSeat k q).seatAt j = x.seatAt j := by
  simp only [CoreSt.seatAt, CoreSt.setSeat]
  exact Tab.val_put_ne _ _ _ fun e => h (BitVec.eq_of_toNat_eq e)

/-- The later of two seats set under one number stands. -/
@[simp] theorem CoreSt.setSeat_setSeat (x : CoreSt) (k : SeatId) (p q : SeatSt) : (x.setSeat k p).setSeat k q = x.setSeat k q := by
  simp [CoreSt.setSeat]

/-- The seat of the machine that is set is the one read. -/
@[simp] theorem State.seat_setSeat (s : State) (c : CoreId) (k : SeatId) (q : SeatSt) : (s.setSeat c k q).seat c k = q := by
  simp [State.seat, State.setSeat]

/-- The seat changed. -/
@[simp] theorem State.seat_modSeat (s : State) (c : CoreId) (k : SeatId) (f : SeatSt → SeatSt) :
    (s.modSeat c k f).seat c k = f (s.seat c k) := by
  simp [State.modSeat]

/-- Another seat of the core is as it was. -/
theorem State.seat_setSeat_ne_seat (s : State) (c : CoreId) {k j : SeatId} (q : SeatSt) (h : j ≠ k) :
    (s.setSeat c k q).seat c j = s.seat c j := by
  simp [State.seat, State.setSeat, CoreSt.seatAt_setSeat_ne _ _ h]

/-- A seat of another core is as it was. -/
theorem State.seat_setCore_ne (s : State) {c d : CoreId} (x : CoreSt) (k : SeatId) (h : d ≠ c) :
    (s.setCore c x).seat d k = s.seat d k := by
  simp [State.seat, State.core_setCore_ne _ _ h]

/-- The core of a seat that is set. -/
@[simp] theorem State.core_setSeat (s : State) (c : CoreId) (k : SeatId) (q : SeatSt) :
    (s.setSeat c k q).core c = (s.core c).setSeat k q := by
  simp [State.setSeat]

/-- The later of two seats set in one place stands. -/
@[simp] theorem State.setSeat_setSeat (s : State) (c : CoreId) (k : SeatId) (p q : SeatSt) :
    (s.setSeat c k p).setSeat c k q = s.setSeat c k q := by
  simp [State.setSeat]

/-- The die set is the die read. -/
@[simp] theorem State.die_setDie (s : State) (d : DieId) (x : DieSt) : (s.setDie d x).die d = x := by
  simp [State.die, State.setDie]

/-- Every other die is as it was. -/
theorem State.die_setDie_ne (s : State) {d e : DieId} (x : DieSt) (h : e ≠ d) : (s.setDie d x).die e = s.die e := by
  simp only [State.die, State.setDie]
  exact Tab.val_put_ne _ _ _ fun h' => h (BitVec.eq_of_toNat_eq h')

/-- The die changed. -/
@[simp] theorem State.die_modDie (s : State) (d : DieId) (f : DieSt → DieSt) : (s.modDie d f).die d = f (s.die d) := by
  simp [State.modDie]

/-- The cluster changed. -/
@[simp] theorem State.cluster_modCluster (s : State) (d : DieId) (n : Nat) (f : ClusterSt → ClusterSt) :
    (s.modCluster d n f).cluster d n = f (s.cluster d n) := by
  simp [State.cluster, State.modCluster]

/-- The function changed. -/
@[simp] theorem State.func_modFunc (s : State) (n : FuncId) (f : FuncSt → FuncSt) : (s.modFunc n f).func n = f (s.func n) := by
  simp [State.func, State.modFunc]

/-- Every other function is as it was. -/
theorem State.func_modFunc_ne (s : State) {n m : FuncId} (f : FuncSt → FuncSt) (h : m ≠ n) :
    (s.modFunc n f).func m = s.func m := by
  simp only [State.func, State.modFunc]
  exact Tab.val_put_ne _ _ _ fun e => h (BitVec.eq_of_toNat_eq e)

/-- The package changed. -/
@[simp] theorem State.modPkg_pkg (s : State) (f : PkgSt → PkgSt) : (s.modPkg f).pkg = f s.pkg := rfl

/-- Something sent outward comes last. -/
@[simp] theorem State.send_out (s : State) (o : Out) : (s.send o).out = s.out ++ [o] := rfl

/-! ### The machine after reset -/

@[simp] theorem reset_core (c : CoreId) : State.reset.core c = .reset := rfl
@[simp] theorem reset_seat (c : CoreId) (k : SeatId) : State.reset.seat c k = .reset := rfl
@[simp] theorem reset_die (d : DieId) : State.reset.die d = .reset := rfl
@[simp] theorem reset_cluster (d : DieId) (n : Nat) : State.reset.cluster d n = .reset := rfl
@[simp] theorem reset_func (f : FuncId) : State.reset.func f = .reset := rfl
theorem reset_inv : State.reset.inv = true := rfl

end Sys2Proof.Machine
end

