-- ==== Sys2Proof/Laws/Memory.lean ====
section
/-!
SUPPORT. Memory: every operation keeps its canonical form, a byte written is read back, and every other byte stays.
-/
namespace Sys2Proof.Machine

/-! ### The canonical form -/

/-- The canonical form, said of the pairs. -/
theorem Memory.wf_iff (m : Tab Byte) : Memory.wf m = true ↔ Tab.rising m = true ∧ ∀ p ∈ m, p.2 ≠ 0 := by
  simp [Memory.wf]

/-- Writing a byte keeps the canonical form. -/
theorem Memory.wf_wr {m : Tab Byte} (h : Memory.wf m = true) (a : Nat) (b : Byte) : Memory.wf (m.wr a b) = true := by
  obtain ⟨hr, hz⟩ := (Memory.wf_iff m).1 h
  refine (Memory.wf_iff _).2 ?_
  unfold Tab.wr
  split
  · exact ⟨Tab.rising_del hr a, fun p hp => hz p (Tab.mem_del hp).1⟩
  · rename_i hb
    refine ⟨Tab.rising_put hr a b, fun p hp => ?_⟩
    rcases Tab.mem_put hp with rfl | hp
    · exact hb
    · exact hz p hp

/-- A part of a memory in canonical form is in canonical form. -/
theorem Memory.wf_filter {m : Tab Byte} (h : Memory.wf m = true) (p : Nat × Byte → Bool) : Memory.wf (m.filter p) = true := by
  obtain ⟨hr, hz⟩ := (Memory.wf_iff m).1 h
  exact (Memory.wf_iff _).2 ⟨Tab.rising_filter hr p, fun q hq => hz q (List.mem_filter.1 hq).1⟩

/-- Writing several bytes of a memory keeps the canonical form. -/
theorem Memory.wf_foldl {m : Tab Byte} (h : Memory.wf m = true) (l : List Nat) (f : Nat → Nat) (g : Nat → Byte) :
    Memory.wf (l.foldl (fun m i => m.wr (f i) (g i)) m) = true := by
  induction l generalizing m with
  | nil => exact h
  | cons i r ih => exact ih (Memory.wf_wr h _ _)

/-- Two memories in canonical form that read alike are equal. -/
theorem Memory.ext {m n : Tab Byte} (hm : Memory.wf m = true) (hn : Memory.wf n = true) (h : ∀ a, m.val 0 a = n.val 0 a) :
    m = n := by
  have low : ∀ {t : Tab Byte} {i : Nat}, (∀ q ∈ t, i < q.1) → t.val 0 i = 0 := by
    intro t i ht
    induction t with
    | nil => rfl
    | cons p r ih =>
      obtain ⟨j, y⟩ := p
      have := ht (j, y) (List.mem_cons_self ..)
      simp only at this
      simp only [Tab.val]
      rw [if_neg (by omega)]
      exact ih fun q hq => ht q (List.mem_cons_of_mem _ hq)
  induction m generalizing n with
  | nil =>
    cases n with
    | nil => rfl
    | cons p r =>
      exact absurd (h p.1).symm (by simpa [Tab.val] using ((Memory.wf_iff _).1 hn).2 p (List.mem_cons_self ..))
  | cons p r ih =>
    obtain ⟨i, x⟩ := p
    obtain ⟨h1, h2⟩ := (Memory.wf_iff _).1 hm
    have hx : x ≠ 0 := h2 (i, x) (List.mem_cons_self ..)
    have h3 := (Tab.rising_cons _ _).1 h1
    cases n with
    | nil => exact absurd (h i) (by simpa [Tab.val] using hx)
    | cons q l =>
      obtain ⟨j, y⟩ := q
      obtain ⟨k1, k2⟩ := (Memory.wf_iff _).1 hn
      have hy : y ≠ 0 := k2 (j, y) (List.mem_cons_self ..)
      have k3 := (Tab.rising_cons _ _).1 k1
      have hij : i = j := by
        rcases Nat.lt_trichotomy i j with hl | he | hl
        · have := h i
          rw [low (t := (j, y) :: l) (by
            intro q hq
            rcases List.mem_cons.1 hq with rfl | hq
            · exact hl
            · exact Nat.lt_trans hl (k3.2 q hq))] at this
          exact absurd this (by simpa [Tab.val] using hx)
        · exact he
        · have := h j
          rw [low (t := (i, x) :: r) (by
            intro q hq
            rcases List.mem_cons.1 hq with rfl | hq
            · exact hl
            · exact Nat.lt_trans hl (h3.2 q hq))] at this
          exact absurd this.symm (by simpa [Tab.val] using hy)
      subst hij
      have hxy : x = y := by simpa [Tab.val] using h i
      subst hxy
      have hr : Memory.wf r = true := (Memory.wf_iff _).2 ⟨h3.1, fun q hq => h2 q (List.mem_cons_of_mem _ hq)⟩
      have hl : Memory.wf l = true := (Memory.wf_iff _).2 ⟨k3.1, fun q hq => k2 q (List.mem_cons_of_mem _ hq)⟩
      rw [ih hr hl fun a => by
        by_cases ha : i = a
        · subst ha
          rw [low h3.2, low k3.2]
        · simpa [Tab.val, ha] using h a]

/-! ### Bytes of a memory -/

/-- The byte written is read. -/
@[simp] theorem Tab.val_wr_same (m : Tab Byte) (a : Nat) (b : Byte) : (m.wr a b).val 0 a = b := by
  unfold Tab.wr
  split
  · rename_i h; simp [h]
  · simp

/-- Every other byte is as it was. -/
theorem Tab.val_wr_ne (m : Tab Byte) {a i : Nat} (b : Byte) (h : i ≠ a) : (m.wr a b).val 0 i = m.val 0 i := by
  unfold Tab.wr
  split
  · exact Tab.val_del_ne _ _ h
  · exact Tab.val_put_ne _ _ _ h

/-- Writing n bytes: what each address holds after. -/
theorem Tab.val_wrRange (m : Tab Byte) (n base : Nat) (f : Nat → Byte) (a : Nat) :
    ((List.range n).foldl (fun m i => m.wr (base + i) (f i)) m).val 0 a =
      if base ≤ a ∧ a < base + n then f (a - base) else m.val 0 a := by
  induction n with
  | zero => simp only [List.range_zero, List.foldl_nil]; rw [if_neg (by omega)]
  | succ n ih =>
    rw [List.range_succ, List.foldl_append, List.foldl_cons, List.foldl_nil]
    by_cases h : a = base + n
    · subst h
      rw [Tab.val_wr_same, if_pos (by omega)]
      congr 1; omega
    · rw [Tab.val_wr_ne _ _ h, ih]
      by_cases h1 : base ≤ a ∧ a < base + n
      · rw [if_pos h1, if_pos (by omega)]
      · rw [if_neg h1, if_neg (by omega)]

/-! ### Contents that no rule states (log 55) -/

/-- A byte taken out of one range. -/
theorem inFog_cut (r : Nat × Nat) (pa a : Nat) :
    inFog (if r.1 ≤ pa && pa < r.1 + r.2 then [(r.1, pa - r.1), (pa + 1, r.1 + r.2 - (pa + 1))] else [r]) a
      = (inFog [r] a && decide (a ≠ pa)) := by
  rw [Bool.eq_iff_iff]
  by_cases h : r.1 ≤ pa ∧ pa < r.1 + r.2
  · simp [inFog, h]; omega
  · rw [if_neg (by simpa using h)]
    simp [inFog]; omega

/-- A byte taken out of such ranges lies in none of them; every other byte stays where it was. -/
theorem inFog_cutFog (l : List (Nat × Nat)) (pa a : Nat) : inFog (cutFog l pa) a = (inFog l a && decide (a ≠ pa)) := by
  induction l with
  | nil => rfl
  | cons r t ih =>
    have app (x y : List (Nat × Nat)) : inFog (x ++ y) a = (inFog x a || inFog y a) := List.any_append
    rw [cutFog, List.flatMap_cons, app, inFog_cut, ← cutFog, ih, ← Bool.and_or_distrib_right, ← app]
    rfl

/-! ### Keys and bytes of the machine (R374) -/

/-- After a granule is rekeyed it stands under that key. -/
theorem State.keyed_rekey (s : State) (kid g : Nat) : (s.rekey kid g).keyed.val 0 g = kid := by
  unfold State.rekey
  split
  · assumption
  · dsimp only
    split
    · rename_i h; simp [h]
    · simp

/-- Another granule keeps its key. -/
theorem State.keyed_rekey_ne (s : State) (kid : Nat) {g i : Nat} (h : i ≠ g) :
    (s.rekey kid g).keyed.val 0 i = s.keyed.val 0 i := by
  unfold State.rekey
  split
  · rfl
  · dsimp only
    split
    · exact Tab.val_del_ne _ _ h
    · exact Tab.val_put_ne _ _ _ h

@[simp] theorem State.rekey_free (s : State) (kid g : Nat) : (s.rekey kid g).free = s.free := by
  unfold State.rekey; split <;> rfl

@[simp] theorem State.rekey_fog (s : State) (kid g : Nat) : (s.rekey kid g).fog = s.fog := by
  unfold State.rekey; split <;> rfl

/-- The bytes of another granule stay. -/
theorem State.mem_rekey_ne (s : State) (kid : Nat) {g a : Nat} (h : granOf a ≠ g) :
    (s.rekey kid g).mem.val 0 a = s.mem.val 0 a := by
  unfold State.rekey
  split
  · rfl
  · dsimp only
    rw [Tab.val_wrRange s.mem 64 (64 * g) (fun i => s.rdB kid (64 * g + i)) a, if_neg]
    unfold granOf at h
    omega

/-- A rekeyed granule reads as it did under the key; so does every byte of another granule under any key. -/
theorem State.rdB_rekey (s : State) (kid kid' g a : Nat) (h : granOf a = g → kid' = kid) :
    (s.rekey kid g).rdB kid' a = s.rdB kid' a := by
  by_cases hg : granOf a = g
  · obtain rfl := h hg
    by_cases hk : s.keyed.val 0 g = kid'
    · unfold State.rekey; rw [if_pos hk]
    · have hm : (s.rekey kid' g).mem.val 0 a = s.rdB kid' a := by
        unfold State.rekey
        rw [if_neg hk]
        dsimp only
        rw [Tab.val_wrRange s.mem 64 (64 * g) (fun i => s.rdB kid' (64 * g + i)) a]
        unfold granOf at hg
        rw [if_pos (by omega), show 64 * g + (a - 64 * g) = a by omega]
      have hf : s.rdB kid' a = Config.freeByte a s.free := by
        unfold State.rdB; rw [hg]; simp [hk]
      rw [State.rdB, State.rekey_free, State.rekey_fog, hm, hf, ite_self]
  · simp only [State.rdB, State.keyed_rekey_ne s kid hg, State.mem_rekey_ne s kid hg, State.rekey_free, State.rekey_fog]

/-- Rekeying keeps the canonical form. -/
theorem State.inv_rekey {s : State} (h : s.inv = true) (kid g : Nat) : (s.rekey kid g).inv = true := by
  unfold State.rekey
  split
  · exact h
  · exact Memory.wf_foldl h _ _ _

/-- Writing a byte keeps the canonical form. -/
theorem State.inv_wrB {s : State} (h : s.inv = true) (kid pa : Nat) (b : Byte) : (s.wrB kid pa b).inv = true :=
  Memory.wf_wr (State.inv_rekey h kid _) _ _

/-- Writing bytes keeps the canonical form. -/
theorem State.inv_wrBytes {s : State} (h : s.inv = true) (kid pa : Nat) (b : List Byte) : (s.wrBytes kid pa b).inv = true := by
  induction b generalizing s pa with
  | nil => exact h
  | cons x r ih => exact ih (State.inv_wrB h kid pa x) _

/-- The byte written under a key is read under it. -/
@[simp] theorem State.rdB_wrB_same (s : State) (kid pa : Nat) (b : Byte) : (s.wrB kid pa b).rdB kid pa = b := by
  have hk : (s.wrB kid pa b).keyed.val 0 (granOf pa) = kid := State.keyed_rekey s kid _
  have hf : inFog (s.wrB kid pa b).fog pa = false := by simp [State.wrB, inFog_cutFog]
  rw [State.rdB, hk, hf, if_pos (by simp)]
  exact Tab.val_wr_same _ _ _

/-- Another byte reads as before, under the key of the write in the same granule, and under every key in the others. -/
theorem State.rdB_wrB_ne (s : State) (kid kid' : Nat) {pa a : Nat} (b : Byte) (h : a ≠ pa) (hg : granOf a = granOf pa → kid' = kid) :
    (s.wrB kid pa b).rdB kid' a = s.rdB kid' a := by
  rw [← State.rdB_rekey s kid kid' (granOf pa) a hg]
  simp only [State.wrB, State.rdB, inFog_cutFog, Tab.val_wr_ne _ _ h, State.rekey_fog, State.rekey_free, decide_eq_true h,
    Bool.and_true]

/-- Bytes written are read back, and every other byte reads as before, under the key of the write. -/
theorem State.rdB_wrBytes (s : State) (kid pa a : Nat) (b : List Byte) :
    (s.wrBytes kid pa b).rdB kid a = if pa ≤ a ∧ a < pa + b.length then b.getD (a - pa) 0 else s.rdB kid a := by
  induction b generalizing s pa with
  | nil => rw [if_neg (by simp)]; rfl
  | cons x r ih =>
    rw [State.wrBytes, ih]
    by_cases h : a = pa
    · subst h
      rw [if_neg (by omega), State.rdB_wrB_same, if_pos (by simp)]
      simp
    · rw [State.rdB_wrB_ne _ _ _ _ h fun _ => rfl]
      by_cases h1 : pa + 1 ≤ a ∧ a < pa + 1 + r.length
      · rw [if_pos h1, if_pos (by simp only [List.length_cons]; omega)]
        rw [show a - pa = (a - (pa + 1)) + 1 by omega]
        simp
      · rw [if_neg h1, if_neg (by simp only [List.length_cons]; omega)]

/-- A byte of a granule that no written byte touches reads as before under every key. -/
theorem State.rdB_wrBytes_gran (s : State) (kid : Nat) {pa a : Nat} (b : List Byte)
    (h : ∀ i, i < b.length → granOf (pa + i) ≠ granOf a) (kid' : Nat) : (s.wrBytes kid pa b).rdB kid' a = s.rdB kid' a := by
  induction b generalizing s pa with
  | nil => rfl
  | cons x r ih =>
    have h0 : granOf a ≠ granOf pa := fun e => h 0 (by simp) (by simpa using e.symm)
    rw [State.wrBytes, ih (s := s.wrB kid pa x) (pa := pa + 1) (fun i hi => by
      have := h (i + 1) (by simp only [List.length_cons]; omega)
      rwa [show pa + 1 + i = pa + (i + 1) by omega])]
    exact State.rdB_wrB_ne s kid kid' x (fun e => h0 (by rw [e])) fun e => absurd e h0

/-! ### What a write of memory leaves -/

/-- What a write of memory may change: memory with its keys, its poison and the contents that no rule states, the L2, and what is
sent outward. -/
def State.withMem (s t : State) : State :=
  { s with mem := t.mem, keyed := t.keyed, pois := t.pois, fog := t.fog, l2 := t.l2, out := t.out }

/-- Writes of memory change nothing else. -/
def State.memOnly (s t : State) : Prop := t = s.withMem t

theorem State.memOnly_refl (s : State) : s.memOnly s := rfl

theorem State.memOnly_trans {s t u : State} (h : s.memOnly t) (k : t.memOnly u) : s.memOnly u := by
  unfold State.memOnly at *
  rw [k, h]; rfl

theorem State.memOnly_rekey (s : State) (kid g : Nat) : s.memOnly (s.rekey kid g) := by
  unfold State.rekey; split <;> rfl

theorem State.memOnly_wrB (s : State) (kid pa : Nat) (b : Byte) : s.memOnly (s.wrB kid pa b) :=
  State.memOnly_trans (State.memOnly_rekey s kid (granOf pa)) rfl

theorem State.memOnly_wrBytes (s : State) (kid pa : Nat) (b : List Byte) : s.memOnly (s.wrBytes kid pa b) := by
  induction b generalizing s pa with
  | nil => exact s.memOnly_refl
  | cons x r ih => exact State.memOnly_trans (s.memOnly_wrB kid pa x) (ih _ _)

/-- A unit's write to a translated range keeps the canonical form and changes memory alone. -/
theorem State.memOnly_wrSegs (s : State) (l : List Seg) (b : List Byte) :
    s.memOnly (s.wrSegs l b) ∧ (s.inv = true → (s.wrSegs l b).inv = true) := by
  induction l generalizing s b with
  | nil => exact ⟨s.memOnly_refl, id⟩
  | cons g r ih =>
    unfold State.wrSegs
    dsimp only
    split
    · exact ⟨State.memOnly_trans (t := s.send _) rfl (ih _ _).1, fun h => (ih _ _).2 h⟩
    · exact ⟨State.memOnly_trans (t := State.clean _ _ _)
        (State.memOnly_trans (s.memOnly_wrBytes g.xl.kid g.xl.pa _) rfl) (ih _ _).1,
        fun h => (ih _ _).2 (State.inv_wrBytes h g.xl.kid g.xl.pa _)⟩

/-- Bytes stored with their poison keep the canonical form and change memory alone. -/
theorem State.memOnly_storeMarked (s : State) (l : List Seg) (d : List (Byte × Bool)) :
    s.memOnly (s.storeMarked l d) ∧ (s.inv = true → (s.storeMarked l d).inv = true) := by
  induction l generalizing s d with
  | nil => exact ⟨s.memOnly_refl, id⟩
  | cons g r ih =>
    unfold State.storeMarked
    dsimp only
    split
    · exact ⟨State.memOnly_trans (t := s.send _) rfl (ih _ _).1, fun h => (ih _ _).2 h⟩
    · exact ⟨State.memOnly_trans (t := State.poison (State.clean _ _ _) _)
        (State.memOnly_trans (s.memOnly_wrBytes g.xl.kid g.xl.pa _) rfl) (ih _ _).1,
        fun h => (ih _ _).2 (State.inv_wrBytes h g.xl.kid g.xl.pa _)⟩

/-- A look-up in the L2 changes the L2 alone. -/
theorem State.l2Segs_eq (s : State) (wr : Bool) (l : List Seg) : s.l2Segs wr l = { s with l2 := (s.l2Segs wr l).l2 } := by
  have lines : ∀ (ns : List Nat) (t : State) (g : Seg), ns.foldl (fun (s : State) n => s.l2Line g.xl.who g.xl.cls g.xl.key n wr) t
      = { t with l2 := (ns.foldl (fun (s : State) n => s.l2Line g.xl.who g.xl.cls g.xl.key n wr) t).l2 } := by
    intro ns
    induction ns with
    | nil => exact fun _ _ => rfl
    | cons n r ih =>
      intro t g
      rw [List.foldl_cons, ih]
      rfl
  unfold State.l2Segs
  induction l generalizing s with
  | nil => rfl
  | cons g r ih =>
    rw [List.foldl_cons, ih]
    split
    · rw [lines]
    · split <;> rfl

/-- A unit's write to a range through the L2 (R273). -/
theorem State.memOnly_putSegs (s : State) (l : List Seg) (b : List Byte) :
    s.memOnly (s.putSegs l b) ∧ (s.inv = true → (s.putSegs l b).inv = true) := by
  unfold State.putSegs
  rw [State.l2Segs_eq]
  obtain ⟨h, k⟩ := State.memOnly_wrSegs { s with l2 := (s.l2Segs true l).l2 } l b
  exact ⟨State.memOnly_trans (t := { s with l2 := (s.l2Segs true l).l2 }) rfl h, k⟩

/-- A unit's write through translation (R376). -/
theorem State.memOnly_wrVa (s : State) (w : Who) (va : Nat) (b : List Byte) :
    s.memOnly (s.wrVa w va b) ∧ (s.inv = true → (s.wrVa w va b).inv = true) := by
  unfold State.wrVa
  split
  · exact s.memOnly_putSegs _ _
  · exact ⟨s.memOnly_refl, id⟩

end Sys2Proof.Machine
end

