-- ==== Sys2Proof/Laws/Ops.lean ====
section
/-!
SUPPORT. What an attempt of an instruction answers, what taking a trap leaves, and how results in flight land: the lemmas that
say once what the shared operations do.
-/
namespace Sys2Proof.Machine

/-! ### An attempt (R36, R159) -/

/-- Everything an attempt can answer: nothing with no seat issuing, one precise trap, a hold, or the effect. -/
theorem attempt_cases (s : State) (i : Instr) (f : At → Plan) :
    (s.cur = none ∧ attempt s i f = .next { s with last := .idle })
    ∨ ∃ c k, s.cur = some (c, k) ∧
      let p := f ⟨s, c, k⟩
      (s.sure = false ∧ ∃ m, firstCause ((s.seat c k).tier1 i ++ p.causes) = some m ∧ attempt s i f = .next (s.takePrecise c k m))
      ∨ (s.sure = false ∧ firstCause ((s.seat c k).tier1 i ++ p.causes) = none ∧ p.held = true
          ∧ attempt s i f = .next { p.wait with last := .held })
      ∨ ((s.sure = true ∨ firstCause ((s.seat c k).tier1 i ++ p.causes) = none ∧ p.held = false)
          ∧ attempt s i f = .next { p.eff with last := if p.moved then .moved else .issued }) := by
  unfold attempt
  split
  · rename_i h
    exact .inl ⟨h, rfl⟩
  · rename_i c k h
    refine .inr ⟨c, k, h, ?_⟩
    dsimp only
    split
    · rename_i hs
      exact .inr (.inr ⟨.inl hs, rfl⟩)
    · rename_i hs
      have hs : s.sure = false := by simpa using hs
      split
      · rename_i m hm
        exact .inl ⟨hs, m, hm, rfl⟩
      · rename_i hm
        split
        · rename_i hh
          exact .inr (.inl ⟨hs, hm, hh, rfl⟩)
        · rename_i hh
          exact .inr (.inr ⟨.inr ⟨hm, by simpa using hh⟩, rfl⟩)

/-- An attempt always answers a next state. -/
theorem attempt_next (s : State) (i : Instr) (f : At → Plan) : ∃ t, attempt s i f = .next t := by
  obtain ⟨_, h⟩ | ⟨c, k, _, h⟩ := attempt_cases s i f
  · exact ⟨_, h⟩
  · obtain ⟨_, m, _, h⟩ | ⟨_, _, _, h⟩ | ⟨_, h⟩ := h <;> exact ⟨_, h⟩

/-- An attempt without a cause, and not held, takes its effect; so does one whose tests have passed. -/
theorem attempt_effect {s : State} {c : CoreId} {k : SeatId} {i : Instr} {f : At → Plan} (hc : s.cur = some (c, k))
    (h : s.sure = true ∨ (s.seat c k).tier1 i = [] ∧ (f ⟨s, c, k⟩).causes = [] ∧ (f ⟨s, c, k⟩).held = false) :
    attempt s i f = .next { (f ⟨s, c, k⟩).eff with last := if (f ⟨s, c, k⟩).moved then .moved else .issued } := by
  unfold attempt
  rw [hc]
  dsimp only
  rcases h with h | ⟨h1, h2, h3⟩
  · simp [h]
  · split
    · rfl
    · simp [h1, h2, h3, firstCause]

/-- An attempt with one cause, and no other, takes its trap. -/
theorem attempt_trap {s : State} {c : CoreId} {k : SeatId} {i : Instr} {f : At → Plan} {m : PCause} (hc : s.cur = some (c, k))
    (hs : s.sure = false) (h : firstCause ((s.seat c k).tier1 i ++ (f ⟨s, c, k⟩).causes) = some m) :
    attempt s i f = .next (s.takePrecise c k m) := by
  simp [attempt, hc, hs, h]

/-- An attempt without a cause that is held leaves what its hold leaves. -/
theorem attempt_held {s : State} {c : CoreId} {k : SeatId} {i : Instr} {f : At → Plan} (hc : s.cur = some (c, k))
    (hs : s.sure = false) (h1 : (s.seat c k).tier1 i = []) (h2 : (f ⟨s, c, k⟩).causes = []) (h3 : (f ⟨s, c, k⟩).held = true) :
    attempt s i f = .next { (f ⟨s, c, k⟩).wait with last := .held } := by
  simp [attempt, hc, hs, h1, h2, h3, firstCause]

/-- A legal encoding that fits the strand's rectangle, at the level it needs, with its v registers in the window, has no cause that an
attempt finds before its operands (R25, R39, R158, R265). -/
theorem SeatSt.tier1_nil {q : SeatSt} {i : Instr} (wf : i.wf = true) (shape : q.shapeOk i = true)
    (level : supOnly i = true → q.plv = true) (window : ∀ r ∈ vregsOf i, q.winRow r < bW q.billet) : q.tier1 i = [] := by
  have out : ((vregsOf i).map q.winRow).filter (fun r => decide (bW q.billet ≤ r)) = [] := by
    simpa using fun v hv => window v hv
  have priv : (supOnly i && !q.plv) = false := by
    cases h : supOnly i <;> simp [level, h]
  simp [SeatSt.tier1, wf, shape, priv, out]

/-- The cause of highest rank of a list is one of its causes. -/
theorem firstCause_mem {l : List PCause} {m : PCause} (h : firstCause l = some m) : m ∈ l := by
  induction l generalizing m with
  | nil => simp [firstCause] at h
  | cons p r ih =>
    unfold firstCause at h
    cases hr : firstCause r with
    | none =>
      rw [hr] at h
      simp only [Option.some.injEq] at h
      exact h ▸ List.mem_cons_self ..
    | some n =>
      rw [hr] at h
      dsimp only at h
      split at h
      · simp only [Option.some.injEq] at h
        exact List.mem_cons_of_mem _ (h ▸ ih hr)
      · simp only [Option.some.injEq] at h
        exact h ▸ List.mem_cons_self ..

/-- A list without causes has no first one, and no other list is without. -/
theorem firstCause_none {l : List PCause} : firstCause l = none ↔ l = [] := by
  cases l with
  | nil => simp [firstCause]
  | cons p r =>
    simp only [firstCause, reduceCtorEq, iff_false]
    cases firstCause r <;> dsimp only
    · simp
    · split <;> simp

/-! ### Results in flight (R31, R54, R55) -/

/-- With no other result for its register in flight a result is put behind those that are. -/
theorem flyAdd_new {free : Nat} {l : List Fly} {f : Fly} (h : ∀ g ∈ l, g.w.same f.w = false) : flyAdd free l f = l ++ [f] := by
  have : (l.any fun g => g.w.same f.w) = false := by
    rw [List.any_eq_false]
    intro g hg
    simp [h g hg]
  simp [flyAdd, this]

/-- Overflow events that enter a core's queue leave its rows as they are. -/
@[simp] theorem CoreSt.pushEvent_vrf (x : CoreSt) (k : SeatId) (e : Word) : (x.pushEvent k e).vrf = x.vrf := by
  unfold CoreSt.pushEvent; split <;> rfl

/-- A result that lands in an s register. -/
theorem CoreSt.land_s (x : CoreSt) (k : SeatId) (b d : Nat) {n : SReg} (v : Word) (t : Bool) (h : n ≠ 0) :
    ((x.land k ⟨b, d, .s n v t, []⟩).seatAt k).sr.val 0 n.toNat = v := by
  simp only [CoreSt.land, if_neg h, List.foldl_nil, CoreSt.seatAt_setSeat, Tab.val_put_same]

/-- A write to s0 lands nowhere (R17). -/
theorem CoreSt.land_s0 (x : CoreSt) (k : SeatId) (b d : Nat) (v : Word) (t : Bool) : x.land k ⟨b, d, .s 0 v t, []⟩ = x := by
  simp [CoreSt.land]

/-- A result that lands in a row (R111). -/
theorem CoreSt.land_row (x : CoreSt) (k : SeatId) (b d i : Nat) (m v : RowBits) (fl g : BitVec 32) :
    (x.land k ⟨b, d, .row i m v fl g, []⟩).row i = (x.row i).merge m v fl g := by
  simp [CoreSt.land, CoreSt.row]

/-- With nothing in flight nothing lands. -/
theorem CoreSt.landAll_nil (x : CoreSt) (k : SeatId) (h : (x.seatAt k).fly = []) : x.landAll k = x.setSeat k (x.seatAt k) := by
  unfold CoreSt.landAll
  rw [h]
  have : ({ x.seatAt k with fly := [] } : SeatSt) = x.seatAt k := by rw [← h]
  rw [this]
  rfl

/-! ### What a record pushed by a unit leaves (R241, R267, R371) -/

/-- The cores, and what the step itself keeps. -/
def State.inner (s : State) : Tab CoreSt × Nat × Nat × Last × CoreId := (s.cores, s.cyc, s.free, s.last, s.focus)

/-- A record or a message of a unit changes no core, and not the step itself. -/
def State.coresKept (s t : State) : Prop := t.inner = s.inner

theorem State.coresKept_refl (s : State) : s.coresKept s := rfl

theorem State.coresKept_trans {s t u : State} (h : s.coresKept t) (k : t.coresKept u) : s.coresKept u := Eq.trans k h

theorem State.coresKept.cores {s t : State} (h : s.coresKept t) : t.cores = s.cores := congrArg Prod.fst h

theorem State.coresKept_memOnly {s t : State} (h : s.memOnly t) : s.coresKept t := by
  unfold State.memOnly at h
  rw [h]; rfl

theorem State.coresKept_putPages (s : State) (w : Who) (l : List (Nat × Nat)) (o : Nat) (b : List (Byte × Bool)) :
    s.coresKept (s.putPages w l o b).1 := by
  induction l generalizing s o b with
  | nil => exact s.coresKept_refl
  | cons p r ih =>
    unfold State.putPages
    split
    · refine State.coresKept_trans (State.coresKept_trans ?_ (State.coresKept_memOnly (State.memOnly_storeMarked _ _ _).1)) (ih _ _ _)
      rw [State.l2Segs_eq]
      rfl
    · exact ih _ _ _

theorem State.coresKept_ringWrite (s : State) (q : QueueSt) (l : Cls) (n : Nat) (b : List (Byte × Bool)) :
    s.coresKept (s.ringWrite q l n b).1 := s.coresKept_putPages ..

theorem State.coresKept_mirror (s : State) (q : QueueSt) : s.coresKept (s.mirror q) := by
  unfold State.mirror
  split
  · exact s.coresKept_refl
  · exact State.coresKept_memOnly (State.memOnly_wrVa ..).1

theorem State.coresKept_setQueue (s : State) (d : DieId) (n : Nat) (q : QueueSt) : s.coresKept (s.setQueue d n q) := rfl

theorem State.coresKept_moveQueue (s : State) (d : DieId) (n : Nat) (q : QueueSt) : s.coresKept (s.moveQueue d n q) :=
  State.coresKept_trans (s.coresKept_setQueue d n q) (State.coresKept_mirror ..)

theorem State.coresKept_retireAt (s : State) (d : DieId) (n : Nat) (q : QueueSt) : s.coresKept (s.retireAt d n q) := by
  unfold State.retireAt
  split
  · exact s.coresKept_setQueue d n q
  · exact s.coresKept_moveQueue d n _

theorem State.coresKept_modCluster (s : State) (d : DieId) (n : Nat) (f : ClusterSt → ClusterSt) :
    s.coresKept (s.modCluster d n f) := rfl

theorem State.coresKept_modPkg (s : State) (f : PkgSt → PkgSt) : s.coresKept (s.modPkg f) := rfl

theorem State.coresKept_ite {s t u : State} {p : Prop} [Decidable p] (h : s.coresKept t) (k : s.coresKept u) :
    s.coresKept (if p then t else u) := by
  split
  · exact h
  · exact k

theorem State.coresKept_reserve (s : State) (d : DieId) (n : Nat) (q : QueueSt) (o : Nat) (b : List Byte) (p : List Bool)
    (src : PushBy) : s.coresKept (s.reserve d n q o b p src).1 := by
  unfold State.reserve
  dsimp only
  exact State.coresKept_trans (State.coresKept_trans (State.coresKept_ite s.coresKept_refl (State.coresKept_ringWrite ..))
    (State.coresKept_ringWrite ..)) (State.coresKept_moveQueue ..)

theorem State.coresKept_publish (s : State) (d : DieId) (n : Nat) : s.coresKept (s.publish d n) := by
  unfold State.publish
  split
  · exact s.coresKept_refl
  · rename_i q h
    exact s.coresKept_retireAt d n { q with recs := publishAll q.recs }

theorem State.coresKept_pushRec (s : State) (d : DieId) (n : Nat) (b : List Byte) : s.coresKept (s.pushRec d n b).1 := by
  unfold State.pushRec
  split
  · exact s.coresKept_refl
  · split
    · exact State.coresKept_trans (State.coresKept_reserve ..) (State.coresKept_publish ..)
    · exact State.coresKept_setQueue ..

theorem State.coresKept_outbox {s t : State} {d : DieId} {k : Nat} {m : List Byte} (h : s.outbox d k m = some t) :
    s.coresKept t := by
  have put (u : QueueSt) (m : List Byte) : s.coresKept (((s.reserve d (0xFF8 + k) u 0 m [] .unit).1).publish d (0xFF8 + k)) :=
    State.coresKept_trans (State.coresKept_reserve ..) (State.coresKept_publish ..)
  unfold State.outbox at h
  dsimp only at h
  split at h
  · cases h
  · split at h <;> split at h <;> cases h <;> exact put _ _

theorem State.coresKept_drainMsgs (s : State) (d : DieId) (k : Nat) (l : List (List Byte)) :
    s.coresKept (s.drainMsgs d k l).1 := by
  induction l generalizing s with
  | nil => exact s.coresKept_refl
  | cons m r ih =>
    unfold State.drainMsgs
    split
    · rename_i t h
      exact State.coresKept_trans (State.coresKept_outbox h) (ih t)
    · exact s.coresKept_refl

theorem State.coresKept_stewPush (s : State) (d : DieId) (k : Nat) (m : List Byte) : s.coresKept (s.stewPush d k m) := by
  have hd : s.coresKept (s.drain d k) :=
    State.coresKept_trans (State.coresKept_drainMsgs s d k _) (State.coresKept_modCluster ..)
  unfold State.stewPush
  dsimp only
  split
  · rename_i t h
    split at h
    · exact State.coresKept_trans hd (State.coresKept_outbox h)
    · simp at h
  · split
    · exact State.coresKept_trans hd (State.coresKept_modCluster ..)
    · exact State.coresKept_trans hd (State.coresKept_modCluster ..)

theorem State.coresKept_faultRec (s : State) (w : Who) (c : CoreId) (k : SeatId) (u n ty : Nat) (f : XFault) :
    s.coresKept (s.faultRec w c k u n ty f) := by
  unfold State.faultRec
  exact State.coresKept_pushRec _ _ _ _

theorem State.coresKept_refuseLog (s : State) (w : Who) (c : CoreId) (u n pa : Nat) (a : AccKind) :
    s.coresKept (s.refuseLog w c u n pa a) := by
  unfold State.refuseLog State.faultEvent
  exact State.coresKept_trans (State.coresKept_modPkg _ _) (State.coresKept_stewPush _ _ _ _)

/-- The record of a failed translation changes no core (R371, R375). -/
theorem State.coresKept_recordFault (s : State) (w : Who) (c : CoreId) (k : SeatId) (u n : Nat) (f : XFault) :
    s.coresKept (s.recordFault w c k u n f) := by
  unfold State.recordFault
  exact State.coresKept_ite (State.coresKept_trans (State.coresKept_faultRec ..) (State.coresKept_refuseLog ..))
    (State.coresKept_faultRec ..)

/-! ### Taking a trap (R154, R155) -/

/-- Taking back a flush leaves seats and rows as they are. -/
@[simp] theorem CoreSt.unflush_seatAt (x : CoreSt) (k j : SeatId) : (x.unflush k).seatAt j = x.seatAt j := rfl
@[simp] theorem CoreSt.unflush_vrf (x : CoreSt) (k : SeatId) : (x.unflush k).vrf = x.vrf := rfl

/-- Trap entry of a seat with nothing in flight: its trap registers, and no other register of it. -/
theorem CoreSt.trapEntry_seat (x : CoreSt) (k : SeatId) (epc cause tval : Word) (n : Nat) (h : (x.seatAt k).fly = []) :
    (x.trapEntry k epc cause tval n).seatAt k = (x.seatAt k).trapRegs epc cause tval
    ∧ (x.trapEntry k epc cause tval n).vrf = x.vrf ∧ (x.trapEntry k epc cause tval n).swp = true
    ∧ (x.trapEntry k epc cause tval n).busy = n := by
  unfold CoreSt.trapEntry
  rw [CoreSt.landAll_nil x k h]
  refine ⟨?_, rfl, rfl, rfl⟩
  show (CoreSt.setSeat _ k _).seatAt k = _
  simp

/-- A precise cause that is no double trap: the seat after it, with nothing in flight. -/
theorem State.takePrecise_seat (s : State) (c : CoreId) (k : SeatId) (p : PCause) (h : (s.seat c k).act = false)
    (hf : (s.seat c k).fly = []) :
    (s.takePrecise c k p).seat c k =
      (s.seat c k).trapRegs (s.seat c k).pc (mkCause p.code 0 false p.syl (s.seat c k).plv 0) p.tval := by
  have key : ∀ t : State, t.cores = s.cores →
      ((t.modCore c fun x => x.trapEntry k (s.seat c k).pc (mkCause p.code 0 false p.syl (s.seat c k).plv 0) p.tval 5).seat c k)
        = (s.seat c k).trapRegs (s.seat c k).pc (mkCause p.code 0 false p.syl (s.seat c k).plv 0) p.tval := by
    intro t ht
    have hc : t.core c = s.core c := by simp [State.core, ht]
    rw [State.seat, State.core_modCore, hc]
    exact (CoreSt.trapEntry_seat (s.core c) k _ _ _ 5 hf).1
  unfold State.takePrecise
  simp only [h, Bool.false_eq_true, if_false]
  cases hx : p.xf with
  | none => exact key _ rfl
  | some f => exact key _ (State.coresKept_recordFault ..).cores

/-- A precise cause that is no double trap leaves every other core as it was. -/
theorem State.takePrecise_core_ne (s : State) (c : CoreId) (k : SeatId) (p : PCause) (h : (s.seat c k).act = false) {d : CoreId}
    (hd : d ≠ c) : (s.takePrecise c k p).core d = s.core d := by
  unfold State.takePrecise
  simp only [h, Bool.false_eq_true, if_false]
  cases hx : p.xf with
  | none => exact State.core_modCore_ne _ _ hd
  | some f =>
    dsimp only
    rw [State.core_modCore_ne _ _ hd]
    simp only [State.core]
    rw [(State.coresKept_recordFault ..).cores]

/-- A precise cause that is no double trap and records no failed translation leaves memory as it was. -/
theorem State.takePrecise_mem (s : State) (c : CoreId) (k : SeatId) (p : PCause) (h : (s.seat c k).act = false)
    (hx : p.xf = none) : (s.takePrecise c k p).mem = s.mem := by
  unfold State.takePrecise
  simp only [h, hx, Bool.false_eq_true, if_false]
  rfl

/-- The return from a trap gives back what entry saved, where the handler left the trap registers as they were (R91, R156). -/
theorem SeatSt.trapReturn_trapRegs (q : SeatSt) (epc cause tval : Word) :
    (q.trapRegs epc cause tval).trapReturn.pc = epc ∧ (q.trapRegs epc cause tval).trapReturn.lc = q.lc
    ∧ (q.trapRegs epc cause tval).trapReturn.plv = cause.getLsbD 24 := ⟨rfl, rfl, rfl⟩

/-! ### Meanings -/

/-- The machine's step runs the event at the head of the agenda once its step number has come. -/
theorem step_agenda (s : State) (n : Nat) (i : Instr) (r : List (Nat × Instr)) (h : s.agenda = (n, i) :: r) (hn : n ≤ s.free) :
    step s = exec i { s with free := s.free + 1, agenda := r, latch := none, sure := false } := by
  unfold step stepWith
  simp [h, Option.filter, hn]

end Sys2Proof.Machine
end

