-- ==== Sys2Proof/Laws/PerInstr.lean ====
section
/-!
SUPPORT. A family of statements about every instruction as syntax: one lemma for each constructor of `Instr`.
-/
namespace Sys2Proof.Laws.RoundTrip

/-- A well-formed operation that has an encoding is read back from it, with every operand at every value (R34 to R53). -/
def Statement (i : Instr) : Prop := i.wf = true → ∀ y, encode i = some y → decodeSyl y = some i

/-- nop. -/
theorem nop : Statement .nop := by
  intro _ y hy
  cases hy
  rfl

/-- add. -/
theorem add (sd : SReg) (sa : SReg) (sb : SReg) : Statement (.add sd sa sb) := by
  intro hw y hy
  cases hy
  refine decodeSyl_s _ _ 0x01#8 (SR.opc_word _ _) (by decide) ?_ hw rfl
  exact congrArg (fun r : SR => (some (.add r.sd r.sa r.sb) : Option Instr)) (SR.of_word 0x01#8 ⟨sd, sa, sb, 0, 0, 0⟩)

/-- sub. -/
theorem sub (sd : SReg) (sa : SReg) (sb : SReg) : Statement (.sub sd sa sb) := by
  intro hw y hy
  cases hy
  refine decodeSyl_s _ _ 0x02#8 (SR.opc_word _ _) (by decide) ?_ hw rfl
  exact congrArg (fun r : SR => (some (.sub r.sd r.sa r.sb) : Option Instr)) (SR.of_word 0x02#8 ⟨sd, sa, sb, 0, 0, 0⟩)

/-- mul. -/
theorem mul (sd : SReg) (sa : SReg) (sb : SReg) : Statement (.mul sd sa sb) := by
  intro hw y hy
  cases hy
  refine decodeSyl_s _ _ 0x03#8 (SR.opc_word _ _) (by decide) ?_ hw rfl
  exact congrArg (fun r : SR => (some (.mul r.sd r.sa r.sb) : Option Instr)) (SR.of_word 0x03#8 ⟨sd, sa, sb, 0, 0, 0⟩)

/-- mulh. -/
theorem mulh (sd : SReg) (sa : SReg) (sb : SReg) : Statement (.mulh sd sa sb) := by
  intro hw y hy
  cases hy
  refine decodeSyl_s _ _ 0x04#8 (SR.opc_word _ _) (by decide) ?_ hw rfl
  exact congrArg (fun r : SR => (some (.mulh r.sd r.sa r.sb) : Option Instr)) (SR.of_word 0x04#8 ⟨sd, sa, sb, 0, 0, 0⟩)

/-- mulhn. -/
theorem mulhn (sd : SReg) (sa : SReg) (sb : SReg) : Statement (.mulhn sd sa sb) := by
  intro hw y hy
  cases hy
  refine decodeSyl_s _ _ 0x05#8 (SR.opc_word _ _) (by decide) ?_ hw rfl
  exact congrArg (fun r : SR => (some (.mulhn r.sd r.sa r.sb) : Option Instr)) (SR.of_word 0x05#8 ⟨sd, sa, sb, 0, 0, 0⟩)

/-- div. -/
theorem div (sd : SReg) (sa : SReg) (sb : SReg) : Statement (.div sd sa sb) := by
  intro hw y hy
  cases hy
  refine decodeSyl_s _ _ 0x06#8 (SR.opc_word _ _) (by decide) ?_ hw rfl
  exact congrArg (fun r : SR => (some (.div r.sd r.sa r.sb) : Option Instr)) (SR.of_word 0x06#8 ⟨sd, sa, sb, 0, 0, 0⟩)

/-- divn. -/
theorem divn (sd : SReg) (sa : SReg) (sb : SReg) : Statement (.divn sd sa sb) := by
  intro hw y hy
  cases hy
  refine decodeSyl_s _ _ 0x07#8 (SR.opc_word _ _) (by decide) ?_ hw rfl
  exact congrArg (fun r : SR => (some (.divn r.sd r.sa r.sb) : Option Instr)) (SR.of_word 0x07#8 ⟨sd, sa, sb, 0, 0, 0⟩)

/-- rem. -/
theorem rem (sd : SReg) (sa : SReg) (sb : SReg) : Statement (.rem sd sa sb) := by
  intro hw y hy
  cases hy
  refine decodeSyl_s _ _ 0x08#8 (SR.opc_word _ _) (by decide) ?_ hw rfl
  exact congrArg (fun r : SR => (some (.rem r.sd r.sa r.sb) : Option Instr)) (SR.of_word 0x08#8 ⟨sd, sa, sb, 0, 0, 0⟩)

/-- remn. -/
theorem remn (sd : SReg) (sa : SReg) (sb : SReg) : Statement (.remn sd sa sb) := by
  intro hw y hy
  cases hy
  refine decodeSyl_s _ _ 0x09#8 (SR.opc_word _ _) (by decide) ?_ hw rfl
  exact congrArg (fun r : SR => (some (.remn r.sd r.sa r.sb) : Option Instr)) (SR.of_word 0x09#8 ⟨sd, sa, sb, 0, 0, 0⟩)

/-- and. -/
theorem and (sd : SReg) (sa : SReg) (sb : SReg) : Statement (.and sd sa sb) := by
  intro hw y hy
  cases hy
  refine decodeSyl_s _ _ 0x0A#8 (SR.opc_word _ _) (by decide) ?_ hw rfl
  exact congrArg (fun r : SR => (some (.and r.sd r.sa r.sb) : Option Instr)) (SR.of_word 0x0A#8 ⟨sd, sa, sb, 0, 0, 0⟩)

/-- or. -/
theorem or (sd : SReg) (sa : SReg) (sb : SReg) : Statement (.or sd sa sb) := by
  intro hw y hy
  cases hy
  refine decodeSyl_s _ _ 0x0B#8 (SR.opc_word _ _) (by decide) ?_ hw rfl
  exact congrArg (fun r : SR => (some (.or r.sd r.sa r.sb) : Option Instr)) (SR.of_word 0x0B#8 ⟨sd, sa, sb, 0, 0, 0⟩)

/-- xor. -/
theorem xor (sd : SReg) (sa : SReg) (sb : SReg) : Statement (.xor sd sa sb) := by
  intro hw y hy
  cases hy
  refine decodeSyl_s _ _ 0x0C#8 (SR.opc_word _ _) (by decide) ?_ hw rfl
  exact congrArg (fun r : SR => (some (.xor r.sd r.sa r.sb) : Option Instr)) (SR.of_word 0x0C#8 ⟨sd, sa, sb, 0, 0, 0⟩)

/-- andn. -/
theorem andn (sd : SReg) (sa : SReg) (sb : SReg) : Statement (.andn sd sa sb) := by
  intro hw y hy
  cases hy
  refine decodeSyl_s _ _ 0x0D#8 (SR.opc_word _ _) (by decide) ?_ hw rfl
  exact congrArg (fun r : SR => (some (.andn r.sd r.sa r.sb) : Option Instr)) (SR.of_word 0x0D#8 ⟨sd, sa, sb, 0, 0, 0⟩)

/-- shl. -/
theorem shl (sd : SReg) (sa : SReg) (sb : SReg) : Statement (.shl sd sa sb) := by
  intro hw y hy
  cases hy
  refine decodeSyl_s _ _ 0x0E#8 (SR.opc_word _ _) (by decide) ?_ hw rfl
  exact congrArg (fun r : SR => (some (.shl r.sd r.sa r.sb) : Option Instr)) (SR.of_word 0x0E#8 ⟨sd, sa, sb, 0, 0, 0⟩)

/-- shr. -/
theorem shr (sd : SReg) (sa : SReg) (sb : SReg) : Statement (.shr sd sa sb) := by
  intro hw y hy
  cases hy
  refine decodeSyl_s _ _ 0x0F#8 (SR.opc_word _ _) (by decide) ?_ hw rfl
  exact congrArg (fun r : SR => (some (.shr r.sd r.sa r.sb) : Option Instr)) (SR.of_word 0x0F#8 ⟨sd, sa, sb, 0, 0, 0⟩)

/-- sha. -/
theorem sha (sd : SReg) (sa : SReg) (sb : SReg) : Statement (.sha sd sa sb) := by
  intro hw y hy
  cases hy
  refine decodeSyl_s _ _ 0x10#8 (SR.opc_word _ _) (by decide) ?_ hw rfl
  exact congrArg (fun r : SR => (some (.sha r.sd r.sa r.sb) : Option Instr)) (SR.of_word 0x10#8 ⟨sd, sa, sb, 0, 0, 0⟩)

/-- rot. -/
theorem rot (sd : SReg) (sa : SReg) (sb : SReg) : Statement (.rot sd sa sb) := by
  intro hw y hy
  cases hy
  refine decodeSyl_s _ _ 0x11#8 (SR.opc_word _ _) (by decide) ?_ hw rfl
  exact congrArg (fun r : SR => (some (.rot r.sd r.sa r.sb) : Option Instr)) (SR.of_word 0x11#8 ⟨sd, sa, sb, 0, 0, 0⟩)

/-- min. -/
theorem min (sd : SReg) (sa : SReg) (sb : SReg) : Statement (.min sd sa sb) := by
  intro hw y hy
  cases hy
  refine decodeSyl_s _ _ 0x12#8 (SR.opc_word _ _) (by decide) ?_ hw rfl
  exact congrArg (fun r : SR => (some (.min r.sd r.sa r.sb) : Option Instr)) (SR.of_word 0x12#8 ⟨sd, sa, sb, 0, 0, 0⟩)

/-- max. -/
theorem max (sd : SReg) (sa : SReg) (sb : SReg) : Statement (.max sd sa sb) := by
  intro hw y hy
  cases hy
  refine decodeSyl_s _ _ 0x13#8 (SR.opc_word _ _) (by decide) ?_ hw rfl
  exact congrArg (fun r : SR => (some (.max r.sd r.sa r.sb) : Option Instr)) (SR.of_word 0x13#8 ⟨sd, sa, sb, 0, 0, 0⟩)

/-- minn. -/
theorem minn (sd : SReg) (sa : SReg) (sb : SReg) : Statement (.minn sd sa sb) := by
  intro hw y hy
  cases hy
  refine decodeSyl_s _ _ 0x14#8 (SR.opc_word _ _) (by decide) ?_ hw rfl
  exact congrArg (fun r : SR => (some (.minn r.sd r.sa r.sb) : Option Instr)) (SR.of_word 0x14#8 ⟨sd, sa, sb, 0, 0, 0⟩)

/-- maxn. -/
theorem maxn (sd : SReg) (sa : SReg) (sb : SReg) : Statement (.maxn sd sa sb) := by
  intro hw y hy
  cases hy
  refine decodeSyl_s _ _ 0x15#8 (SR.opc_word _ _) (by decide) ?_ hw rfl
  exact congrArg (fun r : SR => (some (.maxn r.sd r.sa r.sb) : Option Instr)) (SR.of_word 0x15#8 ⟨sd, sa, sb, 0, 0, 0⟩)

/-- clz. -/
theorem clz (sd : SReg) (sa : SReg) : Statement (.clz sd sa) := by
  intro hw y hy
  cases hy
  refine decodeSyl_s _ _ 0x16#8 (SR.opc_word _ _) (by decide) ?_ hw rfl
  exact congrArg (fun r : SR => (some (.clz r.sd r.sa) : Option Instr)) (SR.of_word 0x16#8 ⟨sd, sa, 0, 0, 0, 0⟩)

/-- ctz. -/
theorem ctz (sd : SReg) (sa : SReg) : Statement (.ctz sd sa) := by
  intro hw y hy
  cases hy
  refine decodeSyl_s _ _ 0x17#8 (SR.opc_word _ _) (by decide) ?_ hw rfl
  exact congrArg (fun r : SR => (some (.ctz r.sd r.sa) : Option Instr)) (SR.of_word 0x17#8 ⟨sd, sa, 0, 0, 0, 0⟩)

/-- popc. -/
theorem popc (sd : SReg) (sa : SReg) : Statement (.popc sd sa) := by
  intro hw y hy
  cases hy
  refine decodeSyl_s _ _ 0x18#8 (SR.opc_word _ _) (by decide) ?_ hw rfl
  exact congrArg (fun r : SR => (some (.popc r.sd r.sa) : Option Instr)) (SR.of_word 0x18#8 ⟨sd, sa, 0, 0, 0, 0⟩)

/-- seq. -/
theorem seq (sd : SReg) (sa : SReg) (sb : SReg) : Statement (.seq sd sa sb) := by
  intro hw y hy
  cases hy
  refine decodeSyl_s _ _ 0x19#8 (SR.opc_word _ _) (by decide) ?_ hw rfl
  exact congrArg (fun r : SR => (some (.seq r.sd r.sa r.sb) : Option Instr)) (SR.of_word 0x19#8 ⟨sd, sa, sb, 0, 0, 0⟩)

/-- sne. -/
theorem sne (sd : SReg) (sa : SReg) (sb : SReg) : Statement (.sne sd sa sb) := by
  intro hw y hy
  cases hy
  refine decodeSyl_s _ _ 0x1A#8 (SR.opc_word _ _) (by decide) ?_ hw rfl
  exact congrArg (fun r : SR => (some (.sne r.sd r.sa r.sb) : Option Instr)) (SR.of_word 0x1A#8 ⟨sd, sa, sb, 0, 0, 0⟩)

/-- slt. -/
theorem slt (sd : SReg) (sa : SReg) (sb : SReg) : Statement (.slt sd sa sb) := by
  intro hw y hy
  cases hy
  refine decodeSyl_s _ _ 0x1B#8 (SR.opc_word _ _) (by decide) ?_ hw rfl
  exact congrArg (fun r : SR => (some (.slt r.sd r.sa r.sb) : Option Instr)) (SR.of_word 0x1B#8 ⟨sd, sa, sb, 0, 0, 0⟩)

/-- sltn. -/
theorem sltn (sd : SReg) (sa : SReg) (sb : SReg) : Statement (.sltn sd sa sb) := by
  intro hw y hy
  cases hy
  refine decodeSyl_s _ _ 0x1C#8 (SR.opc_word _ _) (by decide) ?_ hw rfl
  exact congrArg (fun r : SR => (some (.sltn r.sd r.sa r.sb) : Option Instr)) (SR.of_word 0x1C#8 ⟨sd, sa, sb, 0, 0, 0⟩)

/-- sel. -/
theorem sel (sd : SReg) (sc : SReg) (sa : SReg) (sb : SReg) : Statement (.sel sd sc sa sb) := by
  intro hw y hy
  cases hy
  refine decodeSyl_s _ _ 0x1D#8 (SR.opc_word _ _) (by decide) ?_ hw rfl
  exact congrArg (fun r : SR => (some (.sel r.sd r.sc r.sa r.sb) : Option Instr)) (SR.of_word 0x1D#8 ⟨sd, sa, sb, sc, 0, 0⟩)

/-- bfx. -/
theorem bfx (sd : SReg) (sa : SReg) (pos : Bits6) (len : Bits6) : Statement (.bfx sd sa pos len) := by
  intro hw y hy
  cases hy
  refine decodeSyl_s _ _ 0x1E#8 (SR.opc_word _ _) (by decide) ?_ hw rfl
  exact congrArg (fun r : SR => (some (.bfx r.sd r.sa r.pos r.len) : Option Instr)) (SR.of_word 0x1E#8 ⟨sd, sa, 0, 0, pos, len⟩)

/-- bfi. -/
theorem bfi (sd : SReg) (sa : SReg) (pos : Bits6) (len : Bits6) : Statement (.bfi sd sa pos len) := by
  intro hw y hy
  cases hy
  refine decodeSyl_s _ _ 0x1F#8 (SR.opc_word _ _) (by decide) ?_ hw rfl
  exact congrArg (fun r : SR => (some (.bfi r.sd r.sa r.pos r.len) : Option Instr)) (SR.of_word 0x1F#8 ⟨sd, sa, 0, 0, pos, len⟩)

/-- addi. -/
theorem addi (sd : SReg) (sa : SReg) (imm : Imm32) : Statement (.addi sd sa imm) := by
  intro hw y hy
  cases hy
  refine decodeSyl_s _ _ 0x20#8 (SI.opc_word _ _) (by decide) ?_ hw rfl
  exact congrArg (fun i : SI => (some (.addi i.sd i.sa i.imm) : Option Instr)) (SI.of_word 0x20#8 ⟨sd, sa, imm⟩)

/-- andi. -/
theorem andi (sd : SReg) (sa : SReg) (imm : Imm32) : Statement (.andi sd sa imm) := by
  intro hw y hy
  cases hy
  refine decodeSyl_s _ _ 0x21#8 (SI.opc_word _ _) (by decide) ?_ hw rfl
  exact congrArg (fun i : SI => (some (.andi i.sd i.sa i.imm) : Option Instr)) (SI.of_word 0x21#8 ⟨sd, sa, imm⟩)

/-- ori. -/
theorem ori (sd : SReg) (sa : SReg) (imm : Imm32) : Statement (.ori sd sa imm) := by
  intro hw y hy
  cases hy
  refine decodeSyl_s _ _ 0x22#8 (SI.opc_word _ _) (by decide) ?_ hw rfl
  exact congrArg (fun i : SI => (some (.ori i.sd i.sa i.imm) : Option Instr)) (SI.of_word 0x22#8 ⟨sd, sa, imm⟩)

/-- xori. -/
theorem xori (sd : SReg) (sa : SReg) (imm : Imm32) : Statement (.xori sd sa imm) := by
  intro hw y hy
  cases hy
  refine decodeSyl_s _ _ 0x23#8 (SI.opc_word _ _) (by decide) ?_ hw rfl
  exact congrArg (fun i : SI => (some (.xori i.sd i.sa i.imm) : Option Instr)) (SI.of_word 0x23#8 ⟨sd, sa, imm⟩)

/-- shli. -/
theorem shli (sd : SReg) (sa : SReg) (amt : Bits6) : Statement (.shli sd sa amt) := by
  intro hw y hy
  cases hy
  refine decodeSyl_s _ _ 0x24#8 (SI.opc_word _ _) (by decide) ?_ hw rfl
  refine (congrArg (fun i : SI => (some (.shli i.sd i.sa (i.imm.setWidth 6)) : Option Instr)) (SI.of_word 0x24#8 ⟨sd, sa, amt.setWidth 32⟩)).trans ?_
  simp (disch := decide) only [setWidth_up_down]

/-- shri. -/
theorem shri (sd : SReg) (sa : SReg) (amt : Bits6) : Statement (.shri sd sa amt) := by
  intro hw y hy
  cases hy
  refine decodeSyl_s _ _ 0x25#8 (SI.opc_word _ _) (by decide) ?_ hw rfl
  refine (congrArg (fun i : SI => (some (.shri i.sd i.sa (i.imm.setWidth 6)) : Option Instr)) (SI.of_word 0x25#8 ⟨sd, sa, amt.setWidth 32⟩)).trans ?_
  simp (disch := decide) only [setWidth_up_down]

/-- shai. -/
theorem shai (sd : SReg) (sa : SReg) (amt : Bits6) : Statement (.shai sd sa amt) := by
  intro hw y hy
  cases hy
  refine decodeSyl_s _ _ 0x26#8 (SI.opc_word _ _) (by decide) ?_ hw rfl
  refine (congrArg (fun i : SI => (some (.shai i.sd i.sa (i.imm.setWidth 6)) : Option Instr)) (SI.of_word 0x26#8 ⟨sd, sa, amt.setWidth 32⟩)).trans ?_
  simp (disch := decide) only [setWidth_up_down]

/-- slti. -/
theorem slti (sd : SReg) (sa : SReg) (imm : Imm32) : Statement (.slti sd sa imm) := by
  intro hw y hy
  cases hy
  refine decodeSyl_s _ _ 0x27#8 (SI.opc_word _ _) (by decide) ?_ hw rfl
  exact congrArg (fun i : SI => (some (.slti i.sd i.sa i.imm) : Option Instr)) (SI.of_word 0x27#8 ⟨sd, sa, imm⟩)

/-- li. -/
theorem li (sd : SReg) (imm : Imm32) : Statement (.li sd imm) := by
  intro hw y hy
  cases hy
  refine decodeSyl_s _ _ 0x28#8 (SI.opc_word _ _) (by decide) ?_ hw rfl
  exact congrArg (fun i : SI => (some (.li i.sd i.imm) : Option Instr)) (SI.of_word 0x28#8 ⟨sd, 0, imm⟩)

/-- lih. -/
theorem lih (sd : SReg) (imm : Imm32) : Statement (.lih sd imm) := by
  intro hw y hy
  cases hy
  refine decodeSyl_s _ _ 0x29#8 (SI.opc_word _ _) (by decide) ?_ hw rfl
  exact congrArg (fun i : SI => (some (.lih i.sd i.imm) : Option Instr)) (SI.of_word 0x29#8 ⟨sd, 0, imm⟩)

/-- br. -/
theorem br (off : Imm32) : Statement (.br off) := by
  intro hw y hy
  cases hy
  refine decodeSyl_s _ _ 0x30#8 (SB.opc_word _ _) (by decide) ?_ hw rfl
  exact congrArg (fun b : SB => (some (.br b.off) : Option Instr)) (SB.of_word 0x30#8 ⟨0, 0, off⟩)

/-- beq. -/
theorem beq (sa : SReg) (sb : SReg) (off : Imm32) : Statement (.beq sa sb off) := by
  intro hw y hy
  cases hy
  refine decodeSyl_s _ _ 0x31#8 (SB.opc_word _ _) (by decide) ?_ hw rfl
  exact congrArg (fun b : SB => (some (.beq b.sa b.sb b.off) : Option Instr)) (SB.of_word 0x31#8 ⟨sa, sb, off⟩)

/-- bne. -/
theorem bne (sa : SReg) (sb : SReg) (off : Imm32) : Statement (.bne sa sb off) := by
  intro hw y hy
  cases hy
  refine decodeSyl_s _ _ 0x32#8 (SB.opc_word _ _) (by decide) ?_ hw rfl
  exact congrArg (fun b : SB => (some (.bne b.sa b.sb b.off) : Option Instr)) (SB.of_word 0x32#8 ⟨sa, sb, off⟩)

/-- blt. -/
theorem blt (sa : SReg) (sb : SReg) (off : Imm32) : Statement (.blt sa sb off) := by
  intro hw y hy
  cases hy
  refine decodeSyl_s _ _ 0x33#8 (SB.opc_word _ _) (by decide) ?_ hw rfl
  exact congrArg (fun b : SB => (some (.blt b.sa b.sb b.off) : Option Instr)) (SB.of_word 0x33#8 ⟨sa, sb, off⟩)

/-- bge. -/
theorem bge (sa : SReg) (sb : SReg) (off : Imm32) : Statement (.bge sa sb off) := by
  intro hw y hy
  cases hy
  refine decodeSyl_s _ _ 0x34#8 (SB.opc_word _ _) (by decide) ?_ hw rfl
  exact congrArg (fun b : SB => (some (.bge b.sa b.sb b.off) : Option Instr)) (SB.of_word 0x34#8 ⟨sa, sb, off⟩)

/-- bltn. -/
theorem bltn (sa : SReg) (sb : SReg) (off : Imm32) : Statement (.bltn sa sb off) := by
  intro hw y hy
  cases hy
  refine decodeSyl_s _ _ 0x35#8 (SB.opc_word _ _) (by decide) ?_ hw rfl
  exact congrArg (fun b : SB => (some (.bltn b.sa b.sb b.off) : Option Instr)) (SB.of_word 0x35#8 ⟨sa, sb, off⟩)

/-- bgen. -/
theorem bgen (sa : SReg) (sb : SReg) (off : Imm32) : Statement (.bgen sa sb off) := by
  intro hw y hy
  cases hy
  refine decodeSyl_s _ _ 0x36#8 (SB.opc_word _ _) (by decide) ?_ hw rfl
  exact congrArg (fun b : SB => (some (.bgen b.sa b.sb b.off) : Option Instr)) (SB.of_word 0x36#8 ⟨sa, sb, off⟩)

/-- jal. -/
theorem jal (sd : SReg) (off : Imm32) : Statement (.jal sd off) := by
  intro hw y hy
  cases hy
  refine decodeSyl_s _ _ 0x37#8 (SB.opc_word _ _) (by decide) ?_ hw rfl
  exact congrArg (fun b : SB => (some (.jal b.sa b.off) : Option Instr)) (SB.of_word 0x37#8 ⟨sd, 0, off⟩)

/-- jalr. -/
theorem jalr (sd : SReg) (sa : SReg) (imm : Imm32) : Statement (.jalr sd sa imm) := by
  intro hw y hy
  cases hy
  refine decodeSyl_s _ _ 0x38#8 (SI.opc_word _ _) (by decide) ?_ hw rfl
  exact congrArg (fun i : SI => (some (.jalr i.sd i.sa i.imm) : Option Instr)) (SI.of_word 0x38#8 ⟨sd, sa, imm⟩)

/-- loopImm. -/
theorem loopImm (n : Bits20) (d : Bits20) : Statement (.loopImm n d) := by
  intro hw y hy
  cases hy
  refine decodeSyl_s _ _ 0x39#8 (SL.opc_word _ _) (by decide) ?_ hw rfl
  refine (congrArg (fun l : SL => (some (if l.imm then .loopImm l.cnt l.dist else .loopReg l.sa l.dist) : Option Instr)) (SL.of_word 0x39#8 ⟨true, 0, n, d⟩)).trans ?_
  simp (disch := decide) only []
  rfl

/-- loopReg. -/
theorem loopReg (sa : SReg) (d : Bits20) : Statement (.loopReg sa d) := by
  intro hw y hy
  cases hy
  refine decodeSyl_s _ _ 0x39#8 (SL.opc_word _ _) (by decide) ?_ hw rfl
  refine (congrArg (fun l : SL => (some (if l.imm then .loopImm l.cnt l.dist else .loopReg l.sa l.dist) : Option Instr)) (SL.of_word 0x39#8 ⟨false, sa, 0, d⟩)).trans ?_
  simp (disch := decide) only []
  rfl

/-- lclose. -/
theorem lclose (vs : Bits6) (ps : Bits3) : Statement (.lclose vs ps) := by
  intro hw y hy
  cases hy
  refine decodeSyl_s _ _ 0x3A#8 (SC.opc_word _ _) (by decide) ?_ hw rfl
  refine (congrArg (fun c : SC => (some (if c.imm.getLsbD 9 then .lcloseX (c.imm.extractLsb' 0 6) (c.imm.extractLsb' 6 3) else .lclose (c.imm.extractLsb' 0 6) (c.imm.extractLsb' 6 3)) : Option Instr)) (SC.of_word 0x3A#8 ⟨0, 0, 0, 0#16 ++ 0#1 ++ ps ++ vs⟩)).trans ?_
  simp (disch := decide) only [extract_append_low, extract_append_high, extract_full, getLsbD_append_low, getLsbD_append_high, Nat.reduceSub]
  rfl

/-- lcloseX. -/
theorem lcloseX (vs : Bits6) (ps : Bits3) : Statement (.lcloseX vs ps) := by
  intro hw y hy
  cases hy
  refine decodeSyl_s _ _ 0x3A#8 (SC.opc_word _ _) (by decide) ?_ hw rfl
  refine (congrArg (fun c : SC => (some (if c.imm.getLsbD 9 then .lcloseX (c.imm.extractLsb' 0 6) (c.imm.extractLsb' 6 3) else .lclose (c.imm.extractLsb' 0 6) (c.imm.extractLsb' 6 3)) : Option Instr)) (SC.of_word 0x3A#8 ⟨0, 0, 0, 0#16 ++ 1#1 ++ ps ++ vs⟩)).trans ?_
  simp (disch := decide) only [extract_append_low, extract_append_high, extract_full, getLsbD_append_low, getLsbD_append_high, Nat.reduceSub]
  rfl

/-- bpany. -/
theorem bpany (pn : PReg) (lt : Bits2) (off : Imm32) : Statement (.bpany pn lt off) := by
  intro hw y hy
  cases hy
  refine decodeSyl_s _ _ 0x3B#8 (SP.opc_word _ _) (by decide) ?_ hw rfl
  exact congrArg (fun p : SP => (some (.bpany p.pn p.lt p.off) : Option Instr)) (SP.of_word 0x3B#8 ⟨pn, lt, off⟩)

/-- bpall. -/
theorem bpall (pn : PReg) (lt : Bits2) (off : Imm32) : Statement (.bpall pn lt off) := by
  intro hw y hy
  cases hy
  refine decodeSyl_s _ _ 0x3C#8 (SP.opc_word _ _) (by decide) ?_ hw rfl
  exact congrArg (fun p : SP => (some (.bpall p.pn p.lt p.off) : Option Instr)) (SP.of_word 0x3C#8 ⟨pn, lt, off⟩)

/-- bqs. -/
theorem bqs (sa : SReg) (sb : SReg) (off : Imm32) : Statement (.bqs sa sb off) := by
  intro hw y hy
  cases hy
  refine decodeSyl_s _ _ 0x3D#8 (SB.opc_word _ _) (by decide) ?_ hw rfl
  exact congrArg (fun b : SB => (some (.bqs b.sa b.sb b.off) : Option Instr)) (SB.of_word 0x3D#8 ⟨sa, sb, off⟩)

/-- trap. -/
theorem trap (code : Bits26) : Statement (.trap code) := by
  intro hw y hy
  cases hy
  refine decodeSyl_s _ _ 0x40#8 (SC.opc_word _ _) (by decide) ?_ hw rfl
  exact congrArg (fun c : SC => (some (.trap c.imm) : Option Instr)) (SC.of_word 0x40#8 ⟨0, 0, 0, code⟩)

/-- eret. -/
theorem eret : Statement (.eret) := by
  intro hw y hy
  cases hy
  refine decodeSyl_s _ _ 0x41#8 (SC.opc_word _ _) (by decide) ?_ hw rfl
  exact congrArg (fun c : SC => (some .eret : Option Instr)) (SC.of_word 0x41#8 ⟨0, 0, 0, 0⟩)

/-- crr. -/
theorem crr (sd : SReg) (cr : Bits12) : Statement (.crr sd cr) := by
  intro hw y hy
  cases hy
  refine decodeSyl_s _ _ 0x42#8 (SC.opc_word _ _) (by decide) ?_ hw rfl
  exact congrArg (fun c : SC => (some (.crr c.sd c.cr) : Option Instr)) (SC.of_word 0x42#8 ⟨sd, 0, cr, 0⟩)

/-- crwReg. -/
theorem crwReg (cr : Bits12) (sa : SReg) : Statement (.crwReg cr sa) := by
  intro hw y hy
  cases hy
  refine decodeSyl_s _ _ 0x43#8 (SC.opc_word _ _) (by decide) ?_ hw rfl
  have hn : sa ≠ 0 := by
    simp [Instr.wf] at hw
    simp [hw]
  refine (congrArg (fun c : SC => (some (if c.sa = 0 then .crwImm c.cr c.imm else .crwReg c.cr c.sa) : Option Instr)) (SC.of_word 0x43#8 ⟨0, sa, cr, 0⟩)).trans ?_
  simp (disch := decide) only [if_neg hn]

/-- crwImm. -/
theorem crwImm (cr : Bits12) (imm : Bits26) : Statement (.crwImm cr imm) := by
  intro hw y hy
  cases hy
  refine decodeSyl_s _ _ 0x43#8 (SC.opc_word _ _) (by decide) ?_ hw rfl
  refine (congrArg (fun c : SC => (some (if c.sa = 0 then .crwImm c.cr c.imm else .crwReg c.cr c.sa) : Option Instr)) (SC.of_word 0x43#8 ⟨0, 0, cr, imm⟩)).trans ?_
  simp (disch := decide) only []
  rfl

/-- ends. -/
theorem ends : Statement (.ends) := by
  intro hw y hy
  cases hy
  refine decodeSyl_s _ _ 0x3E#8 (SC.opc_word _ _) (by decide) ?_ hw rfl
  exact congrArg (fun c : SC => (some .ends : Option Instr)) (SC.of_word 0x3E#8 ⟨0, 0, 0, 0⟩)

/-- stepImm. -/
theorem stepImm (n : Bits26) : Statement (.stepImm n) := by
  intro hw y hy
  cases hy
  refine decodeSyl_s _ _ 0x45#8 (SC.opc_word _ _) (by decide) ?_ hw rfl
  refine (congrArg (fun c : SC => (some (if c.sa = 0 then .stepImm c.imm else .stepReg c.sa) : Option Instr)) (SC.of_word 0x45#8 ⟨0, 0, 0, n⟩)).trans ?_
  simp (disch := decide) only []
  rfl

/-- stepReg. -/
theorem stepReg (sa : SReg) : Statement (.stepReg sa) := by
  intro hw y hy
  cases hy
  refine decodeSyl_s _ _ 0x45#8 (SC.opc_word _ _) (by decide) ?_ hw rfl
  have hn : sa ≠ 0 := by
    simp [Instr.wf] at hw
    simp [hw]
  refine (congrArg (fun c : SC => (some (if c.sa = 0 then .stepImm c.imm else .stepReg c.sa) : Option Instr)) (SC.of_word 0x45#8 ⟨0, sa, 0, 0⟩)).trans ?_
  simp (disch := decide) only [if_neg hn]

/-- trig. -/
theorem trig : Statement (.trig) := by
  intro hw y hy
  cases hy
  refine decodeSyl_s _ _ 0x46#8 (SC.opc_word _ _) (by decide) ?_ hw rfl
  exact congrArg (fun c : SC => (some .trig : Option Instr)) (SC.of_word 0x46#8 ⟨0, 0, 0, 0⟩)

/-- fence. -/
theorem fence (scp : Scope) : Statement (.fence scp) := by
  intro hw y hy
  cases hy
  refine decodeSyl_s _ _ 0x44#8 (SC.opc_word _ _) (by decide) ?_ hw rfl
  refine (congrArg (fun c : SC => ((Scope.ofCode (c.imm.extractLsb' 0 3)).bind fun scp => match (c.imm.extractLsb' 3 2).toNat with | 1 => some (.fenceR scp) | 2 => some (.fenceW scp) | 3 => some (.fence scp) | _ => none : Option Instr)) (SC.of_word 0x44#8 ⟨0, 0, 0, 0#21 ++ 3#2 ++ scp.code⟩)).trans ?_
  simp (disch := decide) only [Option.bind_some, extract_append_low, extract_append_high, extract_full, Nat.reduceSub, Scope.ofCode_code]
  rfl

/-- fenceR. -/
theorem fenceR (scp : Scope) : Statement (.fenceR scp) := by
  intro hw y hy
  cases hy
  refine decodeSyl_s _ _ 0x44#8 (SC.opc_word _ _) (by decide) ?_ hw rfl
  refine (congrArg (fun c : SC => ((Scope.ofCode (c.imm.extractLsb' 0 3)).bind fun scp => match (c.imm.extractLsb' 3 2).toNat with | 1 => some (.fenceR scp) | 2 => some (.fenceW scp) | 3 => some (.fence scp) | _ => none : Option Instr)) (SC.of_word 0x44#8 ⟨0, 0, 0, 0#21 ++ 1#2 ++ scp.code⟩)).trans ?_
  simp (disch := decide) only [Option.bind_some, extract_append_low, extract_append_high, extract_full, Nat.reduceSub, Scope.ofCode_code]
  rfl

/-- fenceW. -/
theorem fenceW (scp : Scope) : Statement (.fenceW scp) := by
  intro hw y hy
  cases hy
  refine decodeSyl_s _ _ 0x44#8 (SC.opc_word _ _) (by decide) ?_ hw rfl
  refine (congrArg (fun c : SC => ((Scope.ofCode (c.imm.extractLsb' 0 3)).bind fun scp => match (c.imm.extractLsb' 3 2).toNat with | 1 => some (.fenceR scp) | 2 => some (.fenceW scp) | 3 => some (.fence scp) | _ => none : Option Instr)) (SC.of_word 0x44#8 ⟨0, 0, 0, 0#21 ++ 2#2 ++ scp.code⟩)).trans ?_
  simp (disch := decide) only [Option.bind_some, extract_append_low, extract_append_high, extract_full, Nat.reduceSub, Scope.ofCode_code]
  rfl

/-- chkS. -/
theorem chkS (sa : SReg) : Statement (.chkS sa) := by
  intro hw y hy
  cases hy
  refine decodeSyl_s _ _ 0x47#8 (SC.opc_word _ _) (by decide) ?_ hw rfl
  refine (congrArg (fun c : SC => (match (c.imm.extractLsb' 24 2).toNat with | 0 => some (.chkS c.sa) | 1 => some (.chkA (c.sa.setWidth 4)) | 2 => some (.chkV (c.imm.setWidth 7)) | _ => none : Option Instr)) (SC.of_word 0x47#8 ⟨0, sa, 0, 0⟩)).trans ?_
  simp (disch := decide) only []
  rfl

/-- chkA. -/
theorem chkA (aa : AReg) : Statement (.chkA aa) := by
  intro hw y hy
  cases hy
  refine decodeSyl_s _ _ 0x47#8 (SC.opc_word _ _) (by decide) ?_ hw rfl
  refine (congrArg (fun c : SC => (match (c.imm.extractLsb' 24 2).toNat with | 0 => some (.chkS c.sa) | 1 => some (.chkA (c.sa.setWidth 4)) | 2 => some (.chkV (c.imm.setWidth 7)) | _ => none : Option Instr)) (SC.of_word 0x47#8 ⟨0, 0#1 ++ aa, 0, 1#2 ++ 0#24⟩)).trans ?_
  simp (disch := decide) only [extract_append_high, extract_full, setWidth_append_low, Nat.reduceSub]
  rfl

/-- chkV. -/
theorem chkV (v : VReg) : Statement (.chkV v) := by
  intro hw y hy
  cases hy
  refine decodeSyl_s _ _ 0x47#8 (SC.opc_word _ _) (by decide) ?_ hw rfl
  refine (congrArg (fun c : SC => (match (c.imm.extractLsb' 24 2).toNat with | 0 => some (.chkS c.sa) | 1 => some (.chkA (c.sa.setWidth 4)) | 2 => some (.chkV (c.imm.setWidth 7)) | _ => none : Option Instr)) (SC.of_word 0x47#8 ⟨0, 0, 0, 2#2 ++ 0#17 ++ v⟩)).trans ?_
  simp (disch := decide) only [extract_append_high, extract_full, setWidth_append_low, Nat.reduceSub]
  rfl

/-- aadd. -/
theorem aadd (ad : AReg) (aa : AReg) (sb : SReg) : Statement (.aadd ad aa sb) := by
  intro hw y hy
  cases hy
  refine decodeSyl_a _ _ 0x01#8 (AR.opc_word _ _) (by decide) ?_ hw rfl
  exact congrArg (fun r : AR => (some (.aadd r.ad r.aa r.sb) : Option Instr)) (AR.of_word 0x01#8 ⟨ad, aa, sb, 0, 0⟩)

/-- aaddi. -/
theorem aaddi (ad : AReg) (aa : AReg) (imm : Imm32) : Statement (.aaddi ad aa imm) := by
  intro hw y hy
  cases hy
  refine decodeSyl_a _ _ 0x02#8 (AR.opc_word _ _) (by decide) ?_ hw rfl
  exact congrArg (fun r : AR => (some (.aaddi r.ad r.aa r.imm) : Option Instr)) (AR.of_word 0x02#8 ⟨ad, aa, 0, 0, imm⟩)

/-- amov. -/
theorem amov (ad : AReg) (sb : SReg) : Statement (.amov ad sb) := by
  intro hw y hy
  cases hy
  refine decodeSyl_a _ _ 0x03#8 (AR.opc_word _ _) (by decide) ?_ hw rfl
  exact congrArg (fun r : AR => (some (.amov r.ad r.sb) : Option Instr)) (AR.of_word 0x03#8 ⟨ad, 0, sb, 0, 0⟩)

/-- agetA. -/
theorem agetA (sb : SReg) (aa : AReg) : Statement (.agetA sb aa) := by
  intro hw y hy
  cases hy
  refine decodeSyl_a _ _ 0x04#8 (AR.opc_word _ _) (by decide) ?_ hw rfl
  refine (congrArg (fun r : AR => (some (if r.imm = 0 then .agetA r.sb r.aa else .agetM r.sb r.md) : Option Instr)) (AR.of_word 0x04#8 ⟨0, aa, sb, 0, 0⟩)).trans ?_
  simp (disch := decide) only []
  rfl

/-- agetM. -/
theorem agetM (sb : SReg) (md : MReg) : Statement (.agetM sb md) := by
  intro hw y hy
  cases hy
  refine decodeSyl_a _ _ 0x04#8 (AR.opc_word _ _) (by decide) ?_ hw rfl
  refine (congrArg (fun r : AR => (some (if r.imm = 0 then .agetA r.sb r.aa else .agetM r.sb r.md) : Option Instr)) (AR.of_word 0x04#8 ⟨0, 0, sb, md, 1⟩)).trans ?_
  simp (disch := decide) only []
  rfl

/-- amods. -/
theorem amods (md : MReg) (sb : SReg) : Statement (.amods md sb) := by
  intro hw y hy
  cases hy
  refine decodeSyl_a _ _ 0x05#8 (AR.opc_word _ _) (by decide) ?_ hw rfl
  exact congrArg (fun r : AR => (some (.amods r.md r.sb) : Option Instr)) (AR.of_word 0x05#8 ⟨0, 0, sb, md, 0⟩)

/-- ld. -/
theorem ld (rt : SReg) (mem : AMem) (sz : Bits2) (sx : Bool) (wt : SemR) : Statement (.ld rt mem sz sx wt) := by
  intro hw y hy
  cases hy
  refine decodeSyl_a _ _ 0x10#8 (AM.opc_word _ _) (by decide) ?_ hw rfl
  refine (congrArg (fun m : AM => (some (.ld m.rt m.mem m.sz m.sx m.wt) : Option Instr)) (AM.of_word 0x10#8 ⟨rt, mem.ab, mem.mm, mem.pi, sz, sx, 0, wt, mem.ofs⟩)).trans ?_
  simp (disch := decide) only [AM.mem_of]

/-- lds. -/
theorem lds (rt : SReg) (mem : AMem) (sz : Bits2) (sx : Bool) (wt : SemR) : Statement (.lds rt mem sz sx wt) := by
  intro hw y hy
  cases hy
  refine decodeSyl_a _ _ 0x11#8 (AM.opc_word _ _) (by decide) ?_ hw rfl
  refine (congrArg (fun m : AM => (some (.lds m.rt m.mem m.sz m.sx m.wt) : Option Instr)) (AM.of_word 0x11#8 ⟨rt, mem.ab, mem.mm, mem.pi, sz, sx, 0, wt, mem.ofs⟩)).trans ?_
  simp (disch := decide) only [AM.mem_of]

/-- st. -/
theorem st (rt : SReg) (mem : AMem) (sz : Bits2) (wt : SemR) : Statement (.st rt mem sz wt) := by
  intro hw y hy
  cases hy
  refine decodeSyl_a _ _ 0x12#8 (AM.opc_word _ _) (by decide) ?_ hw rfl
  refine (congrArg (fun m : AM => (some (.st m.rt m.mem m.sz m.wt) : Option Instr)) (AM.of_word 0x12#8 ⟨rt, mem.ab, mem.mm, mem.pi, sz, false, 0, wt, mem.ofs⟩)).trans ?_
  simp (disch := decide) only [AM.mem_of]

/-- lda. -/
theorem lda (rt : SReg) (mem : AMem) (sz : Bits2) (sx : Bool) (scp : Scope) (wt : SemR) : Statement (.lda rt mem sz sx scp wt) := by
  intro hw y hy
  cases hy
  refine decodeSyl_a _ _ 0x13#8 (AM.opc_word _ _) (by decide) ?_ hw rfl
  refine (congrArg (fun m : AM => ((Scope.ofCode m.scp).map fun scp => .lda m.rt m.mem m.sz m.sx scp m.wt : Option Instr)) (AM.of_word 0x13#8 ⟨rt, mem.ab, mem.mm, mem.pi, sz, sx, scp.code, wt, mem.ofs⟩)).trans ?_
  simp (disch := decide) only [Option.map_some, Scope.ofCode_code, AM.mem_of]

/-- stl. -/
theorem stl (rt : SReg) (mem : AMem) (sz : Bits2) (scp : Scope) (wt : SemR) : Statement (.stl rt mem sz scp wt) := by
  intro hw y hy
  cases hy
  refine decodeSyl_a _ _ 0x14#8 (AM.opc_word _ _) (by decide) ?_ hw rfl
  refine (congrArg (fun m : AM => ((Scope.ofCode m.scp).map fun scp => .stl m.rt m.mem m.sz scp m.wt : Option Instr)) (AM.of_word 0x14#8 ⟨rt, mem.ab, mem.mm, mem.pi, sz, false, scp.code, wt, mem.ofs⟩)).trans ?_
  simp (disch := decide) only [Option.map_some, Scope.ofCode_code, AM.mem_of]

/-- pref. -/
theorem pref (l2 : Bool) (mem : AMem) : Statement (.pref l2 mem) := by
  intro hw y hy
  cases hy
  refine decodeSyl_a _ _ 0x15#8 (AM.opc_word _ _) (by decide) ?_ hw rfl
  refine (congrArg (fun m : AM => (some (.pref (m.rt.getLsbD 0) m.mem) : Option Instr)) (AM.of_word 0x15#8 ⟨(0#4 ++ bit1 l2), mem.ab, mem.mm, mem.pi, 0, false, 0, 0, mem.ofs⟩)).trans ?_
  simp (disch := decide) only [getLsbD_append_low, bit1_getLsbD, AM.mem_of]

/-- vld. -/
theorem vld (vt : VReg) (mem : VMem) (g : Guard) (ty : Ty) (wt : SemR) : Statement (.vld vt mem g ty wt) := by
  intro hw y hy
  cases hy
  refine decodeSyl_a _ _ 0x20#8 (AV.opc_word _ _) (by decide) ?_ hw rfl
  refine (congrArg (fun v : AV => ((Ty.ofCode v.ty).map fun ty => .vld v.vt v.mem ⟨v.g, v.gn⟩ ty v.wt : Option Instr)) (AV.of_word 0x20#8 ⟨vt, mem.ab, mem.mm, mem.pi, g.p, g.neg, ty.code, 0, wt, mem.ofs⟩)).trans ?_
  simp (disch := decide) only [Option.map_some, Ty.ofCode_code, AV.mem_of]

/-- vlds. -/
theorem vlds (vt : VReg) (mem : VMem) (g : Guard) (ty : Ty) (wt : SemR) : Statement (.vlds vt mem g ty wt) := by
  intro hw y hy
  cases hy
  refine decodeSyl_a _ _ 0x21#8 (AV.opc_word _ _) (by decide) ?_ hw rfl
  refine (congrArg (fun v : AV => ((Ty.ofCode v.ty).map fun ty => .vlds v.vt v.mem ⟨v.g, v.gn⟩ ty v.wt : Option Instr)) (AV.of_word 0x21#8 ⟨vt, mem.ab, mem.mm, mem.pi, g.p, g.neg, ty.code, 0, wt, mem.ofs⟩)).trans ?_
  simp (disch := decide) only [Option.map_some, Ty.ofCode_code, AV.mem_of]

/-- vst. -/
theorem vst (vt : VReg) (mem : VMem) (g : Guard) (ty : Ty) (wt : SemR) : Statement (.vst vt mem g ty wt) := by
  intro hw y hy
  cases hy
  refine decodeSyl_a _ _ 0x22#8 (AV.opc_word _ _) (by decide) ?_ hw rfl
  refine (congrArg (fun v : AV => ((Ty.ofCode v.ty).map fun ty => .vst v.vt v.mem ⟨v.g, v.gn⟩ ty v.wt : Option Instr)) (AV.of_word 0x22#8 ⟨vt, mem.ab, mem.mm, mem.pi, g.p, g.neg, ty.code, 0, wt, mem.ofs⟩)).trans ?_
  simp (disch := decide) only [Option.map_some, Ty.ofCode_code, AV.mem_of]

/-- vgth. -/
theorem vgth (vt : VReg) (mem : VMem) (vi : VReg) (g : Guard) (ty : Ty) (wt : SemR) : Statement (.vgth vt mem vi g ty wt) := by
  intro hw y hy
  cases hy
  refine decodeSyl_a _ _ 0x23#8 (AV.opc_word _ _) (by decide) ?_ hw rfl
  refine (congrArg (fun v : AV => ((Ty.ofCode v.ty).map fun ty => .vgth v.vt v.mem v.vi ⟨v.g, v.gn⟩ ty v.wt : Option Instr)) (AV.of_word 0x23#8 ⟨vt, mem.ab, mem.mm, mem.pi, g.p, g.neg, ty.code, vi, wt, mem.ofs⟩)).trans ?_
  simp (disch := decide) only [Option.map_some, Ty.ofCode_code, AV.mem_of]

/-- vsct. -/
theorem vsct (vt : VReg) (mem : VMem) (vi : VReg) (g : Guard) (ty : Ty) (wt : SemR) : Statement (.vsct vt mem vi g ty wt) := by
  intro hw y hy
  cases hy
  refine decodeSyl_a _ _ 0x24#8 (AV.opc_word _ _) (by decide) ?_ hw rfl
  refine (congrArg (fun v : AV => ((Ty.ofCode v.ty).map fun ty => .vsct v.vt v.mem v.vi ⟨v.g, v.gn⟩ ty v.wt : Option Instr)) (AV.of_word 0x24#8 ⟨vt, mem.ab, mem.mm, mem.pi, g.p, g.neg, ty.code, vi, wt, mem.ofs⟩)).trans ?_
  simp (disch := decide) only [Option.map_some, Ty.ofCode_code, AV.mem_of]

/-- vfetch. -/
theorem vfetch (pq : PqReg) (vs : VReg) : Statement (.vfetch pq vs) := by
  intro hw y hy
  cases hy
  refine decodeSyl_a _ _ 0x25#8 (AQ.opc_word _ _) (by decide) ?_ hw rfl
  exact congrArg (fun q : AQ => (some (.vfetch q.pq q.vs) : Option Instr)) (AQ.of_word 0x25#8 ⟨vs, pq⟩)

/-- vtld. -/
theorem vtld (vt : VReg) (slot : Slot) (tr : Bits4) (g : Guard) (ty : Ty) : Statement (.vtld vt slot tr g ty) := by
  intro hw y hy
  cases hy
  refine decodeSyl_a _ _ 0x26#8 (AT.opc_word _ _) (by decide) ?_ hw rfl
  refine (congrArg (fun t : AT => ((Ty.ofCode t.ty).map fun ty => .vtld t.vt t.ts t.tr ⟨t.g, t.gn⟩ ty : Option Instr)) (AT.of_word 0x26#8 ⟨vt, slot, tr, g.p, g.neg, ty.code⟩)).trans ?_
  simp (disch := decide) only [Option.map_some, Ty.ofCode_code]

/-- vtst. -/
theorem vtst (vt : VReg) (slot : Slot) (tr : Bits4) (g : Guard) (ty : Ty) : Statement (.vtst vt slot tr g ty) := by
  intro hw y hy
  cases hy
  refine decodeSyl_a _ _ 0x27#8 (AT.opc_word _ _) (by decide) ?_ hw rfl
  refine (congrArg (fun t : AT => ((Ty.ofCode t.ty).map fun ty => .vtst t.vt t.ts t.tr ⟨t.g, t.gn⟩ ty : Option Instr)) (AT.of_word 0x27#8 ⟨vt, slot, tr, g.p, g.neg, ty.code⟩)).trans ?_
  simp (disch := decide) only [Option.map_some, Ty.ofCode_code]

/-- amo. -/
theorem amo (rt : SReg) (ab : AReg) (sb : SReg) (op : Aop) (w64 : Bool) (scp : Scope) (ord : Bits2) (wt : SemR) : Statement (.amo rt ab sb op w64 scp ord wt) := by
  intro hw y hy
  cases hy
  refine decodeSyl_a _ _ 0x30#8 (AA.opc_word _ _) (by decide) ?_ hw rfl
  have hz : ((if w64 = true then 3 else 2 : Bits2) == 3) = w64 := by cases w64 <;> rfl
  refine (congrArg (fun o : AA => ((Aop.ofCode o.aop).bind fun aop => (Scope.ofCode o.scp).map fun scp => .amo o.rt o.ab o.sb aop (o.sz == 3) scp o.ord o.wt : Option Instr)) (AA.of_word 0x30#8 ⟨rt, ab, sb, op.code, (if w64 then 3 else 2), scp.code, ord, wt⟩)).trans ?_
  simp (disch := decide) only [Option.map_some, Option.bind_some, Scope.ofCode_code, Aop.ofCode_code, hz]

/-- amocas. -/
theorem amocas (rt : SReg) (ab : AReg) (sb : SReg) (w64 : Bool) (scp : Scope) (ord : Bits2) (wt : SemR) : Statement (.amocas rt ab sb w64 scp ord wt) := by
  intro hw y hy
  cases hy
  refine decodeSyl_a _ _ 0x31#8 (AA.opc_word _ _) (by decide) ?_ hw rfl
  have hz : ((if w64 = true then 3 else 2 : Bits2) == 3) = w64 := by cases w64 <;> rfl
  refine (congrArg (fun o : AA => ((Scope.ofCode o.scp).map fun scp => .amocas o.rt o.ab o.sb (o.sz == 3) scp o.ord o.wt : Option Instr)) (AA.of_word 0x31#8 ⟨rt, ab, sb, 0, (if w64 then 3 else 2), scp.code, ord, wt⟩)).trans ?_
  simp (disch := decide) only [Option.map_some, Scope.ofCode_code, hz]

/-- vadd. -/
theorem vadd (vd : VReg) (a : VSrc) (b : VSrc) (g : Guard) (ty : Ty) : Statement (.vadd vd a b g ty) := by
  intro hw y hy
  cases hy
  refine decodeSyl_v _ _ 0x01#8 (VR.opc_word _ _) (by decide) ?_ hw rfl
  exact rawVAt_of 0x01#8 ⟨vd, a.code, b.code, 0, g.p, g.neg, ty.code, 0⟩ ty a b (.v 0) (by decide) (Ty.ofCode_code ty) (VSrc.ofCode_code _) (VSrc.ofCode_code _) VSrc.ofCode_zero

/-- vsub. -/
theorem vsub (vd : VReg) (a : VSrc) (b : VSrc) (g : Guard) (ty : Ty) : Statement (.vsub vd a b g ty) := by
  intro hw y hy
  cases hy
  refine decodeSyl_v _ _ 0x02#8 (VR.opc_word _ _) (by decide) ?_ hw rfl
  exact rawVAt_of 0x02#8 ⟨vd, a.code, b.code, 0, g.p, g.neg, ty.code, 0⟩ ty a b (.v 0) (by decide) (Ty.ofCode_code ty) (VSrc.ofCode_code _) (VSrc.ofCode_code _) VSrc.ofCode_zero

/-- vmul. -/
theorem vmul (vd : VReg) (a : VSrc) (b : VSrc) (g : Guard) (ty : Ty) : Statement (.vmul vd a b g ty) := by
  intro hw y hy
  cases hy
  refine decodeSyl_v _ _ 0x03#8 (VR.opc_word _ _) (by decide) ?_ hw rfl
  exact rawVAt_of 0x03#8 ⟨vd, a.code, b.code, 0, g.p, g.neg, ty.code, 0⟩ ty a b (.v 0) (by decide) (Ty.ofCode_code ty) (VSrc.ofCode_code _) (VSrc.ofCode_code _) VSrc.ofCode_zero

/-- vfma. -/
theorem vfma (vd : VReg) (a : VSrc) (b : VSrc) (c : VSrc) (g : Guard) (ty : Ty) : Statement (.vfma vd a b c g ty) := by
  intro hw y hy
  cases hy
  refine decodeSyl_v _ _ 0x04#8 (VR.opc_word _ _) (by decide) ?_ hw rfl
  exact rawVAt_of 0x04#8 ⟨vd, a.code, b.code, c.code, g.p, g.neg, ty.code, 0⟩ ty a b c (by decide) (Ty.ofCode_code ty) (VSrc.ofCode_code _) (VSrc.ofCode_code _) (VSrc.ofCode_code _)

/-- vfms. -/
theorem vfms (vd : VReg) (a : VSrc) (b : VSrc) (c : VSrc) (g : Guard) (ty : Ty) : Statement (.vfms vd a b c g ty) := by
  intro hw y hy
  cases hy
  refine decodeSyl_v _ _ 0x05#8 (VR.opc_word _ _) (by decide) ?_ hw rfl
  exact rawVAt_of 0x05#8 ⟨vd, a.code, b.code, c.code, g.p, g.neg, ty.code, 0⟩ ty a b c (by decide) (Ty.ofCode_code ty) (VSrc.ofCode_code _) (VSrc.ofCode_code _) (VSrc.ofCode_code _)

/-- vfnma. -/
theorem vfnma (vd : VReg) (a : VSrc) (b : VSrc) (c : VSrc) (g : Guard) (ty : Ty) : Statement (.vfnma vd a b c g ty) := by
  intro hw y hy
  cases hy
  refine decodeSyl_v _ _ 0x06#8 (VR.opc_word _ _) (by decide) ?_ hw rfl
  exact rawVAt_of 0x06#8 ⟨vd, a.code, b.code, c.code, g.p, g.neg, ty.code, 0⟩ ty a b c (by decide) (Ty.ofCode_code ty) (VSrc.ofCode_code _) (VSrc.ofCode_code _) (VSrc.ofCode_code _)

/-- vmin. -/
theorem vmin (vd : VReg) (a : VSrc) (b : VSrc) (g : Guard) (ty : Ty) : Statement (.vmin vd a b g ty) := by
  intro hw y hy
  cases hy
  refine decodeSyl_v _ _ 0x07#8 (VR.opc_word _ _) (by decide) ?_ hw rfl
  exact rawVAt_of 0x07#8 ⟨vd, a.code, b.code, 0, g.p, g.neg, ty.code, 0⟩ ty a b (.v 0) (by decide) (Ty.ofCode_code ty) (VSrc.ofCode_code _) (VSrc.ofCode_code _) VSrc.ofCode_zero

/-- vmax. -/
theorem vmax (vd : VReg) (a : VSrc) (b : VSrc) (g : Guard) (ty : Ty) : Statement (.vmax vd a b g ty) := by
  intro hw y hy
  cases hy
  refine decodeSyl_v _ _ 0x08#8 (VR.opc_word _ _) (by decide) ?_ hw rfl
  exact rawVAt_of 0x08#8 ⟨vd, a.code, b.code, 0, g.p, g.neg, ty.code, 0⟩ ty a b (.v 0) (by decide) (Ty.ofCode_code ty) (VSrc.ofCode_code _) (VSrc.ofCode_code _) VSrc.ofCode_zero

/-- vabs. -/
theorem vabs (vd : VReg) (a : VSrc) (g : Guard) (ty : Ty) : Statement (.vabs vd a g ty) := by
  intro hw y hy
  cases hy
  refine decodeSyl_v _ _ 0x09#8 (VR.opc_word _ _) (by decide) ?_ hw rfl
  exact rawVAt_of 0x09#8 ⟨vd, a.code, 0, 0, g.p, g.neg, ty.code, 0⟩ ty a (.v 0) (.v 0) (by decide) (Ty.ofCode_code ty) (VSrc.ofCode_code _) VSrc.ofCode_zero VSrc.ofCode_zero

/-- vneg. -/
theorem vneg (vd : VReg) (a : VSrc) (g : Guard) (ty : Ty) : Statement (.vneg vd a g ty) := by
  intro hw y hy
  cases hy
  refine decodeSyl_v _ _ 0x0A#8 (VR.opc_word _ _) (by decide) ?_ hw rfl
  exact rawVAt_of 0x0A#8 ⟨vd, a.code, 0, 0, g.p, g.neg, ty.code, 0⟩ ty a (.v 0) (.v 0) (by decide) (Ty.ofCode_code ty) (VSrc.ofCode_code _) VSrc.ofCode_zero VSrc.ofCode_zero

/-- vcps. -/
theorem vcps (vd : VReg) (a : VSrc) (b : VSrc) (g : Guard) (ty : Ty) : Statement (.vcps vd a b g ty) := by
  intro hw y hy
  cases hy
  refine decodeSyl_v _ _ 0x0B#8 (VR.opc_word _ _) (by decide) ?_ hw rfl
  exact rawVAt_of 0x0B#8 ⟨vd, a.code, b.code, 0, g.p, g.neg, ty.code, 0⟩ ty a b (.v 0) (by decide) (Ty.ofCode_code ty) (VSrc.ofCode_code _) (VSrc.ofCode_code _) VSrc.ofCode_zero

/-- vdiv. -/
theorem vdiv (vd : VReg) (a : VSrc) (b : VSrc) (g : Guard) (ty : Ty) : Statement (.vdiv vd a b g ty) := by
  intro hw y hy
  cases hy
  refine decodeSyl_v _ _ 0x10#8 (VR.opc_word _ _) (by decide) ?_ hw rfl
  exact rawVAt_of 0x10#8 ⟨vd, a.code, b.code, 0, g.p, g.neg, ty.code, 0⟩ ty a b (.v 0) (by decide) (Ty.ofCode_code ty) (VSrc.ofCode_code _) (VSrc.ofCode_code _) VSrc.ofCode_zero

/-- vsqrt. -/
theorem vsqrt (vd : VReg) (a : VSrc) (g : Guard) (ty : Ty) : Statement (.vsqrt vd a g ty) := by
  intro hw y hy
  cases hy
  refine decodeSyl_v _ _ 0x11#8 (VR.opc_word _ _) (by decide) ?_ hw rfl
  exact rawVAt_of 0x11#8 ⟨vd, a.code, 0, 0, g.p, g.neg, ty.code, 0⟩ ty a (.v 0) (.v 0) (by decide) (Ty.ofCode_code ty) (VSrc.ofCode_code _) VSrc.ofCode_zero VSrc.ofCode_zero

/-- vrcp. -/
theorem vrcp (vd : VReg) (a : VSrc) (g : Guard) (ty : Ty) : Statement (.vrcp vd a g ty) := by
  intro hw y hy
  cases hy
  refine decodeSyl_v _ _ 0x12#8 (VR.opc_word _ _) (by decide) ?_ hw rfl
  exact rawVAt_of 0x12#8 ⟨vd, a.code, 0, 0, g.p, g.neg, ty.code, 0⟩ ty a (.v 0) (.v 0) (by decide) (Ty.ofCode_code ty) (VSrc.ofCode_code _) VSrc.ofCode_zero VSrc.ofCode_zero

/-- vrsq. -/
theorem vrsq (vd : VReg) (a : VSrc) (g : Guard) (ty : Ty) : Statement (.vrsq vd a g ty) := by
  intro hw y hy
  cases hy
  refine decodeSyl_v _ _ 0x13#8 (VR.opc_word _ _) (by decide) ?_ hw rfl
  exact rawVAt_of 0x13#8 ⟨vd, a.code, 0, 0, g.p, g.neg, ty.code, 0⟩ ty a (.v 0) (.v 0) (by decide) (Ty.ofCode_code ty) (VSrc.ofCode_code _) VSrc.ofCode_zero VSrc.ofCode_zero

/-- vex2. -/
theorem vex2 (vd : VReg) (a : VSrc) (g : Guard) (ty : Ty) : Statement (.vex2 vd a g ty) := by
  intro hw y hy
  cases hy
  refine decodeSyl_v _ _ 0x14#8 (VR.opc_word _ _) (by decide) ?_ hw rfl
  exact rawVAt_of 0x14#8 ⟨vd, a.code, 0, 0, g.p, g.neg, ty.code, 0⟩ ty a (.v 0) (.v 0) (by decide) (Ty.ofCode_code ty) (VSrc.ofCode_code _) VSrc.ofCode_zero VSrc.ofCode_zero

/-- vlg2. -/
theorem vlg2 (vd : VReg) (a : VSrc) (g : Guard) (ty : Ty) : Statement (.vlg2 vd a g ty) := by
  intro hw y hy
  cases hy
  refine decodeSyl_v _ _ 0x15#8 (VR.opc_word _ _) (by decide) ?_ hw rfl
  exact rawVAt_of 0x15#8 ⟨vd, a.code, 0, 0, g.p, g.neg, ty.code, 0⟩ ty a (.v 0) (.v 0) (by decide) (Ty.ofCode_code ty) (VSrc.ofCode_code _) VSrc.ofCode_zero VSrc.ofCode_zero

/-- vtnh. -/
theorem vtnh (vd : VReg) (a : VSrc) (g : Guard) (ty : Ty) : Statement (.vtnh vd a g ty) := by
  intro hw y hy
  cases hy
  refine decodeSyl_v _ _ 0x16#8 (VR.opc_word _ _) (by decide) ?_ hw rfl
  exact rawVAt_of 0x16#8 ⟨vd, a.code, 0, 0, g.p, g.neg, ty.code, 0⟩ ty a (.v 0) (.v 0) (by decide) (Ty.ofCode_code ty) (VSrc.ofCode_code _) VSrc.ofCode_zero VSrc.ofCode_zero

/-- vlgs. -/
theorem vlgs (vd : VReg) (a : VSrc) (g : Guard) (ty : Ty) : Statement (.vlgs vd a g ty) := by
  intro hw y hy
  cases hy
  refine decodeSyl_v _ _ 0x17#8 (VR.opc_word _ _) (by decide) ?_ hw rfl
  exact rawVAt_of 0x17#8 ⟨vd, a.code, 0, 0, g.p, g.neg, ty.code, 0⟩ ty a (.v 0) (.v 0) (by decide) (Ty.ofCode_code ty) (VSrc.ofCode_code _) VSrc.ofCode_zero VSrc.ofCode_zero

/-- vsin. -/
theorem vsin (vd : VReg) (a : VSrc) (g : Guard) (ty : Ty) : Statement (.vsin vd a g ty) := by
  intro hw y hy
  cases hy
  refine decodeSyl_v _ _ 0x18#8 (VR.opc_word _ _) (by decide) ?_ hw rfl
  exact rawVAt_of 0x18#8 ⟨vd, a.code, 0, 0, g.p, g.neg, ty.code, 0⟩ ty a (.v 0) (.v 0) (by decide) (Ty.ofCode_code ty) (VSrc.ofCode_code _) VSrc.ofCode_zero VSrc.ofCode_zero

/-- vcos. -/
theorem vcos (vd : VReg) (a : VSrc) (g : Guard) (ty : Ty) : Statement (.vcos vd a g ty) := by
  intro hw y hy
  cases hy
  refine decodeSyl_v _ _ 0x19#8 (VR.opc_word _ _) (by decide) ?_ hw rfl
  exact rawVAt_of 0x19#8 ⟨vd, a.code, 0, 0, g.p, g.neg, ty.code, 0⟩ ty a (.v 0) (.v 0) (by decide) (Ty.ofCode_code ty) (VSrc.ofCode_code _) VSrc.ofCode_zero VSrc.ofCode_zero

/-- viadd. -/
theorem viadd (vd : VReg) (a : VSrc) (b : VSrc) (sat : Bool) (g : Guard) (ty : Ty) : Statement (.viadd vd a b sat g ty) := by
  intro hw y hy
  cases hy
  refine decodeSyl_v _ _ 0x20#8 (VR.opc_word _ _) (by decide) ?_ hw rfl
  refine (rawVAt_of 0x20#8 ⟨vd, a.code, b.code, 0, g.p, g.neg, ty.code, (0#11 ++ bit1 sat)⟩ ty a b (.v 0) (by decide) (Ty.ofCode_code ty) (VSrc.ofCode_code _) (VSrc.ofCode_code _) VSrc.ofCode_zero).trans ?_
  have e : ∀ (r : VR) (ty : Ty) (a b c : VSrc), rawVR 0x20 r ty a b c = (some (.viadd r.vd a b (r.aux.getLsbD 0) ⟨r.g, r.gn⟩ ty)) := fun _ _ _ _ _ => rfl
  refine (e ⟨vd, a.code, b.code, 0, g.p, g.neg, ty.code, (0#11 ++ bit1 sat)⟩ ty a b (.v 0)).trans ?_
  simp (disch := decide) only [getLsbD_append_low, bit1_getLsbD]

/-- visub. -/
theorem visub (vd : VReg) (a : VSrc) (b : VSrc) (sat : Bool) (g : Guard) (ty : Ty) : Statement (.visub vd a b sat g ty) := by
  intro hw y hy
  cases hy
  refine decodeSyl_v _ _ 0x21#8 (VR.opc_word _ _) (by decide) ?_ hw rfl
  refine (rawVAt_of 0x21#8 ⟨vd, a.code, b.code, 0, g.p, g.neg, ty.code, (0#11 ++ bit1 sat)⟩ ty a b (.v 0) (by decide) (Ty.ofCode_code ty) (VSrc.ofCode_code _) (VSrc.ofCode_code _) VSrc.ofCode_zero).trans ?_
  have e : ∀ (r : VR) (ty : Ty) (a b c : VSrc), rawVR 0x21 r ty a b c = (some (.visub r.vd a b (r.aux.getLsbD 0) ⟨r.g, r.gn⟩ ty)) := fun _ _ _ _ _ => rfl
  refine (e ⟨vd, a.code, b.code, 0, g.p, g.neg, ty.code, (0#11 ++ bit1 sat)⟩ ty a b (.v 0)).trans ?_
  simp (disch := decide) only [getLsbD_append_low, bit1_getLsbD]

/-- vimul. -/
theorem vimul (vd : VReg) (a : VSrc) (b : VSrc) (g : Guard) (ty : Ty) : Statement (.vimul vd a b g ty) := by
  intro hw y hy
  cases hy
  refine decodeSyl_v _ _ 0x22#8 (VR.opc_word _ _) (by decide) ?_ hw rfl
  exact rawVAt_of 0x22#8 ⟨vd, a.code, b.code, 0, g.p, g.neg, ty.code, 0⟩ ty a b (.v 0) (by decide) (Ty.ofCode_code ty) (VSrc.ofCode_code _) (VSrc.ofCode_code _) VSrc.ofCode_zero

/-- vimulh. -/
theorem vimulh (vd : VReg) (a : VSrc) (b : VSrc) (g : Guard) (ty : Ty) : Statement (.vimulh vd a b g ty) := by
  intro hw y hy
  cases hy
  refine decodeSyl_v _ _ 0x23#8 (VR.opc_word _ _) (by decide) ?_ hw rfl
  exact rawVAt_of 0x23#8 ⟨vd, a.code, b.code, 0, g.p, g.neg, ty.code, 0⟩ ty a b (.v 0) (by decide) (Ty.ofCode_code ty) (VSrc.ofCode_code _) (VSrc.ofCode_code _) VSrc.ofCode_zero

/-- vimad. -/
theorem vimad (vd : VReg) (a : VSrc) (b : VSrc) (c : VSrc) (g : Guard) (ty : Ty) : Statement (.vimad vd a b c g ty) := by
  intro hw y hy
  cases hy
  refine decodeSyl_v _ _ 0x24#8 (VR.opc_word _ _) (by decide) ?_ hw rfl
  exact rawVAt_of 0x24#8 ⟨vd, a.code, b.code, c.code, g.p, g.neg, ty.code, 0⟩ ty a b c (by decide) (Ty.ofCode_code ty) (VSrc.ofCode_code _) (VSrc.ofCode_code _) (VSrc.ofCode_code _)

/-- vand. -/
theorem vand (vd : VReg) (a : VSrc) (b : VSrc) (g : Guard) (ty : Ty) : Statement (.vand vd a b g ty) := by
  intro hw y hy
  cases hy
  refine decodeSyl_v _ _ 0x25#8 (VR.opc_word _ _) (by decide) ?_ hw rfl
  exact rawVAt_of 0x25#8 ⟨vd, a.code, b.code, 0, g.p, g.neg, ty.code, 0⟩ ty a b (.v 0) (by decide) (Ty.ofCode_code ty) (VSrc.ofCode_code _) (VSrc.ofCode_code _) VSrc.ofCode_zero

/-- vor. -/
theorem vor (vd : VReg) (a : VSrc) (b : VSrc) (g : Guard) (ty : Ty) : Statement (.vor vd a b g ty) := by
  intro hw y hy
  cases hy
  refine decodeSyl_v _ _ 0x26#8 (VR.opc_word _ _) (by decide) ?_ hw rfl
  exact rawVAt_of 0x26#8 ⟨vd, a.code, b.code, 0, g.p, g.neg, ty.code, 0⟩ ty a b (.v 0) (by decide) (Ty.ofCode_code ty) (VSrc.ofCode_code _) (VSrc.ofCode_code _) VSrc.ofCode_zero

/-- vxor. -/
theorem vxor (vd : VReg) (a : VSrc) (b : VSrc) (g : Guard) (ty : Ty) : Statement (.vxor vd a b g ty) := by
  intro hw y hy
  cases hy
  refine decodeSyl_v _ _ 0x27#8 (VR.opc_word _ _) (by decide) ?_ hw rfl
  exact rawVAt_of 0x27#8 ⟨vd, a.code, b.code, 0, g.p, g.neg, ty.code, 0⟩ ty a b (.v 0) (by decide) (Ty.ofCode_code ty) (VSrc.ofCode_code _) (VSrc.ofCode_code _) VSrc.ofCode_zero

/-- vnot. -/
theorem vnot (vd : VReg) (a : VSrc) (g : Guard) (ty : Ty) : Statement (.vnot vd a g ty) := by
  intro hw y hy
  cases hy
  refine decodeSyl_v _ _ 0x28#8 (VR.opc_word _ _) (by decide) ?_ hw rfl
  exact rawVAt_of 0x28#8 ⟨vd, a.code, 0, 0, g.p, g.neg, ty.code, 0⟩ ty a (.v 0) (.v 0) (by decide) (Ty.ofCode_code ty) (VSrc.ofCode_code _) VSrc.ofCode_zero VSrc.ofCode_zero

/-- vshl. -/
theorem vshl (vd : VReg) (a : VSrc) (b : VSrc) (g : Guard) (ty : Ty) : Statement (.vshl vd a b g ty) := by
  intro hw y hy
  cases hy
  refine decodeSyl_v _ _ 0x29#8 (VR.opc_word _ _) (by decide) ?_ hw rfl
  exact rawVAt_of 0x29#8 ⟨vd, a.code, b.code, 0, g.p, g.neg, ty.code, 0⟩ ty a b (.v 0) (by decide) (Ty.ofCode_code ty) (VSrc.ofCode_code _) (VSrc.ofCode_code _) VSrc.ofCode_zero

/-- vshr. -/
theorem vshr (vd : VReg) (a : VSrc) (b : VSrc) (g : Guard) (ty : Ty) : Statement (.vshr vd a b g ty) := by
  intro hw y hy
  cases hy
  refine decodeSyl_v _ _ 0x2A#8 (VR.opc_word _ _) (by decide) ?_ hw rfl
  exact rawVAt_of 0x2A#8 ⟨vd, a.code, b.code, 0, g.p, g.neg, ty.code, 0⟩ ty a b (.v 0) (by decide) (Ty.ofCode_code ty) (VSrc.ofCode_code _) (VSrc.ofCode_code _) VSrc.ofCode_zero

/-- vsha. -/
theorem vsha (vd : VReg) (a : VSrc) (b : VSrc) (g : Guard) (ty : Ty) : Statement (.vsha vd a b g ty) := by
  intro hw y hy
  cases hy
  refine decodeSyl_v _ _ 0x2B#8 (VR.opc_word _ _) (by decide) ?_ hw rfl
  exact rawVAt_of 0x2B#8 ⟨vd, a.code, b.code, 0, g.p, g.neg, ty.code, 0⟩ ty a b (.v 0) (by decide) (Ty.ofCode_code ty) (VSrc.ofCode_code _) (VSrc.ofCode_code _) VSrc.ofCode_zero

/-- vimin. -/
theorem vimin (vd : VReg) (a : VSrc) (b : VSrc) (g : Guard) (ty : Ty) : Statement (.vimin vd a b g ty) := by
  intro hw y hy
  cases hy
  refine decodeSyl_v _ _ 0x2C#8 (VR.opc_word _ _) (by decide) ?_ hw rfl
  exact rawVAt_of 0x2C#8 ⟨vd, a.code, b.code, 0, g.p, g.neg, ty.code, 0⟩ ty a b (.v 0) (by decide) (Ty.ofCode_code ty) (VSrc.ofCode_code _) (VSrc.ofCode_code _) VSrc.ofCode_zero

/-- vimax. -/
theorem vimax (vd : VReg) (a : VSrc) (b : VSrc) (g : Guard) (ty : Ty) : Statement (.vimax vd a b g ty) := by
  intro hw y hy
  cases hy
  refine decodeSyl_v _ _ 0x2D#8 (VR.opc_word _ _) (by decide) ?_ hw rfl
  exact rawVAt_of 0x2D#8 ⟨vd, a.code, b.code, 0, g.p, g.neg, ty.code, 0⟩ ty a b (.v 0) (by decide) (Ty.ofCode_code ty) (VSrc.ofCode_code _) (VSrc.ofCode_code _) VSrc.ofCode_zero

/-- viabs. -/
theorem viabs (vd : VReg) (a : VSrc) (sat : Bool) (g : Guard) (ty : Ty) : Statement (.viabs vd a sat g ty) := by
  intro hw y hy
  cases hy
  refine decodeSyl_v _ _ 0x2E#8 (VR.opc_word _ _) (by decide) ?_ hw rfl
  refine (rawVAt_of 0x2E#8 ⟨vd, a.code, 0, 0, g.p, g.neg, ty.code, (0#11 ++ bit1 sat)⟩ ty a (.v 0) (.v 0) (by decide) (Ty.ofCode_code ty) (VSrc.ofCode_code _) VSrc.ofCode_zero VSrc.ofCode_zero).trans ?_
  have e : ∀ (r : VR) (ty : Ty) (a b c : VSrc), rawVR 0x2E r ty a b c = (some (.viabs r.vd a (r.aux.getLsbD 0) ⟨r.g, r.gn⟩ ty)) := fun _ _ _ _ _ => rfl
  refine (e ⟨vd, a.code, 0, 0, g.p, g.neg, ty.code, (0#11 ++ bit1 sat)⟩ ty a (.v 0) (.v 0)).trans ?_
  simp (disch := decide) only [getLsbD_append_low, bit1_getLsbD]

/-- vcmp. -/
theorem vcmp (pd : PReg) (a : VSrc) (b : VSrc) (cond : Bits3) (z : Bool) (g : Guard) (ty : Ty) : Statement (.vcmp pd a b cond z g ty) := by
  intro hw y hy
  cases hy
  refine decodeSyl_v _ _ 0x30#8 (VR.opc_word _ _) (by decide) ?_ hw rfl
  refine (rawVAt_of 0x30#8 ⟨(0#3 ++ pd), a.code, b.code, 0, g.p, g.neg, ty.code, (0#8 ++ bit1 z ++ cond)⟩ ty a b (.v 0) (by decide) (Ty.ofCode_code ty) (VSrc.ofCode_code _) (VSrc.ofCode_code _) VSrc.ofCode_zero).trans ?_
  have e : ∀ (r : VR) (ty : Ty) (a b c : VSrc), rawVR 0x30 r ty a b c = (some (.vcmp (r.vd.setWidth 4) a b (r.aux.extractLsb' 0 3) (r.aux.getLsbD 3) ⟨r.g, r.gn⟩ ty)) := fun _ _ _ _ _ => rfl
  refine (e ⟨(0#3 ++ pd), a.code, b.code, 0, g.p, g.neg, ty.code, (0#8 ++ bit1 z ++ cond)⟩ ty a b (.v 0)).trans ?_
  simp (disch := decide) only [extract_append_low, extract_full, setWidth_append_low, getLsbD_append_low, getLsbD_append_high, bit1_getLsbD, Nat.reduceSub]

/-- vicmp. -/
theorem vicmp (pd : PReg) (a : VSrc) (b : VSrc) (cond : Bits3) (z : Bool) (g : Guard) (ty : Ty) : Statement (.vicmp pd a b cond z g ty) := by
  intro hw y hy
  cases hy
  refine decodeSyl_v _ _ 0x31#8 (VR.opc_word _ _) (by decide) ?_ hw rfl
  refine (rawVAt_of 0x31#8 ⟨(0#3 ++ pd), a.code, b.code, 0, g.p, g.neg, ty.code, (0#8 ++ bit1 z ++ cond)⟩ ty a b (.v 0) (by decide) (Ty.ofCode_code ty) (VSrc.ofCode_code _) (VSrc.ofCode_code _) VSrc.ofCode_zero).trans ?_
  have e : ∀ (r : VR) (ty : Ty) (a b c : VSrc), rawVR 0x31 r ty a b c = (some (.vicmp (r.vd.setWidth 4) a b (r.aux.extractLsb' 0 3) (r.aux.getLsbD 3) ⟨r.g, r.gn⟩ ty)) := fun _ _ _ _ _ => rfl
  refine (e ⟨(0#3 ++ pd), a.code, b.code, 0, g.p, g.neg, ty.code, (0#8 ++ bit1 z ++ cond)⟩ ty a b (.v 0)).trans ?_
  simp (disch := decide) only [extract_append_low, extract_full, setWidth_append_low, getLsbD_append_low, getLsbD_append_high, bit1_getLsbD, Nat.reduceSub]

/-- pand. -/
theorem pand (pd : PReg) (pa : PReg) (pb : PReg) (g : Guard) (ty : Ty) : Statement (.pand pd pa pb g ty) := by
  intro hw y hy
  cases hy
  refine decodeSyl_v _ _ 0x38#8 (VR.opc_word _ _) (by decide) ?_ hw rfl
  refine (rawVAt_of 0x38#8 ⟨(0#3 ++ pd), (predSpec pa), (predSpec pb), 0, g.p, g.neg, ty.code, 0⟩ ty (.v (0#3 ++ pa)) (.v (0#3 ++ pb)) (.v 0) (by decide) (Ty.ofCode_code ty) (VSrc.ofCode_pred _) (VSrc.ofCode_pred _) VSrc.ofCode_zero).trans ?_
  have e : ∀ (r : VR) (ty : Ty) (a b c : VSrc), rawVR 0x38 r ty a b c = (some (.pand (r.vd.setWidth 4) (r.oa.setWidth 4) (r.ob.setWidth 4) ⟨r.g, r.gn⟩ ty)) := fun _ _ _ _ _ => rfl
  refine (e ⟨(0#3 ++ pd), (predSpec pa), (predSpec pb), 0, g.p, g.neg, ty.code, 0⟩ ty (.v (0#3 ++ pa)) (.v (0#3 ++ pb)) (.v 0)).trans ?_
  simp (disch := decide) only [predSpec_low, extract_full, setWidth_append_low]

/-- por. -/
theorem por (pd : PReg) (pa : PReg) (pb : PReg) (g : Guard) (ty : Ty) : Statement (.por pd pa pb g ty) := by
  intro hw y hy
  cases hy
  refine decodeSyl_v _ _ 0x39#8 (VR.opc_word _ _) (by decide) ?_ hw rfl
  refine (rawVAt_of 0x39#8 ⟨(0#3 ++ pd), (predSpec pa), (predSpec pb), 0, g.p, g.neg, ty.code, 0⟩ ty (.v (0#3 ++ pa)) (.v (0#3 ++ pb)) (.v 0) (by decide) (Ty.ofCode_code ty) (VSrc.ofCode_pred _) (VSrc.ofCode_pred _) VSrc.ofCode_zero).trans ?_
  have e : ∀ (r : VR) (ty : Ty) (a b c : VSrc), rawVR 0x39 r ty a b c = (some (.por (r.vd.setWidth 4) (r.oa.setWidth 4) (r.ob.setWidth 4) ⟨r.g, r.gn⟩ ty)) := fun _ _ _ _ _ => rfl
  refine (e ⟨(0#3 ++ pd), (predSpec pa), (predSpec pb), 0, g.p, g.neg, ty.code, 0⟩ ty (.v (0#3 ++ pa)) (.v (0#3 ++ pb)) (.v 0)).trans ?_
  simp (disch := decide) only [predSpec_low, extract_full, setWidth_append_low]

/-- pxor. -/
theorem pxor (pd : PReg) (pa : PReg) (pb : PReg) (g : Guard) (ty : Ty) : Statement (.pxor pd pa pb g ty) := by
  intro hw y hy
  cases hy
  refine decodeSyl_v _ _ 0x3A#8 (VR.opc_word _ _) (by decide) ?_ hw rfl
  refine (rawVAt_of 0x3A#8 ⟨(0#3 ++ pd), (predSpec pa), (predSpec pb), 0, g.p, g.neg, ty.code, 0⟩ ty (.v (0#3 ++ pa)) (.v (0#3 ++ pb)) (.v 0) (by decide) (Ty.ofCode_code ty) (VSrc.ofCode_pred _) (VSrc.ofCode_pred _) VSrc.ofCode_zero).trans ?_
  have e : ∀ (r : VR) (ty : Ty) (a b c : VSrc), rawVR 0x3A r ty a b c = (some (.pxor (r.vd.setWidth 4) (r.oa.setWidth 4) (r.ob.setWidth 4) ⟨r.g, r.gn⟩ ty)) := fun _ _ _ _ _ => rfl
  refine (e ⟨(0#3 ++ pd), (predSpec pa), (predSpec pb), 0, g.p, g.neg, ty.code, 0⟩ ty (.v (0#3 ++ pa)) (.v (0#3 ++ pb)) (.v 0)).trans ?_
  simp (disch := decide) only [predSpec_low, extract_full, setWidth_append_low]

/-- pnot. -/
theorem pnot (pd : PReg) (pa : PReg) (g : Guard) (ty : Ty) : Statement (.pnot pd pa g ty) := by
  intro hw y hy
  cases hy
  refine decodeSyl_v _ _ 0x3B#8 (VR.opc_word _ _) (by decide) ?_ hw rfl
  refine (rawVAt_of 0x3B#8 ⟨(0#3 ++ pd), (predSpec pa), 0, 0, g.p, g.neg, ty.code, 0⟩ ty (.v (0#3 ++ pa)) (.v 0) (.v 0) (by decide) (Ty.ofCode_code ty) (VSrc.ofCode_pred _) VSrc.ofCode_zero VSrc.ofCode_zero).trans ?_
  have e : ∀ (r : VR) (ty : Ty) (a b c : VSrc), rawVR 0x3B r ty a b c = (some (.pnot (r.vd.setWidth 4) (r.oa.setWidth 4) ⟨r.g, r.gn⟩ ty)) := fun _ _ _ _ _ => rfl
  refine (e ⟨(0#3 ++ pd), (predSpec pa), 0, 0, g.p, g.neg, ty.code, 0⟩ ty (.v (0#3 ++ pa)) (.v 0) (.v 0)).trans ?_
  simp (disch := decide) only [predSpec_low, extract_full, setWidth_append_low]

/-- pmov. -/
theorem pmov (pd : PReg) (pa : PReg) (g : Guard) (ty : Ty) : Statement (.pmov pd pa g ty) := by
  intro hw y hy
  cases hy
  refine decodeSyl_v _ _ 0x3C#8 (VR.opc_word _ _) (by decide) ?_ hw rfl
  refine (rawVAt_of 0x3C#8 ⟨(0#3 ++ pd), (predSpec pa), 0, 0, g.p, g.neg, ty.code, 0⟩ ty (.v (0#3 ++ pa)) (.v 0) (.v 0) (by decide) (Ty.ofCode_code ty) (VSrc.ofCode_pred _) VSrc.ofCode_zero VSrc.ofCode_zero).trans ?_
  have e : ∀ (r : VR) (ty : Ty) (a b c : VSrc), rawVR 0x3C r ty a b c = (some (.pmov (r.vd.setWidth 4) (r.oa.setWidth 4) ⟨r.g, r.gn⟩ ty)) := fun _ _ _ _ _ => rfl
  refine (e ⟨(0#3 ++ pd), (predSpec pa), 0, 0, g.p, g.neg, ty.code, 0⟩ ty (.v (0#3 ++ pa)) (.v 0) (.v 0)).trans ?_
  simp (disch := decide) only [predSpec_low, extract_full, setWidth_append_low]

/-- psetImm. -/
theorem psetImm (pd : PReg) (n : Bits11) (g : Guard) (ty : Ty) : Statement (.psetImm pd n g ty) := by
  intro hw y hy
  cases hy
  refine decodeSyl_v _ _ 0x3D#8 (VR.opc_word _ _) (by decide) ?_ hw rfl
  refine (rawVAt_of 0x3D#8 ⟨(0#3 ++ pd), 0, 0, 0, g.p, g.neg, ty.code, (1#1 ++ n)⟩ ty (.v 0) (.v 0) (.v 0) (by decide) (Ty.ofCode_code ty) VSrc.ofCode_zero VSrc.ofCode_zero VSrc.ofCode_zero).trans ?_
  have e : ∀ (r : VR) (ty : Ty) (a b c : VSrc), rawVR 0x3D r ty a b c = (if r.aux.getLsbD 11 then some (.psetImm (r.vd.setWidth 4) (r.aux.setWidth 11) ⟨r.g, r.gn⟩ ty) else some (.psetReg (r.vd.setWidth 4) (r.oa.setWidth 5) ⟨r.g, r.gn⟩ ty)) := fun _ _ _ _ _ => rfl
  refine (e ⟨(0#3 ++ pd), 0, 0, 0, g.p, g.neg, ty.code, (1#1 ++ n)⟩ ty (.v 0) (.v 0) (.v 0)).trans ?_
  simp (disch := decide) only [extract_full, setWidth_append_low, getLsbD_append_high, Nat.reduceSub]
  rfl

/-- psetReg. -/
theorem psetReg (pd : PReg) (sa : SReg) (g : Guard) (ty : Ty) : Statement (.psetReg pd sa g ty) := by
  intro hw y hy
  cases hy
  refine decodeSyl_v _ _ 0x3D#8 (VR.opc_word _ _) (by decide) ?_ hw rfl
  refine (rawVAt_of 0x3D#8 ⟨(0#3 ++ pd), (VSrc.s sa).code, 0, 0, g.p, g.neg, ty.code, 0⟩ ty (VSrc.s sa) (.v 0) (.v 0) (by decide) (Ty.ofCode_code ty) (VSrc.ofCode_code _) VSrc.ofCode_zero VSrc.ofCode_zero).trans ?_
  have e : ∀ (r : VR) (ty : Ty) (a b c : VSrc), rawVR 0x3D r ty a b c = (if r.aux.getLsbD 11 then some (.psetImm (r.vd.setWidth 4) (r.aux.setWidth 11) ⟨r.g, r.gn⟩ ty) else some (.psetReg (r.vd.setWidth 4) (r.oa.setWidth 5) ⟨r.g, r.gn⟩ ty)) := fun _ _ _ _ _ => rfl
  refine (e ⟨(0#3 ++ pd), (VSrc.s sa).code, 0, 0, g.p, g.neg, ty.code, 0⟩ ty (VSrc.s sa) (.v 0) (.v 0)).trans ?_
  simp (disch := decide) only [VSrc.s_code_low, extract_full, setWidth_append_low]
  rfl

/-- pcnt. -/
theorem pcnt (sd : SReg) (pa : PReg) (g : Guard) (ty : Ty) : Statement (.pcnt sd pa g ty) := by
  intro hw y hy
  cases hy
  refine decodeSyl_v _ _ 0x3E#8 (VR.opc_word _ _) (by decide) ?_ hw rfl
  refine (rawVAt_of 0x3E#8 ⟨(0#2 ++ sd), (predSpec pa), 0, 0, g.p, g.neg, ty.code, 0⟩ ty (.v (0#3 ++ pa)) (.v 0) (.v 0) (by decide) (Ty.ofCode_code ty) (VSrc.ofCode_pred _) VSrc.ofCode_zero VSrc.ofCode_zero).trans ?_
  have e : ∀ (r : VR) (ty : Ty) (a b c : VSrc), rawVR 0x3E r ty a b c = (some (.pcnt (r.vd.setWidth 5) (r.oa.setWidth 4) ⟨r.g, r.gn⟩ ty)) := fun _ _ _ _ _ => rfl
  refine (e ⟨(0#2 ++ sd), (predSpec pa), 0, 0, g.p, g.neg, ty.code, 0⟩ ty (.v (0#3 ++ pa)) (.v 0) (.v 0)).trans ?_
  simp (disch := decide) only [predSpec_low, extract_full, setWidth_append_low]

/-- pfst. -/
theorem pfst (sd : SReg) (pa : PReg) (g : Guard) (ty : Ty) : Statement (.pfst sd pa g ty) := by
  intro hw y hy
  cases hy
  refine decodeSyl_v _ _ 0x3F#8 (VR.opc_word _ _) (by decide) ?_ hw rfl
  refine (rawVAt_of 0x3F#8 ⟨(0#2 ++ sd), (predSpec pa), 0, 0, g.p, g.neg, ty.code, 0⟩ ty (.v (0#3 ++ pa)) (.v 0) (.v 0) (by decide) (Ty.ofCode_code ty) (VSrc.ofCode_pred _) VSrc.ofCode_zero VSrc.ofCode_zero).trans ?_
  have e : ∀ (r : VR) (ty : Ty) (a b c : VSrc), rawVR 0x3F r ty a b c = (some (.pfst (r.vd.setWidth 5) (r.oa.setWidth 4) ⟨r.g, r.gn⟩ ty)) := fun _ _ _ _ _ => rfl
  refine (e ⟨(0#2 ++ sd), (predSpec pa), 0, 0, g.p, g.neg, ty.code, 0⟩ ty (.v (0#3 ++ pa)) (.v 0) (.v 0)).trans ?_
  simp (disch := decide) only [predSpec_low, extract_full, setWidth_append_low]

/-- vmov. -/
theorem vmov (vd : VReg) (a : VSrc) (g : Guard) (ty : Ty) : Statement (.vmov vd a g ty) := by
  intro hw y hy
  cases hy
  refine decodeSyl_v _ _ 0x40#8 (VR.opc_word _ _) (by decide) ?_ hw rfl
  exact rawVAt_of 0x40#8 ⟨vd, a.code, 0, 0, g.p, g.neg, ty.code, 0⟩ ty a (.v 0) (.v 0) (by decide) (Ty.ofCode_code ty) (VSrc.ofCode_code _) VSrc.ofCode_zero VSrc.ofCode_zero

/-- vsel. -/
theorem vsel (vd : VReg) (pc : PReg) (a : VSrc) (b : VSrc) (g : Guard) (ty : Ty) : Statement (.vsel vd pc a b g ty) := by
  intro hw y hy
  cases hy
  refine decodeSyl_v _ _ 0x41#8 (VR.opc_word _ _) (by decide) ?_ hw rfl
  refine (rawVAt_of 0x41#8 ⟨vd, a.code, b.code, (predSpec pc), g.p, g.neg, ty.code, 0⟩ ty a b (.v (0#3 ++ pc)) (by decide) (Ty.ofCode_code ty) (VSrc.ofCode_code _) (VSrc.ofCode_code _) (VSrc.ofCode_pred _)).trans ?_
  have e : ∀ (r : VR) (ty : Ty) (a b c : VSrc), rawVR 0x41 r ty a b c = (some (.vsel r.vd (r.oc.setWidth 4) a b ⟨r.g, r.gn⟩ ty)) := fun _ _ _ _ _ => rfl
  refine (e ⟨vd, a.code, b.code, (predSpec pc), g.p, g.neg, ty.code, 0⟩ ty a b (.v (0#3 ++ pc))).trans ?_
  simp (disch := decide) only [predSpec_low]

/-- vbcstScalar. -/
theorem vbcstScalar (vd : VReg) (sa : SReg) (g : Guard) (ty : Ty) : Statement (.vbcstScalar vd sa g ty) := by
  intro hw y hy
  cases hy
  refine decodeSyl_v _ _ 0x42#8 (VR.opc_word _ _) (by decide) ?_ hw rfl
  refine (rawVAt_of 0x42#8 ⟨vd, (VSrc.s sa).code, 0, 0, g.p, g.neg, ty.code, 0⟩ ty (VSrc.s sa) (.v 0) (.v 0) (by decide) (Ty.ofCode_code ty) (VSrc.ofCode_code _) VSrc.ofCode_zero VSrc.ofCode_zero).trans ?_
  have e : ∀ (r : VR) (ty : Ty) (a b c : VSrc), rawVR 0x42 r ty a b c = (match a.row with | some ra => some (.vbcstLane r.vd ra (r.ob.setWidth 5) ⟨r.g, r.gn⟩ ty) | none => some (.vbcstScalar r.vd (r.oa.setWidth 5) ⟨r.g, r.gn⟩ ty)) := fun _ _ _ _ _ => rfl
  refine (e ⟨vd, (VSrc.s sa).code, 0, 0, g.p, g.neg, ty.code, 0⟩ ty (VSrc.s sa) (.v 0) (.v 0)).trans ?_
  simp (disch := decide) only [VSrc.s_code_low, VSrc.s_row]

/-- vbcstLane. -/
theorem vbcstLane (vd : VReg) (a : RowSrc) (sb : SReg) (g : Guard) (ty : Ty) : Statement (.vbcstLane vd a sb g ty) := by
  intro hw y hy
  cases hy
  refine decodeSyl_v _ _ 0x42#8 (VR.opc_word _ _) (by decide) ?_ hw rfl
  refine (rawVAt_of 0x42#8 ⟨vd, a.code, (VSrc.s sb).code, 0, g.p, g.neg, ty.code, 0⟩ ty a.src (VSrc.s sb) (.v 0) (by decide) (Ty.ofCode_code ty) (RowSrc.ofCode_code _) (VSrc.ofCode_code _) VSrc.ofCode_zero).trans ?_
  have e : ∀ (r : VR) (ty : Ty) (a b c : VSrc), rawVR 0x42 r ty a b c = (match a.row with | some ra => some (.vbcstLane r.vd ra (r.ob.setWidth 5) ⟨r.g, r.gn⟩ ty) | none => some (.vbcstScalar r.vd (r.oa.setWidth 5) ⟨r.g, r.gn⟩ ty)) := fun _ _ _ _ _ => rfl
  refine (e ⟨vd, a.code, (VSrc.s sb).code, 0, g.p, g.neg, ty.code, 0⟩ ty a.src (VSrc.s sb) (.v 0)).trans ?_
  simp (disch := decide) only [VSrc.s_code_low, RowSrc.src_row]

/-- vbcstImm. -/
theorem vbcstImm (vd : VReg) (imm : Imm32) (g : Guard) (ty : Ty) : Statement (.vbcstImm vd imm g ty) := by
  intro hw y hy
  cases hy
  refine decodeSyl_v _ _ 0x43#8 (VI.opc_word _ _) (by decide) ?_ hw rfl
  refine (congrArg (fun i : VI => ((Ty.ofCode i.ty).map fun ty => .vbcstImm i.vd i.imm ⟨i.g, i.gn⟩ ty : Option Instr)) (VI.of_word 0x43#8 ⟨vd, g.p, g.neg, ty.code, imm⟩)).trans ?_
  simp (disch := decide) only [Option.map_some, Ty.ofCode_code]

/-- vextImm. -/
theorem vextImm (sd : SReg) (a : RowSrc) (idx : Bits10) (ty : Ty) : Statement (.vextImm sd a idx ty) := by
  intro hw y hy
  cases hy
  refine decodeSyl_v _ _ 0x44#8 (VR.opc_word _ _) (by decide) ?_ hw rfl
  refine (rawVAt_of 0x44#8 ⟨(0#2 ++ sd), a.code, 0, 0, 0, false, ty.code, (2#2 ++ idx)⟩ ty a.src (.v 0) (.v 0) (by decide) (Ty.ofCode_code ty) (RowSrc.ofCode_code _) VSrc.ofCode_zero VSrc.ofCode_zero).trans ?_
  have e : ∀ (r : VR) (ty : Ty) (a b c : VSrc), rawVR 0x44 r ty a b c = (a.row.map fun ra => if r.aux.getLsbD 11 then .vextImm (r.vd.setWidth 5) ra (r.aux.setWidth 10) ty else .vextReg (r.vd.setWidth 5) ra (r.ob.setWidth 5) ty) := fun _ _ _ _ _ => rfl
  refine (e ⟨(0#2 ++ sd), a.code, 0, 0, 0, false, ty.code, (2#2 ++ idx)⟩ ty a.src (.v 0) (.v 0)).trans ?_
  simp (disch := decide) only [Option.map_some, extract_full, setWidth_append_low, getLsbD_append_high, Nat.reduceSub, RowSrc.src_row]
  rfl

/-- vextReg. -/
theorem vextReg (sd : SReg) (a : RowSrc) (si : SReg) (ty : Ty) : Statement (.vextReg sd a si ty) := by
  intro hw y hy
  cases hy
  refine decodeSyl_v _ _ 0x44#8 (VR.opc_word _ _) (by decide) ?_ hw rfl
  refine (rawVAt_of 0x44#8 ⟨(0#2 ++ sd), a.code, (VSrc.s si).code, 0, 0, false, ty.code, 0⟩ ty a.src (VSrc.s si) (.v 0) (by decide) (Ty.ofCode_code ty) (RowSrc.ofCode_code _) (VSrc.ofCode_code _) VSrc.ofCode_zero).trans ?_
  have e : ∀ (r : VR) (ty : Ty) (a b c : VSrc), rawVR 0x44 r ty a b c = (a.row.map fun ra => if r.aux.getLsbD 11 then .vextImm (r.vd.setWidth 5) ra (r.aux.setWidth 10) ty else .vextReg (r.vd.setWidth 5) ra (r.ob.setWidth 5) ty) := fun _ _ _ _ _ => rfl
  refine (e ⟨(0#2 ++ sd), a.code, (VSrc.s si).code, 0, 0, false, ty.code, 0⟩ ty a.src (VSrc.s si) (.v 0)).trans ?_
  simp (disch := decide) only [Option.map_some, VSrc.s_code_low, extract_full, setWidth_append_low, RowSrc.src_row]
  rfl

/-- vinsImm. -/
theorem vinsImm (vd : VReg) (sa : SReg) (idx : Bits10) (ty : Ty) : Statement (.vinsImm vd sa idx ty) := by
  intro hw y hy
  cases hy
  refine decodeSyl_v _ _ 0x45#8 (VR.opc_word _ _) (by decide) ?_ hw rfl
  refine (rawVAt_of 0x45#8 ⟨vd, (VSrc.s sa).code, 0, 0, 0, false, ty.code, (2#2 ++ idx)⟩ ty (VSrc.s sa) (.v 0) (.v 0) (by decide) (Ty.ofCode_code ty) (VSrc.ofCode_code _) VSrc.ofCode_zero VSrc.ofCode_zero).trans ?_
  have e : ∀ (r : VR) (ty : Ty) (a b c : VSrc), rawVR 0x45 r ty a b c = (some (if r.aux.getLsbD 11 then .vinsImm r.vd (r.oa.setWidth 5) (r.aux.setWidth 10) ty else .vinsReg r.vd (r.oa.setWidth 5) (r.ob.setWidth 5) ty)) := fun _ _ _ _ _ => rfl
  refine (e ⟨vd, (VSrc.s sa).code, 0, 0, 0, false, ty.code, (2#2 ++ idx)⟩ ty (VSrc.s sa) (.v 0) (.v 0)).trans ?_
  simp (disch := decide) only [VSrc.s_code_low, extract_full, setWidth_append_low, getLsbD_append_high, Nat.reduceSub]
  rfl

/-- vinsReg. -/
theorem vinsReg (vd : VReg) (sa : SReg) (si : SReg) (ty : Ty) : Statement (.vinsReg vd sa si ty) := by
  intro hw y hy
  cases hy
  refine decodeSyl_v _ _ 0x45#8 (VR.opc_word _ _) (by decide) ?_ hw rfl
  refine (rawVAt_of 0x45#8 ⟨vd, (VSrc.s sa).code, (VSrc.s si).code, 0, 0, false, ty.code, 0⟩ ty (VSrc.s sa) (VSrc.s si) (.v 0) (by decide) (Ty.ofCode_code ty) (VSrc.ofCode_code _) (VSrc.ofCode_code _) VSrc.ofCode_zero).trans ?_
  have e : ∀ (r : VR) (ty : Ty) (a b c : VSrc), rawVR 0x45 r ty a b c = (some (if r.aux.getLsbD 11 then .vinsImm r.vd (r.oa.setWidth 5) (r.aux.setWidth 10) ty else .vinsReg r.vd (r.oa.setWidth 5) (r.ob.setWidth 5) ty)) := fun _ _ _ _ _ => rfl
  refine (e ⟨vd, (VSrc.s sa).code, (VSrc.s si).code, 0, 0, false, ty.code, 0⟩ ty (VSrc.s sa) (VSrc.s si) (.v 0)).trans ?_
  simp (disch := decide) only [VSrc.s_code_low]
  rfl

/-- vshuf. -/
theorem vshuf (vd : VReg) (a : VSrc) (i : VSrc) (g : Guard) (ty : Ty) : Statement (.vshuf vd a i g ty) := by
  intro hw y hy
  cases hy
  refine decodeSyl_v _ _ 0x46#8 (VR.opc_word _ _) (by decide) ?_ hw rfl
  refine (rawVAt_of 0x46#8 ⟨vd, a.code, i.code, 0, g.p, g.neg, ty.code, 0⟩ ty a i (.v 0) (by decide) (Ty.ofCode_code ty) (VSrc.ofCode_code _) (VSrc.ofCode_code _) VSrc.ofCode_zero).trans ?_
  have e : ∀ (r : VR) (ty : Ty) (a b c : VSrc), rawVR 0x46 r ty a b c = (some (if r.aux.getLsbD 0 then .vshufTwo r.vd a b c ⟨r.g, r.gn⟩ ty else .vshuf r.vd a b ⟨r.g, r.gn⟩ ty)) := fun _ _ _ _ _ => rfl
  refine (e ⟨vd, a.code, i.code, 0, g.p, g.neg, ty.code, 0⟩ ty a i (.v 0)).trans ?_
  simp (disch := decide) only []
  rfl

/-- vshufTwo. -/
theorem vshufTwo (vd : VReg) (a : VSrc) (i : VSrc) (c : VSrc) (g : Guard) (ty : Ty) : Statement (.vshufTwo vd a i c g ty) := by
  intro hw y hy
  cases hy
  refine decodeSyl_v _ _ 0x46#8 (VR.opc_word _ _) (by decide) ?_ hw rfl
  refine (rawVAt_of 0x46#8 ⟨vd, a.code, i.code, c.code, g.p, g.neg, ty.code, 1⟩ ty a i c (by decide) (Ty.ofCode_code ty) (VSrc.ofCode_code _) (VSrc.ofCode_code _) (VSrc.ofCode_code _)).trans ?_
  have e : ∀ (r : VR) (ty : Ty) (a b c : VSrc), rawVR 0x46 r ty a b c = (some (if r.aux.getLsbD 0 then .vshufTwo r.vd a b c ⟨r.g, r.gn⟩ ty else .vshuf r.vd a b ⟨r.g, r.gn⟩ ty)) := fun _ _ _ _ _ => rfl
  refine (e ⟨vd, a.code, i.code, c.code, g.p, g.neg, ty.code, 1⟩ ty a i c).trans ?_
  simp (disch := decide) only []
  rfl

/-- vslideImm. -/
theorem vslideImm (vd : VReg) (a : VSrc) (b : VSrc) (n : Bits11) (g : Guard) (ty : Ty) : Statement (.vslideImm vd a b n g ty) := by
  intro hw y hy
  cases hy
  refine decodeSyl_v _ _ 0x47#8 (VR.opc_word _ _) (by decide) ?_ hw rfl
  refine (rawVAt_of 0x47#8 ⟨vd, a.code, b.code, 0, g.p, g.neg, ty.code, (1#1 ++ n)⟩ ty a b (.v 0) (by decide) (Ty.ofCode_code ty) (VSrc.ofCode_code _) (VSrc.ofCode_code _) VSrc.ofCode_zero).trans ?_
  have e : ∀ (r : VR) (ty : Ty) (a b c : VSrc), rawVR 0x47 r ty a b c = (some (if r.aux.getLsbD 11 then .vslideImm r.vd a b (r.aux.setWidth 11) ⟨r.g, r.gn⟩ ty else .vslideReg r.vd a b (r.oc.setWidth 5) ⟨r.g, r.gn⟩ ty)) := fun _ _ _ _ _ => rfl
  refine (e ⟨vd, a.code, b.code, 0, g.p, g.neg, ty.code, (1#1 ++ n)⟩ ty a b (.v 0)).trans ?_
  simp (disch := decide) only [extract_full, setWidth_append_low, getLsbD_append_high, Nat.reduceSub]
  rfl

/-- vslideReg. -/
theorem vslideReg (vd : VReg) (a : VSrc) (b : VSrc) (sc : SReg) (g : Guard) (ty : Ty) : Statement (.vslideReg vd a b sc g ty) := by
  intro hw y hy
  cases hy
  refine decodeSyl_v _ _ 0x47#8 (VR.opc_word _ _) (by decide) ?_ hw rfl
  refine (rawVAt_of 0x47#8 ⟨vd, a.code, b.code, (VSrc.s sc).code, g.p, g.neg, ty.code, 0⟩ ty a b (VSrc.s sc) (by decide) (Ty.ofCode_code ty) (VSrc.ofCode_code _) (VSrc.ofCode_code _) (VSrc.ofCode_code _)).trans ?_
  have e : ∀ (r : VR) (ty : Ty) (a b c : VSrc), rawVR 0x47 r ty a b c = (some (if r.aux.getLsbD 11 then .vslideImm r.vd a b (r.aux.setWidth 11) ⟨r.g, r.gn⟩ ty else .vslideReg r.vd a b (r.oc.setWidth 5) ⟨r.g, r.gn⟩ ty)) := fun _ _ _ _ _ => rfl
  refine (e ⟨vd, a.code, b.code, (VSrc.s sc).code, g.p, g.neg, ty.code, 0⟩ ty a b (VSrc.s sc)).trans ?_
  simp (disch := decide) only [VSrc.s_code_low]
  rfl

/-- vcmpr. -/
theorem vcmpr (vd : VReg) (a : VSrc) (g : Guard) (ty : Ty) : Statement (.vcmpr vd a g ty) := by
  intro hw y hy
  cases hy
  refine decodeSyl_v _ _ 0x4A#8 (VR.opc_word _ _) (by decide) ?_ hw rfl
  exact rawVAt_of 0x4A#8 ⟨vd, a.code, 0, 0, g.p, g.neg, ty.code, 0⟩ ty a (.v 0) (.v 0) (by decide) (Ty.ofCode_code ty) (VSrc.ofCode_code _) VSrc.ofCode_zero VSrc.ofCode_zero

/-- vred. -/
theorem vred (vd : VReg) (a : VSrc) (op : RedOp) (g : Guard) (ty : Ty) : Statement (.vred vd a op g ty) := by
  intro hw y hy
  cases hy
  refine decodeSyl_v _ _ 0x48#8 (VR.opc_word _ _) (by decide) ?_ hw rfl
  refine (rawVAt_of 0x48#8 ⟨vd, a.code, 0, 0, g.p, g.neg, ty.code, (0#9 ++ op.code)⟩ ty a (.v 0) (.v 0) (by decide) (Ty.ofCode_code ty) (VSrc.ofCode_code _) VSrc.ofCode_zero VSrc.ofCode_zero).trans ?_
  have e : ∀ (r : VR) (ty : Ty) (a b c : VSrc), rawVR 0x48 r ty a b c = ((RedOp.ofCode (r.aux.setWidth 3)).map fun op => .vred r.vd a op ⟨r.g, r.gn⟩ ty) := fun _ _ _ _ _ => rfl
  refine (e ⟨vd, a.code, 0, 0, g.p, g.neg, ty.code, (0#9 ++ op.code)⟩ ty a (.v 0) (.v 0)).trans ?_
  simp (disch := decide) only [Option.map_some, extract_full, setWidth_append_low, RedOp.ofCode_code]

/-- vscan. -/
theorem vscan (vd : VReg) (a : VSrc) (op : RedOp) (g : Guard) (ty : Ty) : Statement (.vscan vd a op g ty) := by
  intro hw y hy
  cases hy
  refine decodeSyl_v _ _ 0x49#8 (VR.opc_word _ _) (by decide) ?_ hw rfl
  refine (rawVAt_of 0x49#8 ⟨vd, a.code, 0, 0, g.p, g.neg, ty.code, (0#9 ++ op.code)⟩ ty a (.v 0) (.v 0) (by decide) (Ty.ofCode_code ty) (VSrc.ofCode_code _) VSrc.ofCode_zero VSrc.ofCode_zero).trans ?_
  have e : ∀ (r : VR) (ty : Ty) (a b c : VSrc), rawVR 0x49 r ty a b c = ((RedOp.ofCode (r.aux.setWidth 3)).map fun op => .vscan r.vd a op ⟨r.g, r.gn⟩ ty) := fun _ _ _ _ _ => rfl
  refine (e ⟨vd, a.code, 0, 0, g.p, g.neg, ty.code, (0#9 ++ op.code)⟩ ty a (.v 0) (.v 0)).trans ?_
  simp (disch := decide) only [Option.map_some, extract_full, setWidth_append_low, RedOp.ofCode_code]

/-- vcvt. -/
theorem vcvt (vd : VReg) (a : VSrc) (g : Guard) (td : Ty) (ts : Ty) (part : Bits3) (sat : Bool) : Statement (.vcvt vd a g td ts part sat) := by
  intro hw y hy
  cases hy
  refine decodeSyl_v _ _ 0x50#8 (VR.opc_word _ _) (by decide) ?_ hw rfl
  refine (rawVAt_of 0x50#8 ⟨vd, a.code, 0, 0, g.p, g.neg, td.code, 0#3 ++ bit1 sat ++ part ++ ts.code⟩ td a (.v 0) (.v 0) (by decide) (Ty.ofCode_code td) (VSrc.ofCode_code _) VSrc.ofCode_zero VSrc.ofCode_zero).trans ?_
  have e : ∀ (r : VR) (ty : Ty) (a b c : VSrc), rawVR 0x50 r ty a b c = ((Ty.ofCode (r.aux.setWidth 5)).map fun ts => .vcvt r.vd a ⟨r.g, r.gn⟩ ty ts (r.aux.extractLsb' 5 3) (r.aux.getLsbD 8)) := fun _ _ _ _ _ => rfl
  refine (e ⟨vd, a.code, 0, 0, g.p, g.neg, td.code, 0#3 ++ bit1 sat ++ part ++ ts.code⟩ td a (.v 0) (.v 0)).trans ?_
  simp (disch := decide) only [Option.map_some, extract_append_low, extract_append_high, extract_full, setWidth_append_low, getLsbD_append_low, getLsbD_append_high, bit1_getLsbD, Nat.reduceSub, Ty.ofCode_code]

/-- vqmx. -/
theorem vqmx (vd : VReg) (a : VSrc) (te : Ty) (ss : SReg) (part : Bits3) : Statement (.vqmx vd a te ss part) := by
  intro hw y hy
  cases hy
  refine decodeSyl_v _ _ 0x51#8 (VR.opc_word _ _) (by decide) ?_ hw rfl
  refine (rawVAt_of 0x51#8 ⟨vd, a.code, 0, 0, 0, false, te.code, 0#4 ++ part ++ ss⟩ te a (.v 0) (.v 0) (by decide) (Ty.ofCode_code te) (VSrc.ofCode_code _) VSrc.ofCode_zero VSrc.ofCode_zero).trans ?_
  have e : ∀ (r : VR) (ty : Ty) (a b c : VSrc), rawVR 0x51 r ty a b c = (some (.vqmx r.vd a ty (r.aux.setWidth 5) (r.aux.extractLsb' 5 3))) := fun _ _ _ _ _ => rfl
  refine (e ⟨vd, a.code, 0, 0, 0, false, te.code, 0#4 ++ part ++ ss⟩ te a (.v 0) (.v 0)).trans ?_
  simp (disch := decide) only [extract_append_low, extract_append_high, extract_full, setWidth_append_low, Nat.reduceSub]

/-- vdqmx. -/
theorem vdqmx (vd : VReg) (a : RowSrc) (te : Ty) (ss : SReg) (part : Bits3) : Statement (.vdqmx vd a te ss part) := by
  intro hw y hy
  cases hy
  refine decodeSyl_v _ _ 0x52#8 (VR.opc_word _ _) (by decide) ?_ hw rfl
  refine (rawVAt_of 0x52#8 ⟨vd, a.code, (VSrc.s ss).code, 0, 0, false, Ty.f32.code, 0#4 ++ part ++ te.code⟩ Ty.f32 a.src (VSrc.s ss) (.v 0) (by decide) (Ty.ofCode_code Ty.f32) (RowSrc.ofCode_code _) (VSrc.ofCode_code _) VSrc.ofCode_zero).trans ?_
  have e : ∀ (r : VR) (ty : Ty) (a b c : VSrc), rawVR 0x52 r ty a b c = (a.row.bind fun ra => (Ty.ofCode (r.aux.setWidth 5)).map fun te => .vdqmx r.vd ra te (r.ob.setWidth 5) (r.aux.extractLsb' 5 3)) := fun _ _ _ _ _ => rfl
  refine (e ⟨vd, a.code, (VSrc.s ss).code, 0, 0, false, Ty.f32.code, 0#4 ++ part ++ te.code⟩ Ty.f32 a.src (VSrc.s ss) (.v 0)).trans ?_
  simp (disch := decide) only [Option.map_some, Option.bind_some, VSrc.s_code_low, extract_append_low, extract_append_high, extract_full, setWidth_append_low, Nat.reduceSub, Ty.ofCode_code, RowSrc.src_row]

/-- vrnd. -/
theorem vrnd (vd : VReg) (a : VSrc) (mode : Bits3) (g : Guard) (ty : Ty) : Statement (.vrnd vd a mode g ty) := by
  intro hw y hy
  cases hy
  refine decodeSyl_v _ _ 0x53#8 (VR.opc_word _ _) (by decide) ?_ hw rfl
  refine (rawVAt_of 0x53#8 ⟨vd, a.code, 0, 0, g.p, g.neg, ty.code, (0#9 ++ mode)⟩ ty a (.v 0) (.v 0) (by decide) (Ty.ofCode_code ty) (VSrc.ofCode_code _) VSrc.ofCode_zero VSrc.ofCode_zero).trans ?_
  have e : ∀ (r : VR) (ty : Ty) (a b c : VSrc), rawVR 0x53 r ty a b c = (some (.vrnd r.vd a (r.aux.setWidth 3) ⟨r.g, r.gn⟩ ty)) := fun _ _ _ _ _ => rfl
  refine (e ⟨vd, a.code, 0, 0, g.p, g.neg, ty.code, (0#9 ++ mode)⟩ ty a (.v 0) (.v 0)).trans ?_
  simp (disch := decide) only [extract_full, setWidth_append_low]

/-- vdelt. -/
theorem vdelt (vd : VReg) (a : VSrc) (b : VSrc) (sc : SReg) (slot : Slot) (g : Guard) (ty : Ty) : Statement (.vdelt vd a b sc slot g ty) := by
  intro hw y hy
  cases hy
  refine decodeSyl_v _ _ 0x58#8 (VR.opc_word _ _) (by decide) ?_ hw rfl
  refine (rawVAt_of 0x58#8 ⟨vd, a.code, b.code, (VSrc.s sc).code, g.p, g.neg, ty.code, (0#4 ++ slot)⟩ ty a b (VSrc.s sc) (by decide) (Ty.ofCode_code ty) (VSrc.ofCode_code _) (VSrc.ofCode_code _) (VSrc.ofCode_code _)).trans ?_
  have e : ∀ (r : VR) (ty : Ty) (a b c : VSrc), rawVR 0x58 r ty a b c = (some (.vdelt r.vd a b (r.oc.setWidth 5) (r.aux.setWidth 8) ⟨r.g, r.gn⟩ ty)) := fun _ _ _ _ _ => rfl
  refine (e ⟨vd, a.code, b.code, (VSrc.s sc).code, g.p, g.neg, ty.code, (0#4 ++ slot)⟩ ty a b (VSrc.s sc)).trans ?_
  simp (disch := decide) only [VSrc.s_code_low, extract_full, setWidth_append_low]

/-- mma. -/
theorem mma (q : MatQ) (e : EngArgs) : Statement (.mma q e) := by
  intro hw y hy
  cases hy
  refine decodeSyl_x _ _ 0x01#8 (XE.opc_word _ _) (by decide) ?_ hw rfl
  refine (congrArg (fun c : XE => ((MatQ.ofCode c.q).map fun q => .mma q c.args : Option Instr)) (XE.of_word 0x01#8 ⟨q.code, e.wt, e.sg, e.ap, e.ss, e.slk, 0⟩)).trans ?_
  simp (disch := decide) only [Option.map_some, MatQ.ofCode_code]
  rfl

/-- mmad. -/
theorem mmad (q : MatQ) (e : EngArgs) : Statement (.mmad q e) := by
  intro hw y hy
  cases hy
  refine decodeSyl_x _ _ 0x02#8 (XE.opc_word _ _) (by decide) ?_ hw rfl
  refine (congrArg (fun c : XE => ((MatQ.ofCode c.q).map fun q => .mmad q c.args : Option Instr)) (XE.of_word 0x02#8 ⟨q.code, e.wt, e.sg, e.ap, e.ss, e.slk, 0⟩)).trans ?_
  simp (disch := decide) only [Option.map_some, MatQ.ofCode_code]
  rfl

/-- mzero. -/
theorem mzero (q : MatQ) (row : Bits11) (rows : Bits11) (lh : Bool) (wt : SemR) (sg : SemR) (ss : SReg) (slk : Bits8) : Statement (.mzero q row rows lh wt sg ss slk) := by
  intro hw y hy
  cases hy
  refine decodeSyl_x _ _ 0x03#8 (XE.opc_word _ _) (by decide) ?_ hw rfl
  refine (congrArg (fun c : XE => ((MatQ.ofCode c.q).map fun q => .mzero q (c.aux.extractLsb' 0 11) (c.aux.extractLsb' 11 11) (c.aux.getLsbD 22) c.wt c.st c.ss c.slk : Option Instr)) (XE.of_word 0x03#8 ⟨q.code, wt, sg, 0, ss, slk, 0#6 ++ bit1 lh ++ rows ++ row⟩)).trans ?_
  simp (disch := decide) only [Option.map_some, extract_append_low, extract_append_high, extract_full, getLsbD_append_low, getLsbD_append_high, bit1_getLsbD, Nat.reduceSub, MatQ.ofCode_code]

/-- mepi. -/
theorem mepi (q : MatQ) (e : EngArgs) : Statement (.mepi q e) := by
  intro hw y hy
  cases hy
  refine decodeSyl_x _ _ 0x04#8 (XE.opc_word _ _) (by decide) ?_ hw rfl
  refine (congrArg (fun c : XE => ((MatQ.ofCode c.q).map fun q => .mepi q c.args : Option Instr)) (XE.of_word 0x04#8 ⟨q.code, e.wt, e.sg, e.ap, e.ss, e.slk, 0⟩)).trans ?_
  simp (disch := decide) only [Option.map_some, MatQ.ofCode_code]
  rfl

/-- ovpop. -/
theorem ovpop (sd : SReg) : Statement (.ovpop sd) := by
  intro hw y hy
  cases hy
  refine decodeSyl_x _ _ 0x05#8 (XR.opc_word _ _) (by decide) ?_ hw rfl
  exact congrArg (fun r : XR => (some (.ovpop r.xd) : Option Instr)) (XR.of_word 0x05#8 ⟨sd, 0, 0, 0, 0⟩)

/-- wload. -/
theorem wload (q : MatQ) (e : EngArgs) : Statement (.wload q e) := by
  intro hw y hy
  cases hy
  refine decodeSyl_x _ _ 0x06#8 (XE.opc_word _ _) (by decide) ?_ hw rfl
  refine (congrArg (fun c : XE => ((MatQ.ofCode c.q).map fun q => .wload q c.args : Option Instr)) (XE.of_word 0x06#8 ⟨q.code, e.wt, e.sg, e.ap, e.ss, e.slk, 0⟩)).trans ?_
  simp (disch := decide) only [Option.map_some, MatQ.ofCode_code]
  rfl

/-- txfer. -/
theorem txfer (e : EngArgs) : Statement (.txfer e) := by
  intro hw y hy
  cases hy
  refine decodeSyl_x _ _ 0x10#8 (XE.opc_word _ _) (by decide) ?_ hw rfl
  exact congrArg (fun c : XE => (some (.txfer c.args) : Option Instr)) (XE.of_word 0x10#8 ⟨0, e.wt, e.sg, e.ap, e.ss, e.slk, 0⟩)

/-- tfill. -/
theorem tfill (e : EngArgs) : Statement (.tfill e) := by
  intro hw y hy
  cases hy
  refine decodeSyl_x _ _ 0x11#8 (XE.opc_word _ _) (by decide) ?_ hw rfl
  exact congrArg (fun c : XE => (some (.tfill c.args) : Option Instr)) (XE.of_word 0x11#8 ⟨0, e.wt, e.sg, e.ap, e.ss, e.slk, 0⟩)

/-- tdrain. -/
theorem tdrain (e : EngArgs) : Statement (.tdrain e) := by
  intro hw y hy
  cases hy
  refine decodeSyl_x _ _ 0x12#8 (XE.opc_word _ _) (by decide) ?_ hw rfl
  exact congrArg (fun c : XE => (some (.tdrain c.args) : Option Instr)) (XE.of_word 0x12#8 ⟨0, e.wt, e.sg, e.ap, e.ss, e.slk, 0⟩)

/-- tmcast. -/
theorem tmcast (e : EngArgs) : Statement (.tmcast e) := by
  intro hw y hy
  cases hy
  refine decodeSyl_x _ _ 0x13#8 (XE.opc_word _ _) (by decide) ?_ hw rfl
  exact congrArg (fun c : XE => (some (.tmcast c.args) : Option Instr)) (XE.of_word 0x13#8 ⟨0, e.wt, e.sg, e.ap, e.ss, e.slk, 0⟩)

/-- tlook. -/
theorem tlook (sd : SReg) (sa : SReg) : Statement (.tlook sd sa) := by
  intro hw y hy
  cases hy
  refine decodeSyl_x _ _ 0x14#8 (XR.opc_word _ _) (by decide) ?_ hw rfl
  exact congrArg (fun r : XR => (some (.tlook r.xd r.xa) : Option Instr)) (XR.of_word 0x14#8 ⟨sd, sa, 0, 0, 0⟩)

/-- tclaimAuto. -/
theorem tclaimAuto (sd : SReg) (sa : SReg) : Statement (.tclaimAuto sd sa) := by
  intro hw y hy
  cases hy
  refine decodeSyl_x _ _ 0x15#8 (XR.opc_word _ _) (by decide) ?_ hw rfl
  refine (congrArg (fun r : XR => (some (if r.imm.getLsbD 8 then .tclaimNamed r.xd r.xa (r.imm.setWidth 8) else .tclaimAuto r.xd r.xa) : Option Instr)) (XR.of_word 0x15#8 ⟨sd, sa, 0, 0, 0⟩)).trans ?_
  simp (disch := decide) only []
  rfl

/-- tclaimNamed. -/
theorem tclaimNamed (sd : SReg) (sa : SReg) (slot : Slot) : Statement (.tclaimNamed sd sa slot) := by
  intro hw y hy
  cases hy
  refine decodeSyl_x _ _ 0x15#8 (XR.opc_word _ _) (by decide) ?_ hw rfl
  refine (congrArg (fun r : XR => (some (if r.imm.getLsbD 8 then .tclaimNamed r.xd r.xa (r.imm.setWidth 8) else .tclaimAuto r.xd r.xa) : Option Instr)) (XR.of_word 0x15#8 ⟨sd, sa, 0, 0, 0#27 ++ 1#1 ++ slot⟩)).trans ?_
  simp (disch := decide) only [extract_full, setWidth_append_low, getLsbD_append_low, getLsbD_append_high, Nat.reduceSub]
  rfl

/-- tfreeNamed. -/
theorem tfreeNamed (slot : Slot) : Statement (.tfreeNamed slot) := by
  intro hw y hy
  cases hy
  refine decodeSyl_x _ _ 0x16#8 (XR.opc_word _ _) (by decide) ?_ hw rfl
  refine (congrArg (fun r : XR => (some (if r.imm.getLsbD 8 then .tfreeNamed (r.imm.setWidth 8) else .tfreeReg r.xa) : Option Instr)) (XR.of_word 0x16#8 ⟨0, 0, 0, 0, 0#27 ++ 1#1 ++ slot⟩)).trans ?_
  simp (disch := decide) only [extract_full, setWidth_append_low, getLsbD_append_low, getLsbD_append_high, Nat.reduceSub]
  rfl

/-- tfreeReg. -/
theorem tfreeReg (sa : SReg) : Statement (.tfreeReg sa) := by
  intro hw y hy
  cases hy
  refine decodeSyl_x _ _ 0x16#8 (XR.opc_word _ _) (by decide) ?_ hw rfl
  refine (congrArg (fun r : XR => (some (if r.imm.getLsbD 8 then .tfreeNamed (r.imm.setWidth 8) else .tfreeReg r.xa) : Option Instr)) (XR.of_word 0x16#8 ⟨0, sa, 0, 0, 0⟩)).trans ?_
  simp (disch := decide) only []
  rfl

/-- tstatNamed. -/
theorem tstatNamed (sd : SReg) (slot : Slot) : Statement (.tstatNamed sd slot) := by
  intro hw y hy
  cases hy
  refine decodeSyl_x _ _ 0x17#8 (XR.opc_word _ _) (by decide) ?_ hw rfl
  refine (congrArg (fun r : XR => (some (if r.imm.getLsbD 8 then .tstatNamed r.xd (r.imm.setWidth 8) else .tstatReg r.xd r.xa) : Option Instr)) (XR.of_word 0x17#8 ⟨sd, 0, 0, 0, 0#27 ++ 1#1 ++ slot⟩)).trans ?_
  simp (disch := decide) only [extract_full, setWidth_append_low, getLsbD_append_low, getLsbD_append_high, Nat.reduceSub]
  rfl

/-- tstatReg. -/
theorem tstatReg (sd : SReg) (sa : SReg) : Statement (.tstatReg sd sa) := by
  intro hw y hy
  cases hy
  refine decodeSyl_x _ _ 0x17#8 (XR.opc_word _ _) (by decide) ?_ hw rfl
  refine (congrArg (fun r : XR => (some (if r.imm.getLsbD 8 then .tstatNamed r.xd (r.imm.setWidth 8) else .tstatReg r.xd r.xa) : Option Instr)) (XR.of_word 0x17#8 ⟨sd, sa, 0, 0, 0⟩)).trans ?_
  simp (disch := decide) only []
  rfl

/-- sigImm. -/
theorem sigImm (sem : SemR) (amt : Bits8) : Statement (.sigImm sem amt) := by
  intro hw y hy
  cases hy
  refine decodeSyl_x _ _ 0x20#8 (XR.opc_word _ _) (by decide) ?_ hw rfl
  refine (congrArg (fun r : XR => (some (if r.xa = 0 then .sigImm (r.imm.setWidth 4) (r.imm.extractLsb' 4 8) else .sigReg (r.imm.setWidth 4) r.xa) : Option Instr)) (XR.of_word 0x20#8 ⟨0, 0, 0, 0, 0#24 ++ amt ++ sem⟩)).trans ?_
  simp (disch := decide) only [extract_append_low, extract_append_high, extract_full, setWidth_append_low, Nat.reduceSub]
  rfl

/-- sigReg. -/
theorem sigReg (sem : SemR) (sa : SReg) : Statement (.sigReg sem sa) := by
  intro hw y hy
  cases hy
  refine decodeSyl_x _ _ 0x20#8 (XR.opc_word _ _) (by decide) ?_ hw rfl
  have hn : sa ≠ 0 := by
    simp [Instr.wf] at hw
    simp [hw]
  refine (congrArg (fun r : XR => (some (if r.xa = 0 then .sigImm (r.imm.setWidth 4) (r.imm.extractLsb' 4 8) else .sigReg (r.imm.setWidth 4) r.xa) : Option Instr)) (XR.of_word 0x20#8 ⟨0, sa, 0, 0, 0#32 ++ sem⟩)).trans ?_
  simp (disch := decide) only [extract_append_high, extract_full, setWidth_append_low, Nat.reduceSub, if_neg hn]

/-- swait. -/
theorem swait (sem : SemR) (amt : Bits8) : Statement (.swait sem amt) := by
  intro hw y hy
  cases hy
  refine decodeSyl_x _ _ 0x21#8 (XR.opc_word _ _) (by decide) ?_ hw rfl
  refine (congrArg (fun r : XR => (some (.swait (r.imm.setWidth 4) (r.imm.extractLsb' 4 8)) : Option Instr)) (XR.of_word 0x21#8 ⟨0, 0, 0, 0, 0#24 ++ amt ++ sem⟩)).trans ?_
  simp (disch := decide) only [extract_append_low, extract_append_high, extract_full, setWidth_append_low, Nat.reduceSub]

/-- semrSem. -/
theorem semrSem (sd : SReg) (sem : SemR) : Statement (.semrSem sd sem) := by
  intro hw y hy
  cases hy
  refine decodeSyl_x _ _ 0x22#8 (XR.opc_word _ _) (by decide) ?_ hw rfl
  refine (congrArg (fun r : XR => (match (r.imm.extractLsb' 0 4).toNat with | 0 => some (.semrSem r.xd (r.imm.extractLsb' 4 4)) | 1 => some (.semrOvf r.xd) | 2 => (EngQ.ofCode (r.imm.extractLsb' 8 2)).map fun q => .semrEnt r.xd r.xa q (r.imm.extractLsb' 12 3) | 3 => (EngQ.ofCode (r.imm.extractLsb' 8 2)).map fun q => .semrCfg r.xd q | _ => none : Option Instr)) (XR.of_word 0x22#8 ⟨sd, 0, 0, 0, 0#28 ++ sem ++ 0#4⟩)).trans ?_
  simp (disch := decide) only [extract_append_low, extract_append_high, extract_full, Nat.reduceSub]
  rfl

/-- semrOvf. -/
theorem semrOvf (sd : SReg) : Statement (.semrOvf sd) := by
  intro hw y hy
  cases hy
  refine decodeSyl_x _ _ 0x22#8 (XR.opc_word _ _) (by decide) ?_ hw rfl
  refine (congrArg (fun r : XR => (match (r.imm.extractLsb' 0 4).toNat with | 0 => some (.semrSem r.xd (r.imm.extractLsb' 4 4)) | 1 => some (.semrOvf r.xd) | 2 => (EngQ.ofCode (r.imm.extractLsb' 8 2)).map fun q => .semrEnt r.xd r.xa q (r.imm.extractLsb' 12 3) | 3 => (EngQ.ofCode (r.imm.extractLsb' 8 2)).map fun q => .semrCfg r.xd q | _ => none : Option Instr)) (XR.of_word 0x22#8 ⟨sd, 0, 0, 0, 1⟩)).trans ?_
  simp (disch := decide) only []
  rfl

/-- semrEnt. -/
theorem semrEnt (sd : SReg) (sa : SReg) (q : EngQ) (word : Bits3) : Statement (.semrEnt sd sa q word) := by
  intro hw y hy
  cases hy
  refine decodeSyl_x _ _ 0x22#8 (XR.opc_word _ _) (by decide) ?_ hw rfl
  refine (congrArg (fun r : XR => (match (r.imm.extractLsb' 0 4).toNat with | 0 => some (.semrSem r.xd (r.imm.extractLsb' 4 4)) | 1 => some (.semrOvf r.xd) | 2 => (EngQ.ofCode (r.imm.extractLsb' 8 2)).map fun q => .semrEnt r.xd r.xa q (r.imm.extractLsb' 12 3) | 3 => (EngQ.ofCode (r.imm.extractLsb' 8 2)).map fun q => .semrCfg r.xd q | _ => none : Option Instr)) (XR.of_word 0x22#8 ⟨sd, sa, 0, 0, 0#21 ++ word ++ 0#2 ++ q.code ++ 0#4 ++ 2#4⟩)).trans ?_
  simp (disch := decide) only [Option.map_some, extract_append_low, extract_append_high, extract_full, Nat.reduceSub, EngQ.ofCode_code]
  rfl

/-- semrCfg. -/
theorem semrCfg (sd : SReg) (q : EngQ) : Statement (.semrCfg sd q) := by
  intro hw y hy
  cases hy
  refine decodeSyl_x _ _ 0x22#8 (XR.opc_word _ _) (by decide) ?_ hw rfl
  refine (congrArg (fun r : XR => (match (r.imm.extractLsb' 0 4).toNat with | 0 => some (.semrSem r.xd (r.imm.extractLsb' 4 4)) | 1 => some (.semrOvf r.xd) | 2 => (EngQ.ofCode (r.imm.extractLsb' 8 2)).map fun q => .semrEnt r.xd r.xa q (r.imm.extractLsb' 12 3) | 3 => (EngQ.ofCode (r.imm.extractLsb' 8 2)).map fun q => .semrCfg r.xd q | _ => none : Option Instr)) (XR.of_word 0x22#8 ⟨sd, 0, 0, 0, 0#26 ++ q.code ++ 0#4 ++ 3#4⟩)).trans ?_
  simp (disch := decide) only [Option.map_some, extract_append_low, extract_append_high, extract_full, Nat.reduceSub, EngQ.ofCode_code]
  rfl

/-- eqflushD. -/
theorem eqflushD (q : EngQ) : Statement (.eqflushD q) := by
  intro hw y hy
  cases hy
  refine decodeSyl_x _ _ 0x23#8 (XR.opc_word _ _) (by decide) ?_ hw rfl
  refine (congrArg (fun r : XR => ((EngQ.ofCode (r.imm.extractLsb' 0 2)).map fun q => if r.imm.getLsbD 4 then .eqflushR q r.xb else .eqflushD q : Option Instr)) (XR.of_word 0x23#8 ⟨0, 0, 0, 0, 0#34 ++ q.code⟩)).trans ?_
  simp (disch := decide) only [Option.map_some, extract_append_low, extract_full, getLsbD_append_high, Nat.reduceSub, EngQ.ofCode_code]
  rfl

/-- eqflushR. -/
theorem eqflushR (q : EngQ) (sb : SReg) : Statement (.eqflushR q sb) := by
  intro hw y hy
  cases hy
  refine decodeSyl_x _ _ 0x23#8 (XR.opc_word _ _) (by decide) ?_ hw rfl
  refine (congrArg (fun r : XR => ((EngQ.ofCode (r.imm.extractLsb' 0 2)).map fun q => if r.imm.getLsbD 4 then .eqflushR q r.xb else .eqflushD q : Option Instr)) (XR.of_word 0x23#8 ⟨0, 0, sb, 0, 0#31 ++ 1#1 ++ 0#2 ++ q.code⟩)).trans ?_
  simp (disch := decide) only [Option.map_some, extract_append_low, extract_full, getLsbD_append_low, getLsbD_append_high, Nat.reduceSub, EngQ.ofCode_code]
  rfl

/-- qpush. -/
theorem qpush (sd : SReg) (sa : SReg) (ab : AReg) (sc : SReg) (wait : Bits20) (sem : SemR) : Statement (.qpush sd sa ab sc wait sem) := by
  intro hw y hy
  cases hy
  refine decodeSyl_x _ _ 0x28#8 (XR.opc_word _ _) (by decide) ?_ hw rfl
  refine (congrArg (fun r : XR => (some (if r.imm.getLsbD 24 then .qpushA r.xd r.xa (r.xb.setWidth 4) r.xc (r.imm.setWidth 20) (r.imm.extractLsb' 20 4) else .qpush r.xd r.xa (r.xb.setWidth 4) r.xc (r.imm.setWidth 20) (r.imm.extractLsb' 20 4)) : Option Instr)) (XR.of_word 0x28#8 ⟨sd, sa, 0#1 ++ ab, sc, 0#11 ++ 0#1 ++ sem ++ wait⟩)).trans ?_
  simp (disch := decide) only [extract_append_low, extract_append_high, extract_full, setWidth_append_low, getLsbD_append_low, getLsbD_append_high, Nat.reduceSub]
  rfl

/-- qpushA. -/
theorem qpushA (sd : SReg) (sa : SReg) (ab : AReg) (sc : SReg) (wait : Bits20) (sem : SemR) : Statement (.qpushA sd sa ab sc wait sem) := by
  intro hw y hy
  cases hy
  refine decodeSyl_x _ _ 0x28#8 (XR.opc_word _ _) (by decide) ?_ hw rfl
  refine (congrArg (fun r : XR => (some (if r.imm.getLsbD 24 then .qpushA r.xd r.xa (r.xb.setWidth 4) r.xc (r.imm.setWidth 20) (r.imm.extractLsb' 20 4) else .qpush r.xd r.xa (r.xb.setWidth 4) r.xc (r.imm.setWidth 20) (r.imm.extractLsb' 20 4)) : Option Instr)) (XR.of_word 0x28#8 ⟨sd, sa, 0#1 ++ ab, sc, 0#11 ++ 1#1 ++ sem ++ wait⟩)).trans ?_
  simp (disch := decide) only [extract_append_low, extract_append_high, extract_full, setWidth_append_low, getLsbD_append_low, getLsbD_append_high, Nat.reduceSub]
  rfl

/-- qpop. -/
theorem qpop (sd : SReg) (sa : SReg) (ab : AReg) (sc : SReg) (wait : Bits20) (sem : SemR) : Statement (.qpop sd sa ab sc wait sem) := by
  intro hw y hy
  cases hy
  refine decodeSyl_x _ _ 0x29#8 (XR.opc_word _ _) (by decide) ?_ hw rfl
  refine (congrArg (fun r : XR => (some (.qpop r.xd r.xa (r.xb.setWidth 4) r.xc (r.imm.setWidth 20) (r.imm.extractLsb' 20 4)) : Option Instr)) (XR.of_word 0x29#8 ⟨sd, sa, 0#1 ++ ab, sc, 0#11 ++ 0#1 ++ sem ++ wait⟩)).trans ?_
  simp (disch := decide) only [extract_append_low, extract_append_high, extract_full, setWidth_append_low, Nat.reduceSub]

/-- qstat. -/
theorem qstat (sd : SReg) (sa : SReg) (field : Bits2) : Statement (.qstat sd sa field) := by
  intro hw y hy
  cases hy
  refine decodeSyl_x _ _ 0x2A#8 (XR.opc_word _ _) (by decide) ?_ hw rfl
  refine (congrArg (fun r : XR => (some (.qstat r.xd r.xa (r.imm.setWidth 2)) : Option Instr)) (XR.of_word 0x2A#8 ⟨sd, sa, 0, 0, 0#34 ++ field⟩)).trans ?_
  simp (disch := decide) only [extract_full, setWidth_append_low]

/-- bari. -/
theorem bari (bid : Bits4) (lw : Bits2) (lh : Bits2) (n : Bits12) : Statement (.bari bid lw lh n) := by
  intro hw y hy
  cases hy
  refine decodeSyl_x _ _ 0x30#8 (XR.opc_word _ _) (by decide) ?_ hw rfl
  refine (congrArg (fun r : XR => (some (.bari (r.imm.setWidth 4) (r.imm.extractLsb' 4 2) (r.imm.extractLsb' 6 2) (r.imm.extractLsb' 15 12)) : Option Instr)) (XR.of_word 0x30#8 ⟨0, 0, 0, 0, 0#9 ++ n ++ 0#3 ++ 0#4 ++ lh ++ lw ++ bid⟩)).trans ?_
  simp (disch := decide) only [extract_append_low, extract_append_high, extract_full, setWidth_append_low, Nat.reduceSub]

/-- bara. -/
theorem bara (sd : SReg) (bid : Bits4) (lw : Bits2) (lh : Bits2) (sem : SemR) (scp : Scope) : Statement (.bara sd bid lw lh sem scp) := by
  intro hw y hy
  cases hy
  refine decodeSyl_x _ _ 0x31#8 (XR.opc_word _ _) (by decide) ?_ hw rfl
  refine (congrArg (fun r : XR => ((Scope.ofCode (r.imm.extractLsb' 12 3)).map fun scp => .bara r.xd (r.imm.setWidth 4) (r.imm.extractLsb' 4 2) (r.imm.extractLsb' 6 2) (r.imm.extractLsb' 8 4) scp : Option Instr)) (XR.of_word 0x31#8 ⟨sd, 0, 0, 0, 0#21 ++ scp.code ++ sem ++ lh ++ lw ++ bid⟩)).trans ?_
  simp (disch := decide) only [Option.map_some, extract_append_low, extract_append_high, extract_full, setWidth_append_low, Nat.reduceSub, Scope.ofCode_code]

/-- barw. -/
theorem barw (sd : SReg) (bid : Bits4) (lw : Bits2) (lh : Bits2) (sa : SReg) (sem : SemR) (scp : Scope) : Statement (.barw sd bid lw lh sa sem scp) := by
  intro hw y hy
  cases hy
  refine decodeSyl_x _ _ 0x32#8 (XR.opc_word _ _) (by decide) ?_ hw rfl
  refine (congrArg (fun r : XR => ((Scope.ofCode (r.imm.extractLsb' 12 3)).map fun scp => .barw r.xd (r.imm.setWidth 4) (r.imm.extractLsb' 4 2) (r.imm.extractLsb' 6 2) r.xa (r.imm.extractLsb' 8 4) scp : Option Instr)) (XR.of_word 0x32#8 ⟨sd, sa, 0, 0, 0#21 ++ scp.code ++ sem ++ lh ++ lw ++ bid⟩)).trans ?_
  simp (disch := decide) only [Option.map_some, extract_append_low, extract_append_high, extract_full, setWidth_append_low, Nat.reduceSub, Scope.ofCode_code]

/-- launch. -/
theorem launch (sd : SReg) (ab : AReg) (sem : SemR) : Statement (.launch sd ab sem) := by
  intro hw y hy
  cases hy
  refine decodeSyl_x _ _ 0x38#8 (XR.opc_word _ _) (by decide) ?_ hw rfl
  refine (congrArg (fun r : XR => (some (.launch r.xd (r.xb.setWidth 4) (r.imm.setWidth 4)) : Option Instr)) (XR.of_word 0x38#8 ⟨sd, 0, 0#1 ++ ab, 0, 0#32 ++ sem⟩)).trans ?_
  simp (disch := decide) only [extract_full, setWidth_append_low]

/-- nsend. -/
theorem nsend (sa : SReg) (slot : Slot) (sem : SemR) : Statement (.nsend sa slot sem) := by
  intro hw y hy
  cases hy
  refine decodeSyl_x _ _ 0x40#8 (XR.opc_word _ _) (by decide) ?_ hw rfl
  refine (congrArg (fun r : XR => (some (.nsend r.xa (r.imm.setWidth 8) (r.imm.extractLsb' 8 4)) : Option Instr)) (XR.of_word 0x40#8 ⟨0, sa, 0, 0, 0#24 ++ sem ++ slot⟩)).trans ?_
  simp (disch := decide) only [extract_append_low, extract_append_high, extract_full, setWidth_append_low, Nat.reduceSub]

/-- npost. -/
theorem npost (sa : SReg) (slot : Slot) (n : Bits4) (sem : SemR) : Statement (.npost sa slot n sem) := by
  intro hw y hy
  cases hy
  refine decodeSyl_x _ _ 0x41#8 (XR.opc_word _ _) (by decide) ?_ hw rfl
  refine (congrArg (fun r : XR => (some (.npost r.xa (r.imm.setWidth 8) (r.imm.extractLsb' 8 4) (r.imm.extractLsb' 12 4)) : Option Instr)) (XR.of_word 0x41#8 ⟨0, sa, 0, 0, 0#20 ++ sem ++ n ++ slot⟩)).trans ?_
  simp (disch := decide) only [extract_append_low, extract_append_high, extract_full, setWidth_append_low, Nat.reduceSub]

/-- nstatE. -/
theorem nstatE (sd : SReg) : Statement (.nstatE sd) := by
  intro hw y hy
  cases hy
  refine decodeSyl_x _ _ 0x42#8 (XR.opc_word _ _) (by decide) ?_ hw rfl
  refine (congrArg (fun r : XR => (match (r.imm.extractLsb' 0 2).toNat with | 0 => some (.nstatE r.xd) | 1 => some (.nstatT r.xd) | 2 => some (.nstatI r.xd r.xa) | _ => some (.nstatA r.xd r.xa) : Option Instr)) (XR.of_word 0x42#8 ⟨sd, 0, 0, 0, 0⟩)).trans ?_
  simp (disch := decide) only []
  rfl

/-- nstatT. -/
theorem nstatT (sd : SReg) : Statement (.nstatT sd) := by
  intro hw y hy
  cases hy
  refine decodeSyl_x _ _ 0x42#8 (XR.opc_word _ _) (by decide) ?_ hw rfl
  refine (congrArg (fun r : XR => (match (r.imm.extractLsb' 0 2).toNat with | 0 => some (.nstatE r.xd) | 1 => some (.nstatT r.xd) | 2 => some (.nstatI r.xd r.xa) | _ => some (.nstatA r.xd r.xa) : Option Instr)) (XR.of_word 0x42#8 ⟨sd, 0, 0, 0, 1⟩)).trans ?_
  simp (disch := decide) only []
  rfl

/-- nstatI. -/
theorem nstatI (sd : SReg) (sa : SReg) : Statement (.nstatI sd sa) := by
  intro hw y hy
  cases hy
  refine decodeSyl_x _ _ 0x42#8 (XR.opc_word _ _) (by decide) ?_ hw rfl
  refine (congrArg (fun r : XR => (match (r.imm.extractLsb' 0 2).toNat with | 0 => some (.nstatE r.xd) | 1 => some (.nstatT r.xd) | 2 => some (.nstatI r.xd r.xa) | _ => some (.nstatA r.xd r.xa) : Option Instr)) (XR.of_word 0x42#8 ⟨sd, sa, 0, 0, 2⟩)).trans ?_
  simp (disch := decide) only []
  rfl

/-- nstatA. -/
theorem nstatA (sd : SReg) (sa : SReg) : Statement (.nstatA sd sa) := by
  intro hw y hy
  cases hy
  refine decodeSyl_x _ _ 0x42#8 (XR.opc_word _ _) (by decide) ?_ hw rfl
  refine (congrArg (fun r : XR => (match (r.imm.extractLsb' 0 2).toNat with | 0 => some (.nstatE r.xd) | 1 => some (.nstatT r.xd) | 2 => some (.nstatI r.xd r.xa) | _ => some (.nstatA r.xd r.xa) : Option Instr)) (XR.of_word 0x42#8 ⟨sd, sa, 0, 0, 3⟩)).trans ?_
  simp (disch := decide) only []

/-- coll. -/
theorem coll (sd : SReg) (ab : AReg) (sem : SemR) (lw : Bits2) (lh : Bits2) : Statement (.coll sd ab sem lw lh) := by
  intro hw y hy
  cases hy
  refine decodeSyl_x _ _ 0x48#8 (XR.opc_word _ _) (by decide) ?_ hw rfl
  refine (congrArg (fun r : XR => (some (.coll r.xd (r.xb.setWidth 4) (r.imm.setWidth 4) (r.imm.extractLsb' 4 2) (r.imm.extractLsb' 6 2)) : Option Instr)) (XR.of_word 0x48#8 ⟨sd, 0, 0#1 ++ ab, 0, 0#28 ++ lh ++ lw ++ sem⟩)).trans ?_
  simp (disch := decide) only [extract_append_low, extract_append_high, extract_full, setWidth_append_low, Nat.reduceSub]

/-- mrgn. -/
theorem mrgn (level : Bits3) (sem : SemR) : Statement (.mrgn level sem) := by
  intro hw y hy
  cases hy
  refine decodeSyl_x _ _ 0x50#8 (XR.opc_word _ _) (by decide) ?_ hw rfl
  refine (congrArg (fun r : XR => (some (.mrgn (r.imm.setWidth 3) (r.imm.extractLsb' 4 4)) : Option Instr)) (XR.of_word 0x50#8 ⟨0, 0, 0, 0, 0#28 ++ sem ++ 0#1 ++ level⟩)).trans ?_
  simp (disch := decide) only [extract_append_low, extract_append_high, extract_full, setWidth_append_low, Nat.reduceSub]

/-- minj. -/
theorem minj (unit : Bits2) (sa : SReg) (n : Bits8) (gp : Bits12) : Statement (.minj unit sa n gp) := by
  intro hw y hy
  cases hy
  refine decodeSyl_x _ _ 0x51#8 (XR.opc_word _ _) (by decide) ?_ hw rfl
  have hn : n ≠ 0 := by
    simp [Instr.wf] at hw
    simp [hw]
  refine (congrArg (fun r : XR => (some (if r.imm.extractLsb' 2 8 = 0 then .minjOff else .minj (r.imm.setWidth 2) r.xa (r.imm.extractLsb' 2 8) (r.imm.extractLsb' 10 12)) : Option Instr)) (XR.of_word 0x51#8 ⟨0, sa, 0, 0, 0#14 ++ gp ++ n ++ unit⟩)).trans ?_
  simp (disch := decide) only [extract_append_low, extract_append_high, extract_full, setWidth_append_low, Nat.reduceSub, if_neg hn]

/-- minjOff. -/
theorem minjOff : Statement (.minjOff) := by
  intro hw y hy
  cases hy
  refine decodeSyl_x _ _ 0x51#8 (XR.opc_word _ _) (by decide) ?_ hw rfl
  refine (congrArg (fun r : XR => (some (if r.imm.extractLsb' 2 8 = 0 then .minjOff else .minj (r.imm.setWidth 2) r.xa (r.imm.extractLsb' 2 8) (r.imm.extractLsb' 10 12)) : Option Instr)) (XR.of_word 0x51#8 ⟨0, 0, 0, 0, 0⟩)).trans ?_
  simp (disch := decide) only []
  rfl

/-- issueAttempt. -/
theorem issueAttempt (core : CoreId) (err : StorErr) : Statement (.issueAttempt core err) := by
  intro _ y hy
  cases hy

/-- stepgap. -/
theorem stepgap (core : CoreId) : Statement (.stepgap core) := by
  intro _ y hy
  cases hy

/-- asyncCauseTake. -/
theorem asyncCauseTake (core : CoreId) : Statement (.asyncCauseTake core) := by
  intro _ y hy
  cases hy

/-- seatSwitch. -/
theorem seatSwitch (core : CoreId) : Statement (.seatSwitch core) := by
  intro _ y hy
  cases hy

/-- resultLanding. -/
theorem resultLanding (core : CoreId) (seat : SeatId) (idx : Bits8) (sus : SusId) (ans : FarAns) : Statement (.resultLanding core seat idx sus ans) := by
  intro _ y hy
  cases hy

/-- errorResponse. -/
theorem errorResponse (core : CoreId) (seat : SeatId) (idx : Bits8) (ans : FarAns) : Statement (.errorResponse core seat idx ans) := by
  intro _ y hy
  cases hy

/-- loadMissFill. -/
theorem loadMissFill (fill : CoreAns) : Statement (.loadMissFill fill) := by
  intro _ y hy
  cases hy

/-- billetWrite. -/
theorem billetWrite (core : CoreId) (seat : SeatId) (billet : Billet) : Statement (.billetWrite core seat billet) := by
  intro _ y hy
  cases hy

/-- billetRelease. -/
theorem billetRelease (core : CoreId) (seat : SeatId) : Statement (.billetRelease core seat) := by
  intro _ y hy
  cases hy

/-- seatWakeDone. -/
theorem seatWakeDone (core : CoreId) (seat : SeatId) : Statement (.seatWakeDone core seat) := by
  intro _ y hy
  cases hy

/-- checkpointSaveDone. -/
theorem checkpointSaveDone (core : CoreId) (seat : SeatId) : Statement (.checkpointSaveDone core seat) := by
  intro _ y hy
  cases hy

/-- designate. -/
theorem designate (core : CoreId) (nxt : SeatId) (nv : Bool) : Statement (.designate core nxt nv) := by
  intro _ y hy
  cases hy

/-- prqKill. -/
theorem prqKill (core : CoreId) (seat : SeatId) : Statement (.prqKill core seat) := by
  intro _ y hy
  cases hy

/-- prqCheckpoint. -/
theorem prqCheckpoint (core : CoreId) (seat : SeatId) : Statement (.prqCheckpoint core seat) := by
  intro _ y hy
  cases hy

/-- prqDrain. -/
theorem prqDrain (core : CoreId) (seat : SeatId) : Statement (.prqDrain core seat) := by
  intro _ y hy
  cases hy

/-- forcedKill. -/
theorem forcedKill (core : CoreId) (seat : SeatId) : Statement (.forcedKill core seat) := by
  intro _ y hy
  cases hy

/-- ckptRequestTimeout. -/
theorem ckptRequestTimeout (core : CoreId) (seat : SeatId) : Statement (.ckptRequestTimeout core seat) := by
  intro _ y hy
  cases hy

/-- rowPowerWrite. -/
theorem rowPowerWrite (core : CoreId) (val : Word) : Statement (.rowPowerWrite core val) := by
  intro _ y hy
  cases hy

/-- debugRowRead. -/
theorem debugRowRead (core : CoreId) (row : Bits11) : Statement (.debugRowRead core row) := by
  intro _ y hy
  cases hy

/-- debugRowWrite. -/
theorem debugRowWrite (core : CoreId) (row : Bits11) (data : RowBits) (tags : Imm32) : Statement (.debugRowWrite core row data tags) := by
  intro _ y hy
  cases hy

/-- pacingOpen. -/
theorem pacingOpen (core : CoreId) (q : EngQ) (idx : EntIdx) : Statement (.pacingOpen core q idx) := by
  intro _ y hy
  cases hy

/-- waitTokenConsume. -/
theorem waitTokenConsume (core : CoreId) (q : EngQ) (idx : EntIdx) : Statement (.waitTokenConsume core q idx) := by
  intro _ y hy
  cases hy

/-- stampGateOpen. -/
theorem stampGateOpen (core : CoreId) (q : EngQ) (idx : EntIdx) : Statement (.stampGateOpen core q idx) := by
  intro _ y hy
  cases hy

/-- unitChoice. -/
theorem unitChoice (core : CoreId) (q : EngQ) : Statement (.unitChoice core q) := by
  intro _ y hy
  cases hy

/-- leaveGrant. -/
theorem leaveGrant (die : DieId) (col : Bits3) : Statement (.leaveGrant die col) := by
  intro _ y hy
  cases hy

/-- paramBlockReadDone. -/
theorem paramBlockReadDone (core : CoreId) (q : EngQ) (ent : EntAns) : Statement (.paramBlockReadDone core q ent) := by
  intro _ y hy
  cases hy

/-- mmaStep. -/
theorem mmaStep (core : CoreId) (q : EngQ) (idx : EntIdx) : Statement (.mmaStep core q idx) := by
  intro _ y hy
  cases hy

/-- mmadStep. -/
theorem mmadStep (core : CoreId) (q : EngQ) (idx : EntIdx) : Statement (.mmadStep core q idx) := by
  intro _ y hy
  cases hy

/-- mepiStep. -/
theorem mepiStep (core : CoreId) (q : EngQ) (idx : EntIdx) : Statement (.mepiStep core q idx) := by
  intro _ y hy
  cases hy

/-- mzeroStep. -/
theorem mzeroStep (core : CoreId) (q : EngQ) (idx : EntIdx) : Statement (.mzeroStep core q idx) := by
  intro _ y hy
  cases hy

/-- wloadStep. -/
theorem wloadStep (core : CoreId) (q : EngQ) (idx : EntIdx) : Statement (.wloadStep core q idx) := by
  intro _ y hy
  cases hy

/-- txferStep. -/
theorem txferStep (core : CoreId) (idx : EntIdx) : Statement (.txferStep core idx) := by
  intro _ y hy
  cases hy

/-- tfillStep. -/
theorem tfillStep (core : CoreId) (idx : EntIdx) : Statement (.tfillStep core idx) := by
  intro _ y hy
  cases hy

/-- tdrainStep. -/
theorem tdrainStep (core : CoreId) (idx : EntIdx) : Statement (.tdrainStep core idx) := by
  intro _ y hy
  cases hy

/-- tmcastStep. -/
theorem tmcastStep (core : CoreId) (idx : EntIdx) : Statement (.tmcastStep core idx) := by
  intro _ y hy
  cases hy

/-- stepEnd. -/
theorem stepEnd (core : CoreId) (q : EngQ) (ent : EntAns) : Statement (.stepEnd core q ent) := by
  intro _ y hy
  cases hy

/-- stampMiss. -/
theorem stampMiss (core : CoreId) (q : EngQ) (idx : EntIdx) : Statement (.stampMiss core q idx) := by
  intro _ y hy
  cases hy

/-- lateWriteFailure. -/
theorem lateWriteFailure (core : CoreId) (q : EngQ) (idx : EntIdx) (step : Imm32) (addr : Word) (link : Bool) : Statement (.lateWriteFailure core q idx step addr link) := by
  intro _ y hy
  cases hy

/-- queueGrant. -/
theorem queueGrant (core : CoreId) : Statement (.queueGrant core) := by
  intro _ y hy
  cases hy

/-- packetPublish. -/
theorem packetPublish (die : DieId) (qnum : Bits12) : Statement (.packetPublish die qnum) := by
  intro _ y hy
  cases hy

/-- qwaitExpiry. -/
theorem qwaitExpiry (core : CoreId) : Statement (.qwaitExpiry core) := by
  intro _ y hy
  cases hy

/-- barrierArrival. -/
theorem barrierArrival (die : DieId) (clu : Bits3) (idx : Bits8) (err : Bool) : Statement (.barrierArrival die clu idx err) := by
  intro _ y hy
  cases hy

/-- barrierWaitRequest. -/
theorem barrierWaitRequest (die : DieId) (clu : Bits3) (msg : MsgErr) : Statement (.barrierWaitRequest die clu msg) := by
  intro _ y hy
  cases hy

/-- cnt. -/
theorem cnt (die : DieId) (clu : Bits3) (head : Bool) (core : Bits16) (seq : Imm32) (func : FuncId) (asn : Bits12) (dest : Word) (unit : Bits8) (cls : Bits8) : Statement (.cnt die clu head core seq func asn dest unit cls) := by
  intro _ y hy
  cases hy

/-- floor. -/
theorem floor (die : DieId) (clu : Bits3) (head : Bool) (core : Bits16) (seq : Imm32) (val : Bits8) : Statement (.floor die clu head core seq val) := by
  intro _ y hy
  cases hy

/-- requal. -/
theorem requal (die : DieId) (clu : Bits3) (head : Bool) (core : Bits16) (seq : Imm32) : Statement (.requal die clu head core seq) := by
  intro _ y hy
  cases hy

/-- budget. -/
theorem budget (die : DieId) (clu : Bits3) (head : Bool) (core : Bits16) (seq : Imm32) (col : Bits8) (lb : Bits8) : Statement (.budget die clu head core seq col lb) := by
  intro _ y hy
  cases hy

/-- inval. -/
theorem inval (die : DieId) (clu : Bits3) (head : Bool) (core : Bits16) (seq : Imm32) (va : Word) (size : Bits8) (flags : Bits8) (func : Bits16) (asn : Bits16) : Statement (.inval die clu head core seq va size flags func asn) := by
  intro _ y hy
  cases hy

/-- invalComplete. -/
theorem invalComplete (die : DieId) (clu : Bits3) : Statement (.invalComplete die clu) := by
  intro _ y hy
  cases hy

/-- stewardUnknownType. -/
theorem stewardUnknownType (die : DieId) (clu : Bits3) (head : Bool) (core : Bits16) (seq : Imm32) (type : Bits8) : Statement (.stewardUnknownType die clu head core seq type) := by
  intro _ y hy
  cases hy

/-- stewardWatchdog. -/
theorem stewardWatchdog (die : DieId) (clu : Bits3) : Statement (.stewardWatchdog die clu) := by
  intro _ y hy
  cases hy

/-- windowEnd. -/
theorem windowEnd (core : CoreId) : Statement (.windowEnd core) := by
  intro _ y hy
  cases hy

/-- lateVerdict. -/
theorem lateVerdict (core : CoreId) : Statement (.lateVerdict core) := by
  intro _ y hy
  cases hy

/-- engineLateVerdict. -/
theorem engineLateVerdict (core : CoreId) (q : EngQ) : Statement (.engineLateVerdict core q) := by
  intro _ y hy
  cases hy

/-- persistenceLimit. -/
theorem persistenceLimit (core : CoreId) (unit : Bits2) : Statement (.persistenceLimit core unit) := by
  intro _ y hy
  cases hy

/-- guardSettled. -/
theorem guardSettled (die : DieId) (col : Bits3) : Statement (.guardSettled die col) := by
  intro _ y hy
  cases hy

/-- injection. -/
theorem injection (core : CoreId) : Statement (.injection core) := by
  intro _ y hy
  cases hy

/-- droopDetect. -/
theorem droopDetect (die : DieId) (col : Bits3) : Statement (.droopDetect die col) := by
  intro _ y hy
  cases hy

/-- droopHoldEnd. -/
theorem droopHoldEnd (die : DieId) (col : Bits3) : Statement (.droopHoldEnd die col) := by
  intro _ y hy
  cases hy

/-- rteUpdate. -/
theorem rteUpdate (core : CoreId) (seat : SeatId) : Statement (.rteUpdate core seat) := by
  intro _ y hy
  cases hy

/-- launchReadDone. -/
theorem launchReadDone (read : DieFar) : Statement (.launchReadDone read) := by
  intro _ y hy
  cases hy

/-- instanceRelease. -/
theorem instanceRelease (die : DieId) (inst : Imm32) : Statement (.instanceRelease die inst) := by
  intro _ y hy
  cases hy

/-- bind. -/
theorem bind (die : DieId) (inst : Imm32) : Statement (.bind die inst) := by
  intro _ y hy
  cases hy

/-- cutStart. -/
theorem cutStart (die : DieId) (inst : Imm32) : Statement (.cutStart die inst) := by
  intro _ y hy
  cases hy

/-- cutReport. -/
theorem cutReport (core : CoreId) (seat : SeatId) : Statement (.cutReport core seat) := by
  intro _ y hy
  cases hy

/-- cutTimeout. -/
theorem cutTimeout (die : DieId) (inst : Imm32) : Statement (.cutTimeout die inst) := by
  intro _ y hy
  cases hy

/-- instanceComplete. -/
theorem instanceComplete (die : DieId) (inst : InstAns) : Statement (.instanceComplete die inst) := by
  intro _ y hy
  cases hy

/-- instanceRetire. -/
theorem instanceRetire (die : DieId) (inst : Imm32) : Statement (.instanceRetire die inst) := by
  intro _ y hy
  cases hy

/-- shareWindowEnd. -/
theorem shareWindowEnd (core : CoreId) : Statement (.shareWindowEnd core) := by
  intro _ y hy
  cases hy

/-- dispatchConfigWrite. -/
theorem dispatchConfigWrite (die : DieId) (val : Word) : Statement (.dispatchConfigWrite die val) := by
  intro _ y hy
  cases hy

/-- messageIngress. -/
theorem messageIngress (die : DieId) (mode : Bits2) (key : Imm32) (payload : Bytes) (arr : Word) : Statement (.messageIngress die mode key payload arr) := by
  intro _ y hy
  cases hy

/-- messageLanded. -/
theorem messageLanded (die : DieId) (entry : Bits14) : Statement (.messageLanded die entry) := by
  intro _ y hy
  cases hy

/-- egressDone. -/
theorem egressDone (core : CoreId) (seat : SeatId) (idx : Bits8) (stamp : Word) : Statement (.egressDone core seat idx stamp) := by
  intro _ y hy
  cases hy

/-- timebaseUpdate. -/
theorem timebaseUpdate (base : Word) (cyc : Word) (rate : Word) (lock : Bool) (offs : Imm32) : Statement (.timebaseUpdate base cyc rate lock offs) := by
  intro _ y hy
  cases hy

/-- powerCheck. -/
theorem powerCheck (watts : Bits16) : Statement (.powerCheck watts) := by
  intro _ y hy
  cases hy

/-- fabricClockHop. -/
theorem fabricClockHop (safe : Bool) : Statement (.fabricClockHop safe) := by
  intro _ y hy
  cases hy

/-- mirrorCommit. -/
theorem mirrorCommit (die : DieId) (inst : InstAns) : Statement (.mirrorCommit die inst) := by
  intro _ y hy
  cases hy

/-- mirrorHeaderWrite. -/
theorem mirrorHeaderWrite (die : DieId) (inst : Imm32) : Statement (.mirrorHeaderWrite die inst) := by
  intro _ y hy
  cases hy

/-- heartbeatSend. -/
theorem heartbeatSend (die : DieId) : Statement (.heartbeatSend die) := by
  intro _ y hy
  cases hy

/-- heartbeatTick. -/
theorem heartbeatTick (die : DieId) : Statement (.heartbeatTick die) := by
  intro _ y hy
  cases hy

/-- relayFailure. -/
theorem relayFailure (die : DieId) : Statement (.relayFailure die) := by
  intro _ y hy
  cases hy

/-- hbmSlot. -/
theorem hbmSlot (die : DieId) (pch : Bits7) (arr : HbmIn) (cor : Bits6) (unc : Bits6) : Statement (.hbmSlot die pch arr cor unc) := by
  intro _ y hy
  cases hy

/-- slotMapApply. -/
theorem slotMapApply (die : DieId) : Statement (.slotMapApply die) := by
  intro _ y hy
  cases hy

/-- pageWalkDone. -/
theorem pageWalkDone (core : CoreId) (seat : SeatId) (func : FuncId) (asn : Bits12) (va : Word) (acc : Access) : Statement (.pageWalkDone core seat func asn va acc) := by
  intro _ y hy
  cases hy

/-- keyLoad. -/
theorem keyLoad (func : FuncId) (key : Bits10) (bypass : Bool) (material : Material) (secured : Bool) : Statement (.keyLoad func key bypass material secured) := by
  intro _ y hy
  cases hy

/-- keyRetire. -/
theorem keyRetire (key : Bits10) : Statement (.keyRetire key) := by
  intro _ y hy
  cases hy

/-- keyRetireDone. -/
theorem keyRetireDone (key : Bits10) : Statement (.keyRetireDone key) := by
  intro _ y hy
  cases hy

/-- alloc. -/
theorem alloc (func : FuncId) (target : FuncId) (kind : ResKind) (lo : Word) (hi : Word) : Statement (.alloc func target kind lo hi) := by
  intro _ y hy
  cases hy

/-- release. -/
theorem release (func : FuncId) (target : FuncId) (kind : ResKind) (lo : Word) (hi : Word) : Statement (.release func target kind lo hi) := by
  intro _ y hy
  cases hy

/-- qcfg. -/
theorem qcfg (func : FuncId) (die : DieId) (qnum : Bits12) (base : Word) (lrsz : Bits8) (push : Imm32) (pdev : PushDevs) (pop : Imm32) (mirror : Word) : Statement (.qcfg func die qnum base lrsz push pdev pop mirror) := by
  intro _ y hy
  cases hy

/-- steer. -/
theorem steer (func : FuncId) (die : DieId) (entry : Bits14) (w0 : Word) : Statement (.steer func die entry w0) := by
  intro _ y hy
  cases hy

/-- egress. -/
theorem egress (func : FuncId) (die : DieId) (eix : Bits14) (port : Bits8) (mode : Bits8) (session : Bits16) (ip : Bits128) (job : Imm32) (pid : Imm32) : Statement (.egress func die eix port mode session ip job pid) := by
  intro _ y hy
  cases hy

/-- sess. -/
theorem sess (func : FuncId) (session : Bits16) (prim : Bits2) (stateva : Word) (statelen : Imm32) (shadowva : Word) (shadow : Bits16) : Statement (.sess func session prim stateva statelen shadowva shadow) := by
  intro _ y hy
  cases hy

/-- install. -/
theorem install (func : FuncId) (rslot : Bits8) (dmask : Bits8) (cmask : Word) (image : Word) (tab : TabFar) : Statement (.install func rslot dmask cmask image tab) := by
  intro _ y hy
  cases hy

/-- remove. -/
theorem remove (func : FuncId) (rslot : Bits8) : Statement (.remove func rslot) := by
  intro _ y hy
  cases hy

/-- asroot. -/
theorem asroot (func : FuncId) (asn : Bits12) (root : Word) : Statement (.asroot func asn root) := by
  intro _ y hy
  cases hy

/-- cwm. -/
theorem cwm (func : FuncId) (die : DieId) (cls : Bits4) (ways : Bits16) : Statement (.cwm func die cls ways) := by
  intro _ y hy
  cases hy

/-- smap. -/
theorem smap (func : FuncId) (die : DieId) (map : Billet) : Statement (.smap func die map) := by
  intro _ y hy
  cases hy

/-- mailboxUnknownType. -/
theorem mailboxUnknownType (func : FuncId) (type : Bits8) : Statement (.mailboxUnknownType func type) := by
  intro _ y hy
  cases hy

/-- cwmApply. -/
theorem cwmApply (die : DieId) : Statement (.cwmApply die) := by
  intro _ y hy
  cases hy

/-- porterDoorbell. -/
theorem porterDoorbell (func : FuncId) (q : Bits8) (tail : Imm32) : Statement (.porterDoorbell func q tail) := by
  intro _ y hy
  cases hy

/-- queueEnable. -/
theorem queueEnable (func : FuncId) (q : Bits8) : Statement (.queueEnable func q) := by
  intro _ y hy
  cases hy

/-- porterNop. -/
theorem porterNop (func : FuncId) (pq : PqFar) : Statement (.porterNop func pq) := by
  intro _ y hy
  cases hy

/-- porterLaunch. -/
theorem porterLaunch (func : FuncId) (pq : PqFar) : Statement (.porterLaunch func pq) := by
  intro _ y hy
  cases hy

/-- launchRes. -/
theorem launchRes (func : FuncId) (pq : PqFar) : Statement (.launchRes func pq) := by
  intro _ y hy
  cases hy

/-- waitmem. -/
theorem waitmem (func : FuncId) (pq : PqFar) : Statement (.waitmem func pq) := by
  intro _ y hy
  cases hy

/-- waitmemSatisfied. -/
theorem waitmemSatisfied (func : FuncId) (q : Bits8) (pkt : PktFar) : Statement (.waitmemSatisfied func q pkt) := by
  intro _ y hy
  cases hy

/-- waitmemTimeout. -/
theorem waitmemTimeout (func : FuncId) (q : Bits8) (pkt : PktFar) : Statement (.waitmemTimeout func q pkt) := by
  intro _ y hy
  cases hy

/-- signal. -/
theorem signal (func : FuncId) (pq : PqFar) : Statement (.signal func pq) := by
  intro _ y hy
  cases hy

/-- pred. -/
theorem pred (func : FuncId) (pq : PqFar) : Statement (.pred func pq) := by
  intro _ y hy
  cases hy

/-- rearm. -/
theorem rearm (func : FuncId) (pq : PqFar) : Statement (.rearm func pq) := by
  intro _ y hy
  cases hy

/-- rearmIteration. -/
theorem rearmIteration (func : FuncId) (pq : PqFar) : Statement (.rearmIteration func pq) := by
  intro _ y hy
  cases hy

/-- tstamp. -/
theorem tstamp (func : FuncId) (pq : PqFar) : Statement (.tstamp func pq) := by
  intro _ y hy
  cases hy

/-- intr. -/
theorem intr (func : FuncId) (pq : PqFar) : Statement (.intr func pq) := by
  intro _ y hy
  cases hy

/-- porterFence. -/
theorem porterFence (func : FuncId) (pq : PqFar) : Statement (.porterFence func pq) := by
  intro _ y hy
  cases hy

/-- resume. -/
theorem resume (func : FuncId) (pq : PqFar) : Statement (.resume func pq) := by
  intro _ y hy
  cases hy

/-- malformedPacket. -/
theorem malformedPacket (func : FuncId) (pq : PqFar) : Statement (.malformedPacket func pq) := by
  intro _ y hy
  cases hy

/-- packetComplete. -/
theorem packetComplete (func : FuncId) (q : Bits8) (pkt : PktFar) : Statement (.packetComplete func q pkt) := by
  intro _ y hy
  cases hy

/-- intrTimeout. -/
theorem intrTimeout (func : FuncId) (vec : Bits11) : Statement (.intrTimeout func vec) := by
  intro _ y hy
  cases hy

/-- msixUnmask. -/
theorem msixUnmask (func : FuncId) (vec : Bits11) : Statement (.msixUnmask func vec) := by
  intro _ y hy
  cases hy

/-- coalesceWrite. -/
theorem coalesceWrite (func : FuncId) (vec : Bits11) (val : Word) : Statement (.coalesceWrite func vec val) := by
  intro _ y hy
  cases hy

/-- hostBar2Read. -/
theorem hostBar2Read (func : FuncId) (off : Word) (len : LenFar) : Statement (.hostBar2Read func off len) := by
  intro _ y hy
  cases hy

/-- hostBar2Write. -/
theorem hostBar2Write (func : FuncId) (off : Word) (data : Bytes) : Statement (.hostBar2Write func off data) := by
  intro _ y hy
  cases hy

/-- hostAtomic. -/
theorem hostAtomic (func : FuncId) (off : Word) (op : HostOp) (sz : Bits2) (x : Bits128) (y : Bits128) : Statement (.hostAtomic func off op sz x y) := by
  intro _ y hy
  cases hy

/-- pcieCompletionTimeout. -/
theorem pcieCompletionTimeout (core : CoreId) (seat : SeatId) (idx : Bits8) : Statement (.pcieCompletionTimeout core seat idx) := by
  intro _ y hy
  cases hy

/-- stopInterface. -/
theorem stopInterface (func : FuncId) : Statement (.stopInterface func) := by
  intro _ y hy
  cases hy

/-- lockInterface. -/
theorem lockInterface (func : FuncId) : Statement (.lockInterface func) := by
  intro _ y hy
  cases hy

/-- startInterface. -/
theorem startInterface (func : FuncId) : Statement (.startInterface func) := by
  intro _ y hy
  cases hy

/-- spdmRequest. -/
theorem spdmRequest (func : FuncId) (req : Bytes) : Statement (.spdmRequest func req) := by
  intro _ y hy
  cases hy

/-- powerOnReset. -/
theorem powerOnReset (boot : BootIn) : Statement (.powerOnReset boot) := by
  intro _ y hy
  cases hy

/-- supplyLossWarning. -/
theorem supplyLossWarning : Statement (.supplyLossWarning) := by
  intro _ y hy
  cases hy

/-- linkTrain. -/
theorem linkTrain (link : LinkId) (partner : Bits9) : Statement (.linkTrain link partner) := by
  intro _ y hy
  cases hy

/-- flitReceive. -/
theorem flitReceive (link : LinkId) (flit : Flit) : Statement (.flitReceive link flit) := by
  intro _ y hy
  cases hy

/-- reassemblyTimeout. -/
theorem reassemblyTimeout (link : LinkId) (cls : Bits2) : Statement (.reassemblyTimeout link cls) := by
  intro _ y hy
  cases hy

/-- linkDown. -/
theorem linkDown (link : LinkId) : Statement (.linkDown link) := by
  intro _ y hy
  cases hy

/-- routeRecompute. -/
theorem routeRecompute (link : LinkId) : Statement (.routeRecompute link) := by
  intro _ y hy
  cases hy

/-- starvation. -/
theorem starvation (link : LinkId) (cls : Bits2) : Statement (.starvation link cls) := by
  intro _ y hy
  cases hy

/-- suspensionWrite. -/
theorem suspensionWrite (link : LinkId) (val : Word) : Statement (.suspensionWrite link val) := by
  intro _ y hy
  cases hy

/-- fabricAccess. -/
theorem fabricAccess (src : FarDev) (addr : Word) (op : FabOp) (data : Bytes) (pois : GranNos) : Statement (.fabricAccess src addr op data pois) := by
  intro _ y hy
  cases hy

/-- transactionTimeout. -/
theorem transactionTimeout (core : CoreId) (seat : SeatId) (idx : Bits8) : Statement (.transactionTimeout core seat idx) := by
  intro _ y hy
  cases hy

/-- remotePushArrival. -/
theorem remotePushArrival (die : DieId) (src : FarDev) (func : FuncId) (qnum : Bits12) (ack : Bool) (origin : Bits16) (pay : MarkedBytes) : Statement (.remotePushArrival die src func qnum ack origin pay) := by
  intro _ y hy
  cases hy

/-- collComplete. -/
theorem collComplete (func : FuncId) (key : Word) (m : Imm32) (rank : Bits16) (far : FarBufs) : Statement (.collComplete func key m rank far) := by
  intro _ y hy
  cases hy

/-- collTimeout. -/
theorem collTimeout (func : FuncId) (key : Word) (m : Imm32) : Statement (.collTimeout func key m) := by
  intro _ y hy
  cases hy

/-- registerWrite. -/
theorem registerWrite (reg : RegSel) (val : Word) : Statement (.registerWrite reg val) := by
  intro _ y hy
  cases hy

/-- barrierInit. -/
theorem barrierInit (die : DieId) (clu : Bits3) (msg : MsgErr) : Statement (.barrierInit die clu msg) := by
  intro _ y hy
  cases hy

/-- flitSlot. -/
theorem flitSlot (link : LinkId) (arr : TxIns) (cred : Credits) : Statement (.flitSlot link arr cred) := by
  intro _ y hy
  cases hy

/-- portDown. -/
theorem portDown (die : DieId) (port : Bool) (back : Bool) : Statement (.portDown die port back) := by
  intro _ y hy
  cases hy

end Sys2Proof.Laws.RoundTrip
end

