-- ==== Sys2Proof/Tests/Slice0.lean ====
section
/-!
SUPPORT. Checks of the model: ill-formed terms refused, every instruction's word written from the encodings, single steps with
results taken from the rules, and for every statement states that meet its hypotheses.
-/
namespace Sys2Proof.Tests
open Sys2Proof Sys2Proof.Machine

-- One theorem after another: each waits for no thread of its own.
set_option Elab.async false

/-! ### Well-formedness -/

/-- One ill-formed term for each limit that `Instr.wf` tests (R39 to R48 and the entries). -/
def illFormed : List Instr :=
  [.bfx 1 2 32 32, .bfi 1 2 63 1, .loopImm 3 0, .loopReg 3 0, .bpany 12 0 1, .bpall 15 0 1, .crr 1 0x00A, .crwImm 0x025 0,
   .crwReg 0x015 1, .crwReg 0x013 0, .stepReg 0, .vld 1 (.off 0 0) ⟨0, true⟩ .f32 0, .vlds 1 (.off 0 0) ⟨12, false⟩ .f32 0,
   .vst 1 (.off 0 0) ⟨0, false⟩ .e2m1 0, .vgth 1 (.off 0 0) 2 ⟨0, false⟩ .e3m2 0, .vsct 1 (.off 0 0) 2 ⟨0, false⟩ .e2m3 0,
   .vtld 1 2 3 ⟨0, false⟩ .e2m1, .vtst 1 2 3 ⟨0, true⟩ .f32]
  ++ [.amo 1 2 3 .add true .co 0 0, .amocas 1 2 3 true .co 0 0, .vadd 1 (.v 2) (.v 3) ⟨0, false⟩ .i32,
   .vfma 1 (.v 2) (.v 3) (.v 4) ⟨0, false⟩ .e4m3, .vabs 1 (.v 2) ⟨0, true⟩ .f32, .vrcp 1 (.v 2) ⟨0, false⟩ .i8,
   .viadd 1 (.v 2) (.v 3) true ⟨0, false⟩ .f32, .vimad 1 (.v 2) (.v 3) (.v 4) ⟨0, false⟩ .bf16, .viabs 1 (.v 2) false ⟨0, false⟩ .n8,
   .vcmp 12 (.v 2) (.v 3) 0 false ⟨0, false⟩ .f32, .vicmp 1 (.v 2) (.v 3) 6 false ⟨0, false⟩ .i32, .pand 1 2 12 ⟨0, false⟩ .f32,
   .pnot 1 13 ⟨0, false⟩ .f32, .psetImm 1 1025 ⟨0, false⟩ .f32, .psetReg 14 1 ⟨0, false⟩ .f32, .pcnt 1 12 ⟨0, false⟩ .f32]
  ++ [.vmov 1 (.v 2) ⟨0, false⟩ .e2m1, .vsel 1 12 (.v 2) (.v 3) ⟨0, false⟩ .f32, .vbcstImm 1 0x100 ⟨0, false⟩ .n8,
   .vextImm 1 (.v 2) 256 .f32, .vinsImm 1 2 128 .n64, .vextReg 1 (.v 2) 3 .e2m3, .vinsReg 1 2 3 .e2m1,
   .vslideImm 1 (.v 2) (.v 3) 257 ⟨0, false⟩ .f32, .vred 1 (.v 2) .and ⟨0, false⟩ .f32, .vscan 1 (.v 2) .xor ⟨0, false⟩ .bf16,
   .vcvt 1 (.v 2) ⟨0, false⟩ .f32 .f32 0 false, .vcvt 1 (.v 2) ⟨0, false⟩ .f32 .bf16 2 false,
   .vcvt 1 (.v 2) ⟨0, false⟩ .i8 .f32 0 true, .vqmx 1 (.v 2) .f32 3 0, .vqmx 1 (.v 2) .e4m3 3 4, .vdqmx 1 (.v 2) .e3m2 3 5,
   .vrnd 1 (.v 2) 6 ⟨0, false⟩ .f32, .vdelt 1 (.v 2) (.v 3) 4 5 ⟨0, false⟩ .e3m2]
  ++ [.mma .h0 ⟨1, 2, 3, 0, 1⟩, .mzero .hw 0 0 true 0 0 0 0, .mzero .h0 0 0 false 0 0 0 1, .sigImm 0 1, .sigImm 1 0, .swait 0 1,
   .swait 1 0, .sigReg 0 1, .sigReg 1 0, .semrSem 1 0, .qpush 1 2 3 4 0 0, .qpop 1 2 3 4 0 0, .bara 1 0 0 0 0 .cl,
   .bara 0 0 0 0 1 .st, .barw 1 0 0 0 2 0 .cl, .barw 1 0 0 0 2 1 .co, .launch 1 2 0, .npost 1 255 1 0, .coll 1 2 0 0 0,
   .minj 0 1 0 1, .minj 0 1 2 0]

theorem test_illFormed_refused : ∀ i ∈ illFormed, i.wf = false := by decide +kernel

/-- Values at the edge of a limit are well-formed. -/
theorem test_edges_wellFormed : ∀ i ∈ ([.bfx 1 2 32 31, .loopImm 0 1, .bpany 11 0 1, .psetImm 1 1024 ⟨0, false⟩ .f32,
    .vextImm 1 (.v 2) 255 .f32, .vslideImm 1 (.v 2) (.v 3) 256 ⟨0, false⟩ .f32, .vcvt 1 (.v 2) ⟨0, false⟩ .f32 .bf16 1 false,
    .vqmx 1 (.v 2) .e2m1 3 7, .vrnd 1 (.v 2) 5 ⟨0, false⟩ .f32, .npost 1 255 0 0, .minj 0 1 1 0] : List Instr), i.wf = true := by
  decide +kernel

/-- Words of no instruction: a reserved opcode, NOP with a bit set, reserved bits set, and fields past their limits (R38, R39). -/
theorem test_words_refused : ∀ y ∈ ([.s 0x2A000000000000, .s 1, .s 0x01000000000001, .s 0x44000000000000, .s 0x47000003000000,
    .a 0x0400000000000002, .a 0x1300007000000000, .a 0x3000028000000000, .v 0x0101800000000000, .v 0x0100000000012000,
    .v 0x0100000000020000, .x 0x01C0000000000000, .x 0x1040000000000000, .x 0x2200000000000004, .x 0x0000000000000001]
    : List Syl), decodeSyl y = none := by decide +kernel

/-- A header with a reserved bit set is reported first, then the slots in order (R39). -/
theorem test_decode_order : decodeBundle (BitVec.ofNat 256 (2 ^ 248 + 2 ^ 247)) = .bad 7 0
    ∧ decodeBundle (BitVec.ofNat 256 (0xFF * 2 ^ 240 + 0xFF * 2 ^ 120)) = .bad 0 0xFF
    ∧ decodeBundle (BitVec.ofNat 256 (0x38 * 2 ^ 248)) = .ok ⟨3, true⟩ .nop .nop .nop .nop := by decide +kernel

/-! ### Words -/

/-- Words of the scalar instructions, each field put where R45 to R48 and the entry say. -/
def wordsScalar : List (Syl × Instr) :=
  [(.s 0x0, .nop),
   (.s 0x1f86200000000, .add 31 1 17),
   (.s 0x2f0a200000000, .sub 30 2 17),
   (.s 0x3e8e200000000, .mul 29 3 17),
   (.s 0x4e12200000000, .mulh 28 4 17),
   (.s 0x5d96200000000, .mulhn 27 5 17),
   (.s 0x6d1a200000000, .div 26 6 17),
   (.s 0x7c9e200000000, .divn 25 7 17),
   (.s 0x8c22200000000, .rem 24 8 17),
   (.s 0x9ba6200000000, .remn 23 9 17),
   (.s 0xab2a200000000, .and 22 10 17),
   (.s 0xbaae200000000, .or 21 11 17),
   (.s 0xca32200000000, .xor 20 12 17),
   (.s 0xd9b6200000000, .andn 19 13 17),
   (.s 0xe93a200000000, .shl 18 14 17),
   (.s 0xf8be200000000, .shr 17 15 17),
   (.s 0x10842200000000, .sha 16 16 17),
   (.s 0x117c6200000000, .rot 15 17 17),
   (.s 0x1274a200000000, .min 14 18 17),
   (.s 0x136ce200000000, .max 13 19 17),
   (.s 0x14652200000000, .minn 12 20 17),
   (.s 0x155d6200000000, .maxn 11 21 17),
   (.s 0x160f8000000000, .clz 1 30),
   (.s 0x17174000000000, .ctz 2 29)]
  ++ [(.s 0x181f0000000000, .popc 3 28),
   (.s 0x190f9200000000, .seq 1 30 9),
   (.s 0x1a179200000000, .sne 2 30 9),
   (.s 0x1b1f9200000000, .slt 3 30 9),
   (.s 0x1c279200000000, .sltn 4 30 9),
   (.s 0x1d088880000000, .sel 1 8 2 4),
   (.s 0x1e1940081f0000, .bfx 3 5 32 31),
   (.s 0x1f39800fc00000, .bfi 7 6 63 0),
   (.s 0x2022fffffffc00, .addi 4 11 0xfffffff0),
   (.s 0x2122fffffffc40, .andi 4 11 0xfffffff1),
   (.s 0x2222fffffffc80, .ori 4 11 0xfffffff2),
   (.s 0x2322fffffffcc0, .xori 4 11 0xfffffff3),
   (.s 0x2422c000000fc0, .shli 4 11 63),
   (.s 0x2522c000000f80, .shri 4 11 62),
   (.s 0x2622c000000f40, .shai 4 11 61),
   (.s 0x2722e000000000, .slti 4 11 0x80000000),
   (.s 0x28a8048d159e00, .li 21 0x12345678),
   (.s 0x29b026af37bc00, .lih 22 0x9ABCDEF0)]

theorem test_decode_scalar : ∀ p ∈ wordsScalar, decodeSyl p.1 = some p.2 := by decide +kernel

/-- Words of the control instructions, each field put where R45 to R48 and the entry say. -/
def wordsControl : List (Syl × Instr) :=
  [(.s 0x30003fffffff80, .br 0xFFFFFFFE),
   (.s 0x311f4000000140, .beq 3 29 5),
   (.s 0x32274000000180, .bne 4 29 6),
   (.s 0x332f40000001c0, .blt 5 29 7),
   (.s 0x34374000000200, .bge 6 29 8),
   (.s 0x353f4000000240, .bltn 7 29 9),
   (.s 0x36474000000280, .bgen 8 29 10),
   (.s 0x37080000000240, .jal 1 9),
   (.s 0x38088000001000, .jalr 1 2 0x40),
   (.s 0x3983ffffc00004, .loopImm 0xFFFFF 1),
   (.s 0x39180000200000, .loopReg 6 0x80000),
   (.s 0x3a00000000017f, .lclose 63 5),
   (.s 0x3a000000000201, .lcloseX 1 0),
   (.s 0x3bb000000001c0, .bpany 11 0 7),
   (.s 0x3c4c3fffffffc0, .bpall 4 3 0xFFFFFFFF),
   (.s 0x3d1240000000c0, .bqs 2 9 3),
   (.s 0x3e000000000000, .ends),
   (.s 0x40000003ffffff, .trap 0x3FFFFFF),
   (.s 0x41000000000000, .eret),
   (.s 0x42280080000000, .crr 5 0x020),
   (.s 0x4300c04c000000, .crwReg 0x013 3),
   (.s 0x43000050000007, .crwImm 0x014 7),
   (.s 0x4400000000001d, .fence .dm),
   (.s 0x44000000000009, .fenceR .co)]
  ++ [(.s 0x44000000000016, .fenceW .sy),
   (.s 0x45000002000001, .stepImm 0x2000001),
   (.s 0x45030000000000, .stepReg 12),
   (.s 0x46000000000000, .trig),
   (.s 0x4707c000000000, .chkS 31),
   (.s 0x4703c001000000, .chkA 15),
   (.s 0x4700000200007f, .chkV 127)]

theorem test_decode_control : ∀ p ∈ wordsControl, decodeSyl p.1 = some p.2 := by decide +kernel

/-- Words of the address instructions, each field put where R45 to R48 and the entry say. -/
def wordsAddress : List (Syl × Instr) :=
  [(.a 0x112800000000000, .aadd 1 2 16),
   (.a 0x2f80000fffffc00, .aaddi 15 8 0xFFFFFC00),
   (.a 0x340980000000000, .amov 4 19),
   (.a 0x407180000000000, .agetA 3 7),
   (.a 0x4001c8000000001, .agetM 3 9),
   (.a 0x500160000000000, .amods 12 2)]

theorem test_decode_address : ∀ p ∈ wordsAddress, decodeSyl p.1 = some p.2 := by decide +kernel

/-- Words of the memory instructions, each field put where R45 to R48 and the entry say. -/
def wordsMemory : List (Syl × Instr) :=
  [(.a 0x1042820000000008, .ld 8 (.off 5 8) 2 false 0),
   (.a 0x10429d8900000000, .ld 8 (.post 5 3) 1 true 9),
   (.a 0x110f830f00ffffff, .lds 1 (.off 15 0xFFFFFF) 3 false 15),
   (.a 0x1228830000000000, .st 5 (.off 1 0) 3 0),
   (.a 0x131302a100000000, .lda 2 (.off 6 0) 2 true .cl 1),
   (.a 0x14130c6000000000, .stl 2 (.post 6 1) 0 .sy 0),
   (.a 0x1509800000800000, .pref true (.off 3 0x800000)),
   (.a 0x208043b840180000, .vld 64 (.post 2 1) ⟨11, true⟩ .bf16 3),
   (.a 0x218243b840180000, .vlds 65 (.post 2 1) ⟨11, true⟩ .bf16 3),
   (.a 0x228443b840180000, .vst 66 (.post 2 1) ⟨11, true⟩ .bf16 3),
   (.a 0x230f204432108000, .vgth 7 (.off 9 0x8000) 100 ⟨4, false⟩ .i64 2),
   (.a 0x240f204432108000, .vsct 7 (.off 9 0x8000) 100 ⟨4, false⟩ .i64 2),
   (.a 0x25ff400000000000, .vfetch 5 127),
   (.a 0x2607ffe358000000, .vtld 3 255 15 ⟨1, true⟩ .n8),
   (.a 0x2780502000000000, .vtst 64 40 1 ⟨0, false⟩ .f32),
   (.a 0x3021882048000000, .amo 4 3 2 .add false .st 0 9),
   (.a 0x30218872c8000000, .amo 4 3 2 .swap true .co 1 9),
   (.a 0x302188a548000000, .amo 4 3 2 .min false .cl 2 9),
   (.a 0x302188f7c8000000, .amo 4 3 2 .max true .di 3 9),
   (.a 0x3021892848000000, .amo 4 3 2 .minn false .pk 0 9),
   (.a 0x3021897ac8000000, .amo 4 3 2 .maxn true .dm 1 9),
   (.a 0x302189ad48000000, .amo 4 3 2 .and false .sy 2 9),
   (.a 0x302189f1c8000000, .amo 4 3 2 .or true .st 3 9),
   (.a 0x30218a2248000000, .amo 4 3 2 .xor false .co 0 9)]
  ++ [(.a 0x3121883dc8000000, .amocas 4 3 2 true .sy 3 9)]

theorem test_decode_memory : ∀ p ∈ wordsMemory, decodeSyl p.1 = some p.2 := by decide +kernel

/-- Words of the vecFloat instructions, each field put where R45 to R48 and the entry say. -/
def wordsVecFloat : List (Syl × Instr) :=
  [(.v 0x18c810280080000, .vadd 70 (.pq 1) (.v 5) ⟨2, false⟩ .f32),
   (.v 0x28c810280080000, .vsub 70 (.pq 1) (.v 5) ⟨2, false⟩ .f32),
   (.v 0x38c810280080000, .vmul 70 (.pq 1) (.v 5) ⟨2, false⟩ .f32),
   (.v 0x48c873fc7de2000, .vfma 70 (.pq 7) (.v 127) (.s 31) ⟨7, true⟩ .f16),
   (.v 0x58c873fc7de2000, .vfms 70 (.pq 7) (.v 127) (.s 31) ⟨7, true⟩ .f16),
   (.v 0x68c873fc7de2000, .vfnma 70 (.pq 7) (.v 127) (.s 31) ⟨7, true⟩ .f16),
   (.v 0x78c810280081000, .vmin 70 (.pq 1) (.v 5) ⟨2, false⟩ .bf16),
   (.v 0x88c810280081000, .vmax 70 (.pq 1) (.v 5) ⟨2, false⟩ .bf16),
   (.v 0x9070900001e0000, .vabs 3 (.s 9) ⟨7, true⟩ .f32),
   (.v 0xa070900001e2000, .vneg 3 (.s 9) ⟨7, true⟩ .f16),
   (.v 0xb8c810280080000, .vcps 70 (.pq 1) (.v 5) ⟨2, false⟩ .f32),
   (.v 0x108c810280080000, .vdiv 70 (.pq 1) (.v 5) ⟨2, false⟩ .f32),
   (.v 0x11070900001e0000, .vsqrt 3 (.s 9) ⟨7, true⟩ .f32),
   (.v 0x12070900001e1000, .vrcp 3 (.s 9) ⟨7, true⟩ .bf16),
   (.v 0x13070900001e2000, .vrsq 3 (.s 9) ⟨7, true⟩ .f16),
   (.v 0x14070900001e0000, .vex2 3 (.s 9) ⟨7, true⟩ .f32),
   (.v 0x15070900001e1000, .vlg2 3 (.s 9) ⟨7, true⟩ .bf16),
   (.v 0x16070900001e2000, .vtnh 3 (.s 9) ⟨7, true⟩ .f16),
   (.v 0x17070900001e0000, .vlgs 3 (.s 9) ⟨7, true⟩ .f32),
   (.v 0x18070900001e1000, .vsin 3 (.s 9) ⟨7, true⟩ .bf16),
   (.v 0x19070900001e2000, .vcos 3 (.s 9) ⟨7, true⟩ .f16)]

theorem test_decode_vecFloat : ∀ p ∈ wordsVecFloat, decodeSyl p.1 = some p.2 := by decide +kernel

/-- Words of the vecInt instructions, each field put where R45 to R48 and the entry say. -/
def wordsVecInt : List (Syl × Instr) :=
  [(.v 0x208c01010008a001, .viadd 70 (.v 1) (.v 2) true ⟨2, false⟩ .i8),
   (.v 0x218c01010008a001, .visub 70 (.v 1) (.v 2) true ⟨2, false⟩ .i8),
   (.v 0x228c81028008e000, .vimul 70 (.pq 1) (.v 5) ⟨2, false⟩ .i32),
   (.v 0x238c810280091000, .vimulh 70 (.pq 1) (.v 5) ⟨2, false⟩ .n64),
   (.v 0x248c873fc7dec000, .vimad 70 (.pq 7) (.v 127) (.s 31) ⟨7, true⟩ .i16),
   (.v 0x258c81028008d000, .vand 70 (.pq 1) (.v 5) ⟨2, false⟩ .n16),
   (.v 0x268c81028008d000, .vor 70 (.pq 1) (.v 5) ⟨2, false⟩ .n16),
   (.v 0x278c81028008d000, .vxor 70 (.pq 1) (.v 5) ⟨2, false⟩ .n16),
   (.v 0x298c81028008d000, .vshl 70 (.pq 1) (.v 5) ⟨2, false⟩ .n16),
   (.v 0x2a8c81028008d000, .vshr 70 (.pq 1) (.v 5) ⟨2, false⟩ .n16),
   (.v 0x2b8c81028008d000, .vsha 70 (.pq 1) (.v 5) ⟨2, false⟩ .n16),
   (.v 0x2c8c81028008d000, .vimin 70 (.pq 1) (.v 5) ⟨2, false⟩ .n16),
   (.v 0x2d8c81028008d000, .vimax 70 (.pq 1) (.v 5) ⟨2, false⟩ .n16),
   (.v 0x28070900001eb000, .vnot 3 (.s 9) ⟨7, true⟩ .n8),
   (.v 0x2e06040000090000, .viabs 3 (.v 4) false ⟨2, false⟩ .i64),
   (.v 0x300e82848012000d, .vcmp 7 (.pq 2) (.s 9) 5 true ⟨4, true⟩ .f32),
   (.v 0x311601010000f002, .vicmp 11 (.v 1) (.v 2) 2 false ⟨0, false⟩ .n32)]

theorem test_decode_vecInt : ∀ p ∈ wordsVecInt, decodeSyl p.1 = some p.2 := by decide +kernel

/-- Words of the predicate instructions, each field put where R45 to R48 and the entry say. -/
def wordsPredicate : List (Syl × Instr) :=
  [(.v 0x380204058000c000, .pand 1 4 11 ⟨0, false⟩ .i16),
   (.v 0x390204058000c000, .por 1 4 11 ⟨0, false⟩ .i16),
   (.v 0x3a0204058000c000, .pxor 1 4 11 ⟨0, false⟩ .i16),
   (.v 0x3b020400001e0000, .pnot 1 4 ⟨7, true⟩ .f32),
   (.v 0x3c020400001e0000, .pmov 1 4 ⟨7, true⟩ .f32),
   (.v 0x3d0400000008bc00, .psetImm 2 1024 ⟨2, false⟩ .n8),
   (.v 0x3d0506000008b000, .psetReg 2 6 ⟨2, false⟩ .n8),
   (.v 0x3e3e050000002000, .pcnt 31 5 ⟨0, false⟩ .f16),
   (.v 0x3f3c050000002000, .pfst 30 5 ⟨0, false⟩ .f16)]

theorem test_decode_predicate : ∀ p ∈ wordsPredicate, decodeSyl p.1 = some p.2 := by decide +kernel

/-- Words of the move instructions, each field put where R45 to R48 and the entry say. -/
def wordsMove : List (Syl × Instr) :=
  [(.v 0x40070900001f0000, .vmov 3 (.s 9) ⟨7, true⟩ .i64),
   (.v 0x4110010100c80000, .vsel 8 3 (.v 1) (.v 2) ⟨2, false⟩ .f32),
   (.v 0x421103000008e000, .vbcstScalar 8 3 ⟨2, false⟩ .i32),
   (.v 0x421086818008e000, .vbcstLane 8 (.pq 6) 3 ⟨2, false⟩ .i32),
   (.v 0x43125580000000ff, .vbcstImm 9 0xFF ⟨2, true⟩ .n8),
   (.v 0x442240000000abff, .vextImm 17 (.v 64) 1023 .i8),
   (.v 0x442240810000a000, .vextReg 17 (.v 64) 2 .i8),
   (.v 0x452304000001187f, .vinsImm 17 4 127 .n64),
   (.v 0x4523048100011000, .vinsReg 17 4 2 .n64),
   (.v 0x468c81028008d000, .vshuf 70 (.pq 1) (.v 5) ⟨2, false⟩ .n16),
   (.v 0x468c873fc7ded001, .vshufTwo 70 (.pq 7) (.v 127) (.s 31) ⟨7, true⟩ .n16),
   (.v 0x470202018008bc00, .vslideImm 1 (.v 2) (.v 3) 1024 ⟨2, false⟩ .n8),
   (.v 0x47020201c148b000, .vslideReg 1 (.v 2) (.v 3) 5 ⟨2, false⟩ .n8),
   (.v 0x4a070900001e2000, .vcmpr 3 (.s 9) ⟨7, true⟩ .f16)]

theorem test_decode_move : ∀ p ∈ wordsMove, decodeSyl p.1 = some p.2 := by decide +kernel

/-- Words of the reduce instructions, each field put where R45 to R48 and the entry say. -/
def wordsReduce : List (Syl × Instr) :=
  [(.v 0x480604000000e000, .vred 3 (.v 4) .add ⟨0, false⟩ .i32),
   (.v 0x480604000000e001, .vred 3 (.v 4) .min ⟨0, false⟩ .i32),
   (.v 0x480604000000e002, .vred 3 (.v 4) .max ⟨0, false⟩ .i32),
   (.v 0x480604000000e003, .vred 3 (.v 4) .and ⟨0, false⟩ .i32),
   (.v 0x480604000000e004, .vred 3 (.v 4) .or ⟨0, false⟩ .i32),
   (.v 0x480604000000e005, .vred 3 (.v 4) .xor ⟨0, false⟩ .i32),
   (.v 0x4906040000000002, .vscan 3 (.v 4) .max ⟨0, false⟩ .f32),
   (.v 0x500604000000a16e, .vcvt 3 (.v 4) ⟨0, false⟩ .i8 .i32 3 true),
   (.v 0x51060400000070e9, .vqmx 3 (.v 4) .e2m1 9 7),
   (.v 0x5206848480000085, .vdqmx 3 (.pq 4) .e3m2 9 4),
   (.v 0x53060400001e2005, .vrnd 3 (.v 4) 5 ⟨7, true⟩ .f16),
   (.v 0x58060402c18880ff, .vdelt 3 (.v 4) (.v 5) 6 255 ⟨2, false⟩ .mxi8)]

theorem test_decode_reduce : ∀ p ∈ wordsReduce, decodeSyl p.1 = some p.2 := by decide +kernel

/-- Words of the engine instructions, each field put where R45 to R48 and the entry say. -/
def wordsEngine : List (Syl × Instr) :=
  [(.x 0x10d512500000000, .mma .h0 ⟨3, 5, 4, 9, 40⟩),
   (.x 0x24d512500000000, .mmad .h1 ⟨3, 5, 4, 9, 40⟩),
   (.x 0x48d512500000000, .mepi .hw ⟨3, 5, 4, 9, 40⟩),
   (.x 0x64d512500000000, .wload .h1 ⟨3, 5, 4, 9, 40⟩),
   (.x 0x37f803fe07fffff, .mzero .h1 2047 2047 true 15 14 1 255),
   (.x 0x560000000000000, .ovpop 12),
   (.x 0x100d512500000000, .txfer ⟨3, 5, 4, 9, 40⟩),
   (.x 0x110d512500000000, .tfill ⟨3, 5, 4, 9, 40⟩),
   (.x 0x120d512500000000, .tdrain ⟨3, 5, 4, 9, 40⟩),
   (.x 0x130d512500000000, .tmcast ⟨3, 5, 4, 9, 40⟩),
   (.x 0x142a400000000000, .tlook 5 9),
   (.x 0x152a400000000000, .tclaimAuto 5 9),
   (.x 0x152a4000000001ff, .tclaimNamed 5 9 255),
   (.x 0x1600000000000128, .tfreeNamed 40),
   (.x 0x1601c00000000000, .tfreeReg 7),
   (.x 0x1728000000000101, .tstatNamed 5 1),
   (.x 0x1729800000000000, .tstatReg 5 6)]

theorem test_decode_engine : ∀ p ∈ wordsEngine, decodeSyl p.1 = some p.2 := by decide +kernel

/-- Words of the sync instructions, each field put where R45 to R48 and the entry say. -/
def wordsSync : List (Syl × Instr) :=
  [(.x 0x2000000000000ff2, .sigImm 2 255),
   (.x 0x2002400000000002, .sigReg 2 9),
   (.x 0x2100000000000035, .swait 5 3),
   (.x 0x22180000000000f0, .semrSem 3 15),
   (.x 0x2218000000000001, .semrOvf 3),
   (.x 0x2219000000007102, .semrEnt 3 4 .h1 7),
   (.x 0x2218000000000203, .semrCfg 3 .te),
   (.x 0x2300000000000001, .eqflushD .h1),
   (.x 0x23000e0000000012, .eqflushR .te 7),
   (.x 0x283286b0004001f4, .qpush 6 10 3 11 500 4),
   (.x 0x283286b0014fffff, .qpushA 6 10 3 11 0xFFFFF 4),
   (.x 0x29329eb000f00001, .qpop 6 10 15 11 1 15),
   (.x 0x2a32800000000003, .qstat 6 10 3),
   (.x 0x3000000007ff8093, .bari 3 1 2 4095),
   (.x 0x312800000000343f, .bara 5 15 3 0 4 .di),
   (.x 0x3231c00000002441, .barw 6 1 0 1 7 4 .cl),
   (.x 0x3840060000000006, .launch 8 3 6),
   (.x 0x400540000000073c, .nsend 21 60 7),
   (.x 0x4102400000002228, .npost 9 40 2 2),
   (.x 0x4228000000000000, .nstatE 5),
   (.x 0x4228000000000001, .nstatT 5),
   (.x 0x422a400000000002, .nstatI 5 9),
   (.x 0x422a400000000003, .nstatA 5 9),
   (.x 0x48480c0000000055, .coll 9 6 5 1 1)]
  ++ [(.x 0x5000000000000062, .mrgn 2 6),
   (.x 0x5103800000001410, .minj 0 14 4 5),
   (.x 0x5100000000000000, .minjOff)]

theorem test_decode_sync : ∀ p ∈ wordsSync, decodeSyl p.1 = some p.2 := by decide +kernel

/-! ### Single steps of the S syllable -/

/-- The state after an instruction. -/
def after (i : Instr) (s : State) : State :=
  match exec i s with
  | .next t => t
  | _ => s

/-- A supervisor strand issuing at core 0 (log 10): s1 to s7 hold values at the edges of their ranges, s5 and a5 are poisoned,
a1 to a9 are addresses in and beyond its one page, m2 holds an illegal modifier, and p3 selects lanes 0 and 255. -/
def strand : State := (place State.reset 0).modSeat 0 0 fun q => { q with
  sr := [(1, 0x8000000000000000), (2, 0xFFFFFFFFFFFFFFFF), (3, 7), (4, 64), (5, 9), (6, 2), (9, 256)]
  sTag := 0x20
  ar := [(1, 256), (2, 1024), (3, 0x61), (4, 4096), (5, 64), (6, 8192), (7, 12288), (8, 16384), (9, 4088)]
  aTag := 0x20
  mr := [(1, 0x4000), (2, 3), (3, 0x03000082)]
  pr := [(3, 1 + BitVec.ofNat 1024 (2 ^ 255))] }

/-- A row whose elements of a width all hold one value. -/
def rep (w v : Nat) : Row := ⟨BitVec.ofNat 8192 ((List.range (8192 / w)).foldl (fun a k => a + v * 2 ^ (w * k)) 0), 0⟩

/-- The strand's core and memory: rows of 1.0, 2.0 and a poisoned one; slots 0 to 5 READY, FILLING, EMPTY, not granted, pinned and
another seat's; a page of the SO kind, one of the host and one of device 1; and a poisoned granule. -/
def base : State :=
  let slot (st : SlotState) (o : Option SeatId) (p : Bool) : Tile := { Tile.none with st := st, owner := o, pin0 := p, tag := 5 }
  let s := strand.modCore 0 fun x => { x with
    vrf := [(1, rep 32 0x3F800000), (2, rep 32 0x40000000), (3, ⟨0, 1⟩), (4, rep 16 3)]
    tiles := [(0, slot .ready (some 0) false), (1, slot .filling (some 0) false), (2, slot .empty (some 0) false),
      (4, slot .ready (some 0) true), (5, slot .ready (some 1) false)]
    tlb := [⟨0, 0, 2, 0, 0x607F⟩, ⟨0, 0, 3, 0, 0x800000000003F⟩, ⟨0, 0, 4, 0, 0xC00000000003F⟩, ⟨0, 0, 6, 0, 0x7033⟩] }
  { s with
    pois := [322]
    mem := putNat s.mem 0x5100 8 0x0123456789ABCDEF
    pkg := { s.pkg with fwin := [(0, ⟨1, 0, true, 0⟩)] }
    funcs := s.funcs.mapV fun f => { f with aore := true } }

/-- The attempt of that strand. -/
def e0 : At := ⟨base, 0, 0⟩

/-- The same strand at user level. -/
def user : State := base.modSeat 0 0 fun q => { q with plv := false }
def eU : At := ⟨user, 0, 0⟩

/-- The register writes that an instruction puts in flight. -/
def flown (i : Instr) (s : State) : List Write := ((after i s).seat 0 0).fly.map Fly.w

theorem test_scalar : ∀ p ∈ ([(.add 8 1 1, 0), (.sub 8 3 4, 0xFFFFFFFFFFFFFFC7), (.mul 8 2 2, 1), (.mulh 8 2 1, 0),
    (.mulhn 8 2 2, 0xFFFFFFFFFFFFFFFE), (.div 8 1 2, 0x8000000000000000), (.div 8 3 7, 0xFFFFFFFFFFFFFFFF),
    (.divn 8 4 3, 9), (.divn 8 3 0, 0xFFFFFFFFFFFFFFFF), (.rem 8 1 2, 0), (.rem 8 3 0, 7), (.remn 8 4 3, 1), (.and 8 2 3, 7),
    (.or 8 1 3, 0x8000000000000007), (.xor 8 2 3, 0xFFFFFFFFFFFFFFF8), (.andn 8 2 3, 0xFFFFFFFFFFFFFFF8), (.shl 8 3 4, 7),
    (.shr 8 1 3, 0x0100000000000000), (.sha 8 1 3, 0xFF00000000000000), (.rot 8 1 6, 2)] : List (Instr × Word)),
    flown p.1 base = [.s 8 p.2 false] := by decide +kernel

theorem test_scalar_more : ∀ p ∈ ([(.min 8 1 3, 0x8000000000000000), (.max 8 1 3, 7), (.minn 8 1 3, 7),
    (.maxn 8 1 3, 0x8000000000000000), (.clz 8 3, 61), (.clz 8 0, 64), (.ctz 8 4, 6), (.popc 8 2, 64), (.seq 8 3 3, 1),
    (.sne 8 3 3, 0), (.slt 8 1 3, 1), (.sltn 8 1 3, 0), (.sel 8 0 3 4, 64), (.sel 8 1 3 4, 7), (.bfx 8 2 32 31, 0xFFFFFFFF),
    (.addi 8 3 0xFFFFFFFF, 6), (.andi 8 2 0xFFFFFFF0, 0xFFFFFFFFFFFFFFF0), (.ori 8 0 0x80000000, 0xFFFFFFFF80000000),
    (.xori 8 3 1, 6), (.shli 8 3 63, 0x8000000000000000), (.shri 8 1 63, 1), (.shai 8 1 63, 0xFFFFFFFFFFFFFFFF), (.slti 8 1 0, 1),
    (.li 8 0x80000000, 0xFFFFFFFF80000000)] : List (Instr × Word)), flown p.1 base = [.s 8 p.2 false] := by decide +kernel

/-- BFI and LIH keep the rest of sD; a poisoned source poisons the result; a write to s0 is discarded (R17, R80, R81). -/
theorem test_scalar_merge : flown (.bfi 3 2 8 3) base = [.s 3 0xF07 false] ∧ flown (.lih 3 1) base = [.s 3 0x100000007 false]
    ∧ flown (.add 8 5 3) base = [.s 8 16 true] ∧ flown (.add 0 1 1) base = [] := by decide +kernel

/-- The pc that a control instruction chooses (R82, R83, R88, R89). -/
theorem test_branches : ∀ p ∈ ([(.br 0xFFFFFFFE, some 0xFFFFFFFFFFFFFFC0), (.beq 3 3 1, some 32), (.bne 3 3 1, none),
    (.blt 1 3 2, some 64), (.bge 1 3 2, none), (.bltn 1 3 2, none), (.bgen 1 3 2, some 64), (.jal 8 3, some 96),
    (.jalr 8 9 32, some 288), (.bpany 0 0 1, some 32), (.bpall 0 3 1, some 32), (.bpany 1 0 1, none), (.bqs 6 4 1, none),
    (.bqs 6 3 1, some 32), (.lcloseX 1 0, some 32)] : List (Instr × Option Word)),
    ((after p.1 base).seat 0 0).npc = p.2 := by decide +kernel

/-- LOOP past its body at count 0, and its registers (R85). -/
theorem test_loop : (let q := (after (.loopReg 3 2) base).seat 0 0; q.lc = 7 ∧ q.ls = 32 ∧ q.le = 64 ∧ q.npc = none)
    ∧ ((after (.loopReg 0 2) base).seat 0 0).npc = some 96 := by decide +kernel

/-- TRAP and ERET (R90, R91, R154 to R156): the trap registers of a TRAP 5 at user level, and the return from it. -/
theorem test_trap : (let q := (after (.trap 5) user).seat 0 0
    q.tcause = 0x02700107 ∧ q.tval = 5 ∧ q.epc = 32 ∧ q.plv = true ∧ q.pc = 0 ∧ q.tpsn = 0x2000000020 ∧ q.trot = 0)
    ∧ (let q := (after .eret (after (.trap 5) user)).seat 0 0; q.pc = 32 ∧ q.plv = false ∧ q.tcause = 0x00700107 ∧ q.act = false) := by
  decide +kernel

theorem test_control : flown (.crr 8 0x023) base = [.s 8 0 false] ∧ ((after (.crwReg 0x013 4) base).seat 0 0).vrb = 0
    ∧ ((after (.crwImm 0x004 63) base).seat 0 0).epc = 32
    ∧ ((after (.crwImm 0x004 63) user).seat 0 0).tcause = 0x02000102
    ∧ ((after (.stepImm 9) base).seat 0 0).stepNo = 9 ∧ ((after (.stepReg 4) base).seat 0 0).stepNo = 64
    ∧ ((after .trig base).seat 0 0).trig = true ∧ (after .trig base).held = [(2, .trig 0 (bInst (base.seat 0 0).billet) 0)] ∧ ((after .ends base).seat 0 0).st = .ended
    ∧ ((after (.chkS 5) base).seat 0 0).tcause = 0x03000105 ∧ ((after (.chkA 5) base).seat 0 0).tval = 0x105
    ∧ (after (.chkS 3) base).last = .issued ∧ (after (.fence .sy) base).last = .issued := by decide +kernel

/-- An address register's sum and modifier (R98): the tag follows, and AMODS of a poisoned register traps. -/
theorem test_address : flown (.aadd 8 1 3) base = [.a 8 263 false] ∧ flown (.aaddi 8 5 0xFFFFFFFF) base = [.a 8 63 true]
    ∧ flown (.amov 8 5) base = [.a 8 9 true] ∧ flown (.agetA 8 5) base = [.s 8 64 true] ∧ flown (.agetM 8 2) base = [.s 8 3 false]
    ∧ flown (.amods 3 3) base = [.m 3 3] ∧ ((after (.amods 3 5) base).seat 0 0).tcause = 0x03100106 := by decide +kernel

/-! ### Hypotheses of the statements about the S and A syllables -/

/-- What most statements ask of an instruction and of the strand that attempts it. -/
abbrev Legal (e : At) (i : Instr) : Prop :=
  e.s.cur = some (e.c, e.k) ∧ i.wf = true ∧ ∀ r ∈ vregsOf i, e.q.winRow r < bW e.q.billet

/-- The attempts of `base` and `user`, which every statement about the S and A syllables asks for. -/
theorem witness_attempt : base.cur = some (0, 0) ∧ base.sure = false ∧ user.cur = some (0, 0) ∧ user.sure = false := by
  decide +kernel

theorem witness_ScalarResults : base.cur = some (0, 0) ∧ e0.sGet 1 = (0x8000000000000000, false) ∧ e0.sGet 5 = (9, true)
    ∧ (32 : Bits6).toNat + (31 : Bits6).toNat ≤ 63 ∧ (63 : Bits6).toNat + (0 : Bits6).toNat ≤ 63 := by decide +kernel

theorem witness_DivisionResults : base.cur = some (0, 0) ∧ e0.sGet 1 = (0x8000000000000000, false)
    ∧ e0.sGet 2 = (0xFFFFFFFFFFFFFFFF, false) ∧ e0.sGet 0 = (0, false) := by decide +kernel

theorem witness_ImmediateResults : base.cur = some (0, 0) ∧ e0.sGet 3 = (7, false) ∧ e0.sGet 5 = (9, true) := by decide +kernel

theorem witness_BranchEffects : base.cur = some (0, 0) ∧ base.sure = false ∧ e0.sGet 3 = (7, false) ∧ 2 < (e0.sGet 3).1.toNat
    ∧ (e0.sGet 9).1.toNat % 32 = 0 ∧ (e0.sGet 3).1.toNat % 32 ≠ 0 ∧ (e0.sGet 5).2 = true
    ∧ (11 : PReg).toNat < 12 ∧ e0.sGet 6 = (2, false) ∧ (2 : Word).toNat ≤ 2
    ∧ (∃ i ∈ List.range (128 * 2 ^ (3 : Bits2).toNat), (e0.pGet 0).getLsbD i = true)
    ∧ (∀ i, i < 1024 → (e0.pGet 11).getLsbD i = false) ∧ (∀ i, i < 128 → (e0.pGet 0).getLsbD i = true) := by decide +kernel

theorem witness_LoopEffects : base.cur = some (0, 0) ∧ (1 : Bits20) ≠ 0 ∧ e0.sGet 3 = (7, false) ∧ e0.sGet 0 = (0, false) := by
  decide +kernel

theorem witness_TrapAndReturnEffects : user.cur = some (0, 0) ∧ eU.q.act = false ∧ eU.q.npc = none ∧ e0.q.plv = true
    ∧ eU.q.plv = false ∧ user.sure = false := by decide +kernel

theorem witness_ControlRegisterEffects : base.cur = some (0, 0) ∧ e0.sGet 3 = (7, false)
    ∧ (∀ cr ∈ ([0x000, 0x004, 0x009, 0x010, 0x013, 0x020, 0x084, 0x08F] : List Bits12),
        crAssigned cr.toNat = true ∧ (crSup cr.toNat = true → e0.q.plv = true))
    ∧ (user.cur = some (0, 0) ∧ user.sure = false ∧ eU.q.plv = false ∧ eU.q.act = false
        ∧ ∀ i ∈ ([.eret, .crwReg 0x001 3, .crwImm 0x084 1, .eqflushD .h0, .eqflushR .te 3, .minj 0 3 1 0, .minjOff] : List Instr),
          i.wf = true ∧ supOnly i = true) := by decide +kernel

theorem witness_StrandProgressEffects : base.cur = some (0, 0) ∧ e0.sGet 3 = (7, false) ∧ e0.q.vres = []
    ∧ ∀ n, n < 3 → ∀ p ∈ e0.x.queue n, p.2.seat ≠ e0.k := by decide +kernel

/-- A load and a store outstanding. -/
def loading : State := after (.ld 8 (.off 1 0) 3 false 1) base
def storing : State := after (.st 3 (.off 1 0) 3 1) base

theorem witness_FenceCheckPrefetchEffects : base.cur = some (0, 0) ∧ base.sure = false ∧ e0.q.vres = []
    ∧ (loading.cur = some (0, 0) ∧ loading.sure = false ∧ ∃ r ∈ (loading.seat 0 0).vres, r.kind.isLoad = true)
    ∧ (storing.cur = some (0, 0) ∧ storing.sure = false ∧ ∃ r ∈ (storing.seat 0 0).vres, r.kind.isStore = true)
    ∧ (e0.sGet 3).2 = false ∧ (e0.sGet 5).2 = true ∧ (e0.aGet 1).2 = false ∧ (e0.aGet 5).2 = true
    ∧ (∀ v ∈ ([1, 127] : List VReg), e0.q.winRow v < bW e0.q.billet ∧ (e0.vGet v).t = 0)
    ∧ (e0.q.winRow 3 < bW e0.q.billet ∧ (e0.vGet 3).t ≠ 0)
    ∧ (Instr.pref true (.post 1 1)).wf = true := by decide +kernel

theorem witness_PrefetchOperands : (e0.amem (.post 1 1)).Legal ∧ ¬ (e0.amem (.post 1 2)).Legal ∧ ¬ (e0.amem (.off 5 0)).Legal := by
  simp only [MemOp.Legal]; decide +kernel

theorem witness_AddressResults : base.cur = some (0, 0) ∧ base.sure = false ∧ e0.aGet 1 = (256, false) ∧ e0.sGet 3 = (7, false)
    ∧ e0.sGet 5 = (9, true) := by decide +kernel

/-- The range of an access is granted. -/
def granted : Span → Bool
  | .ok _ => true
  | .bad _ => false

/-- The segments of a granted range. -/
def segs : Span → List Seg
  | .ok l => l
  | .bad _ => []

theorem witness_ScalarLoadEffects : base.cur = some (0, 0) ∧ base.sure = false ∧ e0.x.fill = none ∧ (∀ v ∈ e0.q.vres, v.isOpen = false)
    ∧ isFar (segs (e0.span .read 256 8)) = false ∧ isFar (segs (e0.span .read 16384 8)) = true
    ∧ (∀ err ∈ [none, some BusErr.bus], let a : FarAns := { FarAns.none with err := err }
        (At.mk (base.modCore 0 fun x => { x with fill := some ⟨0, 0, none, some (some a)⟩ }) 0 0).answer = some a)
    ∧ (∀ mem ∈ ([.off 1 0, .off 9 0, .post 2 1, .off 8 0, .off 6 0] : List AMem),
        (e0.amem mem).tag = false ∧ (e0.amem mem).amod = [] ∧ (e0.amem mem).ea.toNat % 2 ^ (3 : Bits2).toNat = 0
        ∧ granted (e0.span .read (e0.amem mem).ea (2 ^ (3 : Bits2).toNat)) = true
        ∧ (Instr.ld 8 mem 3 true 0).wf = true ∧ (Instr.lda 8 mem 3 false .sy 15).wf = true) := by decide +kernel

theorem witness_SpeculativeLoadEffects : (∀ v ∈ e0.q.vres, v.isOpen = false) ∧ e0.x.fill = none ∧ base.cur = some (0, 0) ∧ (Instr.lds 8 (.off 1 0) 3 false 0).wf = true
    ∧ (let m := e0.amem (.off 1 0); m.tag = false ∧ m.amod = [] ∧ granted (e0.span .read m.ea 8) = true
        ∧ ∀ g ∈ segs (e0.span .read m.ea 8), g.xl.kind ≠ 1)
    ∧ (let m := e0.amem (.off 5 0); m.tag = true ∧ m.amod = [])
    ∧ (let m := e0.amem (.off 4 0); m.tag = false ∧ m.amod = [] ∧ granted (e0.span .read m.ea 8) = false)
    ∧ (let m := e0.amem (.off 6 0); m.amod = [] ∧ granted (e0.span .read m.ea 8) = true
        ∧ ∃ g ∈ segs (e0.span .read m.ea 8), g.xl.kind = 1) := by decide +kernel

/-- The failed translation of a range. -/
def faultOf : Span → Option XFault
  | .ok _ => none
  | .bad f => some f

theorem witness_AccessTraps : base.cur = some (0, 0) ∧ base.sure = false ∧ (e0.sGet 3).2 = false
    ∧ (Instr.amo 3 3 4 .add true .cl 0 1).wf = true ∧ (Instr.amocas 3 3 4 true .cl 0 1).wf = true
    ∧ (e0.amem (.post 1 2)).pi = some (2, none)
    ∧ ((e0.amem (.off 5 0)).amod = [] ∧ (e0.amem (.off 5 0)).tag = true) ∧ (e0.aGet 5).2 = true
    ∧ (let m := e0.amem (.off 1 1); m.tag = false ∧ m.amod = [] ∧ m.ea.toNat % 2 ^ (1 : Bits2).toNat ≠ 0)
    ∧ (let m := e0.amem (.off 1 4); m.tag = false ∧ m.amod = [] ∧ m.ea.toNat % 2 ^ (3 : Bits2).toNat ≠ 0)
    ∧ ((e0.aGet 3).2 = false ∧ (e0.aGet 3).1.toNat % 8 ≠ 0 ∧ (e0.aGet 3).1.toNat % 4 ≠ 0)
    ∧ (∀ ab ∈ ([4, 9] : List AReg), let m := e0.amem (.off ab 1); m.tag = false ∧ m.amod = []
        ∧ (faultOf (e0.span .read m.ea 8)).map (fun f => (f.code, f.va)) = some (fPage, if ab = 4 then 4097 else 4096)
        ∧ (faultOf (e0.span .write m.ea 8)).map (fun f => f.code) = some fPage)
    ∧ (Instr.ld 3 (.off 4 0) 3 true 0).wf = true ∧ (Instr.st 3 (.off 4 0) 3 0).wf = true := by decide +kernel

theorem witness_ScalarStoreEffects : base.cur = some (0, 0) ∧ e0.sGet 3 = (7, false)
    ∧ (∀ mem ∈ ([.off 1 0, .off 9 0, .post 2 1, .off 8 0] : List AMem), (e0.amem mem).tag = false ∧ (e0.amem mem).amod = []
        ∧ (e0.amem mem).ea.toNat % 8 = 0 ∧ granted (e0.span .write (e0.amem mem).ea 8) = true)
    ∧ (Instr.st 3 (.off 1 0) 3 0).wf = true ∧ (Instr.stl 3 (.off 1 0) 3 .cl 2).wf = true
    ∧ ((segs (e0.span .write 256 8)).length = 1 ∧ remote (segs (e0.span .write 256 8)) = false)
    ∧ (segs (e0.span .write 16384 8)).length = 1 ∧ remote (segs (e0.span .write 16384 8)) = true
    ∧ (∀ v ∈ e0.q.vres, v.isOpen = false)
    ∧ (after (.st 3 (.off 1 0) 3 0) base).last = .issued := by
  decide +kernel

/-- A store of s3 at VA 256: its bytes, little-endian, and the neighbours (R5, R104). -/
theorem test_store : (let t := after (.st 3 (.off 1 0) 1 0) base
    t.rdB 0 0x5100 = 7 ∧ t.rdB 0 0x5101 = 0 ∧ t.rdB 0 0x5102 = 0xAB ∧ t.rdB 0 0x50FF = 0) := by decide +kernel

/-- Loads widen with and without sign, from bytes EF CD AB 89 .. (R104); LDS of an unmapped address gives a poisoned 0. -/
theorem test_loads : flown (.ld 8 (.off 1 0) 0 true 0) base = [.s 8 0xFFFFFFFFFFFFFFEF false]
    ∧ flown (.ld 8 (.off 1 0) 1 false 0) base = [.s 8 0xCDEF false]
    ∧ flown (.lda 8 (.off 1 4) 2 true .cl 0) base = [.s 8 0x01234567 false]
    ∧ flown (.lds 8 (.off 4 0) 3 false 0) base = [.s 8 0 true]
    ∧ flown (.ld 8 (.post 1 1) 0 true 0) base = [.s 8 0xFFFFFFFFFFFFFFEF false, .a 1 1280 false]
    ∧ ((after (.ld 8 (.off 4 4) 3 false 0) base).seat 0 0).tcause = 0x03100201
    ∧ ((after (.ld 8 (.off 4 4) 3 false 0) base).seat 0 0).tval = 4100 := by decide +kernel

/-- The bit-reversed sequence that the spec works out, and a circular buffer (R99). -/
theorem test_modifiers : nextAddr 0x03000082 0x1000 = some 0x1020 ∧ nextAddr 0x03000082 0x1038 = some 0x1000
    ∧ nextAddr 0x03000082 0x1030 = some 0x1008 ∧ nextAddr 0x0010000140000603 0x400100 = some 0x400160
    ∧ nextAddr 0x0010000140000603 0x400220 = some 0x400140 ∧ nextAddr 3 0x100 = none := by decide +kernel

/-- A fetch-and-add of s3 at VA 256 and a compare-and-swap that fails (R108). -/
theorem test_atomics : (let t := after (.amo 8 1 3 .add true .cl 0 1) base
      leNat (t.rdBytes 0 0x5100 8) = 0x0123456789ABCDF6 ∧ (t.seat 0 0).vres.map (fun v => v.data) = [0x0123456789ABCDEF])
    ∧ (let t := after (.amocas 3 1 4 true .cl 0 1) base; leNat (t.rdBytes 0 0x5100 8) = 0x0123456789ABCDEF)
    ∧ (let t := after (.amo 8 1 2 .swap false .cl 0 1) base; leNat (t.rdBytes 0 0x5100 8) = 0x01234567FFFFFFFF) := by
  decide +kernel

/-! ### Hypotheses of the statements about rows, atomics and the V syllable -/

/-- The bytes of a row access that the active lanes touch. -/
def touch (e : At) (g : Guard) (ty : Ty) (i : Nat) : Bool := e.active g (8 * i / ty.width)

/-- Runs of bytes that a row access of `base` at a2 reads and writes. -/
def rowRuns (acc : AccKind) : List (Nat × Seg) :=
  runParts (e0.parts acc (e0.vmem (.post 2 1)).ea (touch e0 ⟨0, false⟩ .f32)) (touch e0 ⟨0, false⟩ .f32)

theorem witness_VectorLoadStoreEffects : (let m := e0.vmem (.post 2 1); m.tag = false ∧ m.amod = [] ∧ m.ea.toNat % 32 = 0
      ∧ (firstBad (touch e0 ⟨0, false⟩ .f32) (e0.parts .read m.ea (touch e0 ⟨0, false⟩ .f32))).isNone = true
      ∧ (firstBad (touch e0 ⟨0, false⟩ .f32) (e0.parts .write m.ea (touch e0 ⟨0, false⟩ .f32))).isNone = true)
    ∧ isFar ((rowRuns .read).map Prod.snd) = false ∧ remote ((rowRuns .write).map Prod.snd) = false ∧ e0.x.fill = none
    ∧ (∀ v ∈ e0.q.vres, v.isOpen = false)
    ∧ (∀ k, k < Ty.f32.lanes → e0.active ⟨0, false⟩ k = true → (e0.vGet 1).t.getLsbD (k * 32 / 256) = false)
    ∧ ∀ i ∈ ([.vld 1 (.post 2 1) ⟨0, false⟩ .f32 0, .vlds 1 (.post 2 1) ⟨0, false⟩ .f32 0, .vst 1 (.post 2 1) ⟨0, false⟩ .f32 1]
        : List Instr), Legal e0 i := by decide +kernel

theorem witness_GatherScatterEffects : (let m := e0.vmem (.off 2 0); m.tag = false ∧ m.amod = [])
    ∧ e0.idxPois 0 .f32 (e0.active ⟨3, false⟩) = [] ∧ e0.x.fill = none ∧ (∀ v ∈ e0.q.vres, v.isOpen = false)
    ∧ (∀ acc ∈ [AccKind.read, AccKind.write], let ls := e0.lanes acc 1024 0 .f32 (e0.active ⟨3, false⟩)
        laneAlign .f32 ls = [] ∧ (laneBad ls).isNone = true ∧ isFar ((laneParts .f32 ls).map Prod.snd) = false
        ∧ remote (ls.flatMap (Lane.segs .f32)) = false)
    ∧ rowPois (e0.vGet 1) 1 .f32 (e0.active ⟨3, false⟩) = []
    ∧ Legal e0 (.vgth 1 (.off 2 0) 0 ⟨3, false⟩ .f32 0) ∧ Legal e0 (.vsct 1 (.off 2 0) 0 ⟨3, false⟩ .f32 3) := by
  decide +kernel

theorem witness_RowMoveEffects : (∀ i ∈ .vfetch 7 1 :: ([0, 1, 2, 3, 4, 5, 255] : List Slot).flatMap fun n =>
      [.vtld 1 n 15 ⟨0, false⟩ .f32, .vtst 1 n 0 ⟨0, false⟩ .f32], Legal e0 i) ∧ base.sure = false
    ∧ ((e0.x.tile 0).owner = some 0 ∧ (e0.x.tile 0).st = .ready ∧ (e0.x.tile 0).pins = 0)
    ∧ ((e0.x.tile 1).owner = some 0 ∧ (e0.x.tile 1).st = .filling) ∧ ((e0.x.tile 2).owner = some 0 ∧ (e0.x.tile 2).st = .empty)
    ∧ (e0.x.tile 255).owner = none ∧ ((e0.x.tile 4).owner = some 0 ∧ (e0.x.tile 4).st = .ready ∧ (e0.x.tile 4).pins ≠ 0)
    ∧ ((e0.x.tile 5).owner ≠ none ∧ (e0.x.tile 5).owner ≠ some 0) := by decide +kernel

/-- An atomic at memory of this device, at two addresses: the granule of the second is poisoned. -/
theorem witness_AtomicEffects : base.cur = some (0, 0) ∧ e0.aGet 1 = (256, false) ∧ e0.sGet 3 = (7, false) ∧ (256 : Word).toNat % 8 = 0
    ∧ e0.span .atomic 256 8 = .ok [⟨⟨0x5100, 0, true, false, 0, 0, 0, ⟨1, 0, 0⟩⟩, 8⟩] ∧ e0.span .atomic 128 4 = .ok [⟨⟨0x5080, 0, true, false, 0, 0, 0, ⟨1, 0, 0⟩⟩, 4⟩]
    ∧ isHost 0x5100 = false ∧ isFab 0x5100 = false ∧ isHost 0x5080 = false ∧ isFab 0x5080 = false
    ∧ (granules 0x5080 4).any base.isPois = true ∧ (granules 0x5100 8).any base.isPois = false
    ∧ (Instr.amo 3 1 3 .add true .cl 0 1).wf = true ∧ (Instr.amocas 3 1 3 true .cl 0 1).wf = true
    ∧ (Instr.amo 0 1 3 .xor false .cl 0 0).wf = true := by
  decide +kernel

/-- Atomics at the host's page and at device 1's page. -/
theorem witness_RemoteAtomicEffects : base.cur = some (0, 0) ∧ base.sure = false ∧ e0.aGet 7 = (12288, false) ∧ e0.aGet 8 = (16384, false)
    ∧ e0.sGet 3 = (7, false) ∧ (12288 : Word).toNat % 8 = 0
    ∧ e0.span .atomic 12288 8 = .ok [⟨⟨0x8000000000000, 0, false, false, 0, 0, 0, ⟨1, 0, 0⟩⟩, 8⟩] ∧ isHost 0x8000000000000 = true
    ∧ isFab 0x8000000000000 = false ∧ (base.func e0.q.func).aore = true
    ∧ e0.span .atomic 16384 8 = .ok [⟨⟨0xC000000000000, 0, false, false, 0, 0, 0, ⟨1, 0, 0⟩⟩, 8⟩] ∧ isFab 0xC000000000000 = true
    ∧ isHost 0xC000000000000 = false
    ∧ (∀ v ∈ e0.q.vres, v.isOpen = false)
    ∧ (∀ scp ∈ [Scope.st, .cl, .dm, .sy], (Instr.amocas 3 7 3 true scp 0 1).wf = true
        ∧ ∀ op ∈ [Aop.add, .swap, .min], (Instr.amo 3 7 3 op true scp 0 1).wf = true) := by
  decide +kernel

/-- The instructions that the statements about the lanes of the V syllable name. -/
def vectorOps : List Instr :=
  [.vadd 9 (.v 1) (.v 2) ⟨0, false⟩ .f32, .vsub 9 (.v 1) (.v 2) ⟨0, false⟩ .bf16, .vmul 9 (.pq 1) (.s 3) ⟨11, true⟩ .f16,
   .vdiv 9 (.v 1) (.v 2) ⟨0, false⟩ .f32, .vfma 9 (.v 1) (.v 2) (.v 127) ⟨0, false⟩ .f32, .vfms 9 (.v 1) (.v 2) (.v 1) ⟨0, false⟩ .f32,
   .vfnma 9 (.v 1) (.v 2) (.v 1) ⟨0, false⟩ .f32, .vsqrt 9 (.v 1) ⟨0, false⟩ .f32, .vmin 9 (.v 1) (.v 2) ⟨0, false⟩ .f32,
   .vmax 9 (.v 1) (.v 2) ⟨0, false⟩ .f32, .vabs 9 (.v 1) ⟨0, false⟩ .f32, .vneg 9 (.v 1) ⟨0, false⟩ .f32,
   .vcps 9 (.v 1) (.v 2) ⟨0, false⟩ .f32, .vrcp 9 (.v 1) ⟨0, false⟩ .f32, .vrsq 9 (.v 1) ⟨0, false⟩ .f32,
   .vex2 9 (.v 1) ⟨0, false⟩ .f32, .vlg2 9 (.v 1) ⟨0, false⟩ .f32, .vtnh 9 (.v 1) ⟨0, false⟩ .f32, .vlgs 9 (.v 1) ⟨0, false⟩ .f32,
   .vsin 9 (.v 1) ⟨0, false⟩ .f32, .vcos 9 (.v 1) ⟨0, false⟩ .f32]
  ++ [.viadd 9 (.v 1) (.v 2) true ⟨0, false⟩ .i8, .visub 9 (.v 1) (.v 2) true ⟨0, false⟩ .n64, .vimul 9 (.v 1) (.v 2) ⟨0, false⟩ .i32,
   .vimulh 9 (.v 1) (.v 2) ⟨0, false⟩ .i32, .vimad 9 (.v 1) (.v 2) (.v 1) ⟨0, false⟩ .i32, .vand 9 (.v 1) (.v 2) ⟨0, false⟩ .i32,
   .vor 9 (.v 1) (.v 2) ⟨0, false⟩ .i32, .vxor 9 (.v 1) (.v 2) ⟨0, false⟩ .i32, .vnot 9 (.v 1) ⟨0, false⟩ .i32,
   .vshl 9 (.v 1) (.v 2) ⟨0, false⟩ .i32, .vshr 9 (.v 1) (.v 2) ⟨0, false⟩ .i32, .vsha 9 (.v 1) (.v 2) ⟨0, false⟩ .i32,
   .vimin 9 (.v 1) (.v 2) ⟨0, false⟩ .i32, .vimax 9 (.v 1) (.v 2) ⟨0, false⟩ .i32, .viabs 9 (.v 1) false ⟨0, false⟩ .i32,
   .vcmp 11 (.v 1) (.v 2) 7 true ⟨0, false⟩ .f32, .vicmp 11 (.v 1) (.v 2) 5 false ⟨0, false⟩ .i32,
   .pand 1 2 11 ⟨0, false⟩ .f32, .por 1 2 11 ⟨0, false⟩ .f32, .pxor 1 2 11 ⟨0, false⟩ .f32, .pnot 1 2 ⟨0, false⟩ .f32,
   .pmov 1 2 ⟨0, false⟩ .f32, .psetImm 1 1024 ⟨0, false⟩ .n8, .psetReg 1 3 ⟨0, false⟩ .f32, .pcnt 8 2 ⟨0, false⟩ .f32,
   .pfst 8 2 ⟨0, false⟩ .f32]
  ++ [.vmov 9 (.v 1) ⟨0, false⟩ .i64, .vsel 9 3 (.v 1) (.v 2) ⟨0, false⟩ .f32, .vbcstScalar 9 3 ⟨0, false⟩ .f32,
   .vbcstImm 9 0xFF ⟨0, false⟩ .n8, .vbcstLane 9 (.v 1) 3 ⟨0, false⟩ .f32, .vextReg 8 (.v 1) 3 .f32, .vinsReg 9 3 3 .f32,
   .vextImm 8 (.v 1) 255 .f32, .vinsImm 9 3 0 .f32, .vshuf 9 (.v 1) (.v 2) ⟨0, false⟩ .f32,
   .vshufTwo 9 (.v 1) (.v 2) (.v 1) ⟨0, false⟩ .f32, .vslideImm 9 (.v 1) (.v 2) 256 ⟨0, false⟩ .f32,
   .vslideReg 9 (.v 1) (.v 2) 3 ⟨0, false⟩ .f32, .vcmpr 9 (.v 1) ⟨0, false⟩ .f32, .vred 9 (.v 1) .add ⟨0, false⟩ .i32,
   .vred 9 (.v 1) .max ⟨0, false⟩ .f32, .vscan 9 (.v 1) .add ⟨0, false⟩ .i32, .vcvt 9 (.v 1) ⟨0, false⟩ .i8 .i32 3 true,
   .vcvt 9 (.v 1) ⟨0, false⟩ .f32 .e2m1 3 false, .vrnd 9 (.v 1) 5 ⟨0, false⟩ .f32, .vqmx 9 (.v 1) .e4m3 8 3,
   .vdqmx 9 (.v 1) .e2m1 3 7, .vdelt 9 (.v 1) (.v 2) 3 255 ⟨0, false⟩ .f32]

/-- What FloatResults, SpecialFunctionResults, IntegerLaneResults, ReductionResults, ConversionResults and
QuantisationAndDeltaResults ask of each instruction that they name. -/
theorem witness_VectorOps : ∀ i ∈ vectorOps, Legal e0 i := by decide +kernel

/-- Operands of VMIN and VMAX: zeros of both signs, values that compare, and NaN (R116). -/
theorem witness_FloatResults : (∀ i ∈ vectorOps, Legal e0 i) ∧ real e0.fcr .f32 0x80000000 = .fin true 0 (-149)
    ∧ real e0.fcr .f32 0 = .fin false 0 (-149) ∧ (real e0.fcr .f32 0x3F800000).cmp (real e0.fcr .f32 0x40000000) = some .lt
    ∧ (real e0.fcr .f32 0x40000000).cmp (real e0.fcr .f32 0x3F800000) = some .gt
    ∧ (real e0.fcr .f32 0).cmp (real e0.fcr .f32 0x80000000) = some .eq ∧ (real e0.fcr .f32 0x7FC00000).isNan = true
    ∧ Ty.f32.isWide = true := ⟨witness_VectorOps, by decide +kernel⟩

theorem witness_IntegerLaneResults : ∀ i ∈ vectorOps, Legal e0 i := witness_VectorOps

theorem witness_PredicateResults : (∀ i ∈ vectorOps, Legal e0 i) ∧ (e0.sGet 3).2 = false := ⟨witness_VectorOps, by decide +kernel⟩

theorem witness_LaneMoveResults : (∀ i ∈ vectorOps, Legal e0 i) ∧ (e0.sGet 3).2 = false := ⟨witness_VectorOps, by decide +kernel⟩

theorem witness_SpecialFunctionResults : Ty.f32.isWide = true ∧ (real e0.fcr .f32 0x7FC00000).isNan = true := by decide +kernel

theorem witness_CompareResults : (∀ k, k < 256 → e0.active ⟨0, false⟩ k = true →
      (e0.opnd (.v 1)).tg 32 k = false ∧ (e0.opnd (.v 2)).tg 32 k = false) ∧ (e0.sGet 3).2 = false := by decide +kernel

theorem witness_ReductionResults : (∀ i ∈ vectorOps, Legal e0 i) ∧ Ty.i32.isInt = true ∧ Ty.f32.isWide = true ∧ e0.active ⟨0, false⟩ 255 = true :=
  ⟨witness_VectorOps, by decide +kernel⟩

theorem witness_ConversionResults : (real e0.fcr .f32 0x7FC00000).isNan = true ∧ real e0.fcr .f32 0x80000000 = .fin true 0 (-149)
    ∧ real e0.fcr .f32 0xFF800000 = .inf true ∧ real e0.fcr .f32 0x3F800000 = .fin false 8388608 (-23) := by
  decide +kernel

/-- In VDELT: a poisoned block, a NaN threshold, a difference above and below the threshold. -/
theorem witness_QuantisationAndDeltaResults : (e0.opnd (.v 3)).tg 32 0 = true ∧ (real e0.fcr .f32 0x7FC00000).isNan = true
    ∧ (∀ k, k < 32 → (((deltaVal e0.fcr .f32 ((e0.opnd (.v 1)).el 32 k)).add false
        (deltaVal e0.fcr .f32 ((e0.opnd (.v 2)).el 32 k)).neg).abs).cmp (real e0.fcr .f32 7) = some .gt)
    ∧ (∀ k, k < 32 → (((deltaVal e0.fcr .f32 ((e0.opnd (.v 1)).el 32 k)).add false
        (deltaVal e0.fcr .f32 ((e0.opnd (.v 2)).el 32 k)).neg).abs).cmp (real e0.fcr .f32 0x40000000) = some .lt)
    ∧ (Machine.Num.fin false 0 0).cmp (real e0.fcr .f32 0x40000000) = some .lt
    ∧ (Machine.Num.fin false 0 0).cmp (real e0.fcr .f32 0) = some .eq
    ∧ (∀ k, k < 32 → (((deltaVal e0.fcr .f32 ((e0.opnd (.v 1)).el 32 k)).add false
        (deltaVal e0.fcr .f32 ((e0.opnd (.v 2)).el 32 k)).neg).abs).cmp (real e0.fcr .f32 0x3F800000) = some .eq)
    ∧ ((e0.sGet 0).1.toNat / 2 ^ (8 * 7) % 256 = 0) ∧ (e0.sGet 2).1.toNat / 2 ^ (8 * 7) % 256 = 255 ∧ (e0.sGet 5).2 = true := by
  decide +kernel

/-- A window of 64 rows. -/
def narrow : State := base.modSeat 0 0 fun q => { q with billet := setBits q.billet 21 16 1 }
def eN : At := ⟨narrow, 0, 0⟩

theorem witness_VectorTraps : (e0.sGet 5).2 = true ∧ base.sure = false
    ∧ (∀ i ∈ ([.psetReg 1 5 ⟨0, false⟩ .f32, .vbcstLane 9 (.v 1) 5 ⟨0, false⟩ .f32, .vextReg 8 (.v 1) 5 .f32, .vinsReg 9 3 5 .f32,
        .vslideReg 9 (.v 1) (.v 2) 5 ⟨0, false⟩ .f32, .vcmp 1 (.s 5) (.v 1) 0 false ⟨0, false⟩ .f32,
        .vicmp 1 (.s 5) (.v 1) 0 false ⟨0, false⟩ .i32, .vicmp 1 (.v 3) (.v 1) 0 false ⟨0, false⟩ .i32] : List Instr),
        Legal e0 i)
    ∧ (∃ k, k < 256 ∧ e0.active ⟨0, false⟩ k = true ∧ (e0.vGet 3).t.getLsbD (k * 32 / 256) = true)
    ∧ (narrow.cur = some (0, 0) ∧ narrow.sure = false ∧ (Instr.vmov 63 (.v 64) ⟨0, false⟩ .f32).wf = true
        ∧ eN.q.shapeOk (.vmov 63 (.v 64) ⟨0, false⟩ .f32) = true ∧ sylOf (.vmov 63 (.v 64) ⟨0, false⟩ .f32) = 2
        ∧ vregsOf (.vmov 63 (.v 64) ⟨0, false⟩ .f32) = [63] ++ 64 :: [] ∧ eN.q.winRow 63 < bW eN.q.billet
        ∧ bW eN.q.billet ≤ eN.q.winRow 64) := by
  refine ⟨?_, ?_, ?_, ⟨0, ?_⟩, ?_⟩ <;> decide +kernel

theorem witness_VectorTraps_registers : (e0.sGet 5).2 = true ∧ (e0.sGet 3).2 = false ∧ (e0.aGet 5).2 = true ∧ base.cur = some (0, 0)
    ∧ base.sure = false ∧ ∀ i ∈ ([.beq 5 3 0, .bne 3 5 0, .blt 5 5 0, .bge 5 3 0, .bltn 5 3 0, .bgen 5 3 0, .bqs 5 3 0, .loopReg 5 1, .stepReg 5,
      .crwReg 4 5, .qpush 8 5 5 3 0 1, .qpushA 8 5 5 3 0 1, .qpop 8 3 5 3 0 1, .qstat 8 5 0, .sigReg 1 5, .semrEnt 8 5 .h0 0, .tlook 8 5,
      .tclaimAuto 8 5, .tclaimNamed 8 5 2, .tfreeReg 5, .tstatReg 8 5, .barw 8 0 0 0 5 1 .cl, .nsend 5 0 1, .npost 5 0 0 1, .nstatI 8 5,
      .nstatA 8 5, .minj 0 5 1 0, .eqflushR .h0 5, .launch 8 5 1, .coll 8 5 1 0 0] : List Instr),
      i.wf = true ∧ e0.q.shapeOk i = true ∧ (supOnly i = true → e0.q.plv = true) := by decide +kernel

/-- A lane of the row that an instruction writes, once it has landed. -/
def lane (i : Instr) (w k : Nat) : Nat := (((after i base).core 0).landAll 0 |>.row 9).d.toNat / 2 ^ (k * w) % 2 ^ w

/-- 1.0 + 2.0 = 3.0, 1.0 − 2.0, 1.0 × 2.0, 1.0 / 2.0, 1 × 2 + 1, and single-operand results, in the last lane (R113, R116, R117). -/
theorem test_float : ∀ p ∈ ([(.vadd 9 (.v 1) (.v 2) ⟨3, false⟩ .f32, 0x40400000), (.vsub 9 (.v 1) (.v 2) ⟨3, false⟩ .f32, 0xBF800000),
    (.vmul 9 (.v 1) (.v 2) ⟨3, false⟩ .f32, 0x40000000), (.vdiv 9 (.v 1) (.v 2) ⟨3, false⟩ .f32, 0x3F000000),
    (.vfma 9 (.v 1) (.v 2) (.v 1) ⟨3, false⟩ .f32, 0x40400000), (.vfms 9 (.v 1) (.v 2) (.v 1) ⟨3, false⟩ .f32, 0x3F800000),
    (.vfnma 9 (.v 1) (.v 2) (.v 1) ⟨3, false⟩ .f32, 0xBF800000), (.vmin 9 (.v 1) (.v 2) ⟨3, false⟩ .f32, 0x3F800000),
    (.vmax 9 (.v 1) (.v 2) ⟨3, false⟩ .f32, 0x40000000), (.vneg 9 (.v 1) ⟨3, false⟩ .f32, 0xBF800000),
    (.vcps 9 (.v 1) (.v 2) ⟨3, false⟩ .f32, 0x3F800000), (.vsqrt 9 (.v 1) ⟨3, false⟩ .f32, 0x3F800000),
    (.vrcp 9 (.v 2) ⟨3, false⟩ .f32, 0x3F000000), (.vex2 9 (.v 2) ⟨3, false⟩ .f32, 0x40800000),
    (.vlg2 9 (.v 2) ⟨3, false⟩ .f32, 0x3F800000), (.vcos 9 (.v 2) ⟨3, false⟩ .f32, 0x3F800000)] : List (Instr × Nat)),
    lane p.1 32 255 = p.2 := by decide +kernel

/-- Integer lanes: saturation, high products, shifts (R118); s3 = 7 and s2 all ones as broadcast operands (R110). -/
theorem test_integer : ∀ p ∈ ([(.viadd 9 (.s 3) (.s 2) true ⟨3, false⟩ .n32, 0xFFFFFFFF), (.viadd 9 (.s 3) (.s 2) false ⟨3, false⟩ .i32, 6),
    (.visub 9 (.s 3) (.s 2) true ⟨3, false⟩ .n32, 0), (.vimul 9 (.s 3) (.s 2) ⟨3, false⟩ .i32, 0xFFFFFFF9),
    (.vimulh 9 (.s 3) (.s 2) ⟨3, false⟩ .i32, 0xFFFFFFFF), (.vimulh 9 (.s 3) (.s 2) ⟨3, false⟩ .n32, 6),
    (.vimad 9 (.s 3) (.s 3) (.s 2) ⟨3, false⟩ .i32, 48), (.vshl 9 (.s 3) (.s 4) ⟨3, false⟩ .n32, 7),
    (.vsha 9 (.s 2) (.s 3) ⟨3, false⟩ .n32, 0xFFFFFFFF), (.vshr 9 (.s 2) (.s 3) ⟨3, false⟩ .i32, 0x01FFFFFF),
    (.vimin 9 (.s 3) (.s 2) ⟨3, false⟩ .i32, 0xFFFFFFFF), (.vimax 9 (.s 3) (.s 2) ⟨3, false⟩ .i32, 7),
    (.viabs 9 (.s 2) false ⟨3, false⟩ .i32, 1), (.vnot 9 (.s 3) ⟨3, false⟩ .i32, 0xFFFFFFF8)] : List (Instr × Nat)),
    lane p.1 32 0 = p.2 := by decide +kernel

/-- Moves, slides, reductions and conversions (R122 to R132): lane 255, or lane 0 for a reduction. -/
theorem test_moves : lane (.vslideImm 9 (.v 1) (.v 2) 255 ⟨0, false⟩ .f32) 32 0 = 0x3F800000
    ∧ lane (.vslideImm 9 (.v 1) (.v 2) 255 ⟨0, false⟩ .f32) 32 1 = 0x40000000
    ∧ lane (.vbcstImm 9 0x80000000 ⟨0, false⟩ .i64) 64 127 = 0xFFFFFFFF80000000
    ∧ lane (.vinsImm 9 3 255 .f32) 32 255 = 7 ∧ lane (.vinsImm 9 3 255 .f32) 32 254 = 0
    ∧ lane (.vred 9 (.v 4) .max ⟨0, false⟩ .n16) 16 0 = 3 ∧ lane (.vred 9 (.v 2) .add ⟨0, false⟩ .f32) 32 0 = 0x44000000
    ∧ lane (.vred 9 (.v 4) .add ⟨0, false⟩ .n16) 16 0 = 1536 ∧ lane (.vred 9 (.v 4) .add ⟨0, false⟩ .n16) 16 1 = 0
    ∧ lane (.vscan 9 (.v 4) .add ⟨0, false⟩ .n16) 16 4 = 15
    ∧ lane (.vcvt 9 (.v 2) ⟨0, false⟩ .bf16 .f32 1 false) 16 256 = 0x4000 ∧ lane (.vcvt 9 (.v 2) ⟨0, false⟩ .bf16 .f32 1 false) 16 255 = 0
    ∧ lane (.vcvt 9 (.v 2) ⟨0, false⟩ .i8 .f32 3 false) 8 1023 = 2 ∧ lane (.vrnd 9 (.v 1) 0 ⟨0, false⟩ .f32) 32 9 = 0x3F800000
    ∧ flown (.vextImm 8 (.v 1) 255 .i32) base = [.s 8 0x3F800000 false]
    ∧ flown (.pcnt 8 0 ⟨0, false⟩ .n16) base = [.s 8 512 false] ∧ flown (.pfst 8 1 ⟨0, false⟩ .n16) base = [.s 8 512 false]
    ∧ flown (.psetImm 1 3 ⟨0, false⟩ .f32) base = [.p 1 7]
    ∧ flown (.vcmp 1 (.v 1) (.v 2) 2 false ⟨0, false⟩ .f32) base = [.p 1 (BitVec.ofNat 1024 (2 ^ 256 - 1))] := by decide +kernel

/-- Traps of the V syllable: a poisoned count, and a row above the window (R25, R112). -/
theorem test_vector_traps : ((after (.psetReg 1 5 ⟨0, false⟩ .f32) base).seat 0 0).tcause = 0x03200106
    ∧ (let q := (after (.vmov 63 (.v 64) ⟨0, false⟩ .f32) narrow).seat 0 0; q.tcause = 0x03200103 ∧ q.tval = 64) := by decide +kernel

/-! ### Hypotheses of the statements about the X syllable -/

/-- An entry of H0 as an MMA with wait 1, signal 2, its block at 256, a stamp of 7 and slack 4 leaves it (R179). -/
def ent0 : Entry :=
  { st := .head, seat := 0, opc := 1, q := 0, wt := 1, sg := 2, slk := 4, seq := 0, stepc := 0, nstep := 0, pba := 256, fcr := 0,
    stamped := true, stamp := 7, bpois := 0, fcode := 0, fval := 0, enq := 0, since := 0, pace := false, token := false,
    stampOk := false, gateAt := 0, ch0 := false, ch1 := false, lreq := none, leave := false, blk := none, rdAt := 0, zrow := 0,
    zrows := 0, zlh := false, again := false, start := none, busy := false, run := .zero, ahead := [], chk := none, fail := none,
    lwf := none, buf := [], far := none, wout := [], tail := [], redo := (0, 0), dst := [], pins := [], drop := false, whyNo := 0,
    whyAt := 0, late := 0, lateAt := 0, flush := false, held := [], fog := [], asked := false, segs := [], recs := [] }

/-- H0 full: 16 entries of the seat. -/
def full : State := base.modCore 0 fun x => { x with h0 := (List.range 16).map fun i => (i, ent0) }
def eF : At := ⟨full, 0, 0⟩

/-- One command of each kind with its parts, for H0, H1, HW and the transfer queue. -/
theorem witness_EngineCommandEffects : (∀ i ∈ ([.mma .h0 ⟨1, 2, 1, 3, 4⟩, .mmad .h1 ⟨0, 0, 2, 0, 0⟩, .mepi .hw ⟨0, 0, 2, 0, 0⟩,
      .wload .h0 ⟨0, 0, 1, 0, 0⟩, .mzero .hw 2047 128 false 0 0 0 0, .txfer ⟨0, 0, 1, 0, 0⟩, .tfill ⟨0, 0, 1, 0, 0⟩,
      .tdrain ⟨0, 0, 1, 0, 0⟩, .tmcast ⟨0, 0, 1, 3, 255⟩, .mma .h0 ⟨0, 0, 5, 0, 0⟩, .tfill ⟨0, 0, 1, 5, 0⟩, .txfer ⟨0, 0, 3, 0, 0⟩]
        : List Instr), Legal e0 i)
    ∧ e0.aGet 1 = (256, false) ∧ (256 : Word).toNat % 256 = 0 ∧ e0.sGet 3 = (7, false) ∧ base.sure = false
    ∧ (∀ n, n < 3 → inUse (e0.x.queue n) e0.k < quota e0.q.billet n ∧ 15 < capacity n ∧ (e0.x.queue n).find 15 = none)
    ∧ ((e0.aGet 5).2 = true) ∧ ((e0.sGet 5).2 = true ∧ (5 : SReg) ≠ 0) ∧ ((e0.aGet 3).2 = false ∧ (e0.aGet 3).1.toNat % 256 ≠ 0)
    ∧ (Legal eF (.mma .h0 ⟨1, 2, 1, 3, 4⟩) ∧ full.sure = false ∧ ¬ inUse (eF.x.queue 0) eF.k < quota eF.q.billet 0) := by
  decide +kernel

/-- Two sources: 5 << 14 names the tag of every slot of `base`; 0 names no slot's tag. -/
theorem witness_SlotInstructionEffects :
    let s := base.modSeat 0 0 fun q => { q with sr := q.sr.put 8 81920 }
    let e : At := ⟨s, 0, 0⟩
    let z : At := ⟨base.modCore 0 fun x => { x with tiles := [] }, 0, 0⟩
    s.cur = some (0, 0) ∧ s.sure = false ∧ e.sGet 8 = (81920, false) ∧ (81920 : Word).extractLsb' 14 43 = 5
    ∧ ((e.x.tile 0).owner = some e.k ∧ (e.x.tile 0).st ≠ .empty ∧ (e.x.tile 0).tag = 5)
    ∧ (e.sGet 0 = (0, false) ∧ ∀ j, j < 256 → ¬ ((e.x.tile j).owner = some e.k ∧ (e.x.tile j).st ≠ .empty ∧ (e.x.tile j).tag = 0))
    ∧ ((e.x.tile 2).owner = some e.k ∧ (e.x.tile 2).st = .empty
        ∧ ∀ m, m < 2 → ¬ ((e.x.tile m).owner = some e.k ∧ (e.x.tile m).st = .empty))
    ∧ (z.s.cur = some (0, 0) ∧ ∀ j, j < 256 → (z.x.tile j).owner = none)
    ∧ ((e.x.tile 0).st = .ready ∧ (e.x.tile 0).pins = 0) ∧ ((e.x.tile 1).owner = some e.k ∧ (e.x.tile 1).st = .filling)
    ∧ ((e.x.tile 4).owner = some e.k ∧ (e.x.tile 4).st = .ready ∧ (e.x.tile 4).pins ≠ 0) ∧ (81920 : Word).toNat % 256 = 0
    ∧ (e.x.tile 255).owner = none ∧ (e.x.tile 5).owner = some 1 ∧ (1 : SeatId) ≠ e.k := by decide +kernel

/-- Slots: a hit on slot 0, a miss that names slot 2, a miss without an EMPTY slot, claims, frees and status words (R225 to R228). -/
theorem test_slots :
    let s := base.modSeat 0 0 fun q => { q with sr := q.sr.put 8 81920 }
    flown (.tlook 9 8) s = [.s 9 0x200 false] ∧ flown (.tlook 9 0) s = [.s 9 0x8000000000000002 false]
    ∧ flown (.tlook 9 0) (base.modCore 0 fun x => { x with tiles := [] }) = [.s 9 0x8000000000000100 false]
    ∧ flown (.tclaimAuto 9 3) s = [.s 9 2 false] ∧ flown (.tstatNamed 9 5) s = [.s 9 0x80 false]
    ∧ flown (.tstatNamed 9 3) s = [.s 9 0 false]
    ∧ (((after (.tfreeNamed 0) s).core 0).tile 0).st = .empty ∧ (after (.tfreeNamed 1) s).last = .held
    ∧ ((after (.tfreeNamed 2) s).seat 0 0).tval = 0x202 := by decide +kernel

/-- Semaphore 3 holds 2, 4 holds 255; H0 holds a FAULTED entry in 1, a later RUNNING one in 2 with a step in progress. -/
def queued : State := (base.modSeat 0 0 fun q => { q with w := [(3, 2), (4, 255)], ovf := 8 }).modCore 0 fun x => { x with
  h0 := [(1, { ent0 with st := .faulted, fcode := 5, fval := 6, enq := 1 }), (2, { ent0 with st := .running, busy := true, enq := 2 })] }
def eQ : At := ⟨queued, 0, 0⟩

theorem witness_SemaphoreInstructionEffects : ((eQ.x.queue 0).map Prod.fst).Nodup ∧ ((eF.x.queue 0).map Prod.fst).Nodup
    ∧ (∀ v ∈ eQ.q.vres, v.isOpen = false) ∧ queued.cur = some (0, 0) ∧ queued.sure = false ∧ eQ.q.plv = true
    ∧ eQ.sGet 3 = (7, false) ∧ eQ.sGet 2 = (0xFFFFFFFFFFFFFFFF, false) ∧ eQ.sGet 0 = (0, false) ∧ eQ.sGet 6 = (2, false)
    ∧ (Instr.sigImm 3 1).wf = true ∧ (Instr.sigImm 63 255).wf = true ∧ (Instr.sigReg 3 2).wf = true
    ∧ ((Instr.swait 3 2).wf = true ∧ (2 : Bits8).toNat ≤ (eQ.q.sem 3).toNat) ∧ (Instr.semrSem 8 3).wf = true
    ∧ ((Instr.swait 3 3).wf = true ∧ (eQ.q.sem 3).toNat < (3 : Bits8).toNat)
    ∧ capacity 0 ≤ (0xFFFFFFFFFFFFFFFF : Word).toNat % 64
    ∧ ((2 : Word).toNat % 64 < capacity 0 ∧ ((eQ.x.queue 0).find 2).isSome = true
        ∧ ∀ f, (eQ.x.queue 0).find 2 = some f → f.seat = eQ.k ∧ f.drop = false)
    ∧ (∀ p ∈ e0.x.queue 0, ¬ (p.2.seat = e0.k ∧ p.2.st = .faulted)) ∧ e0.q.plv = true
    ∧ (∃ p ∈ eQ.x.queue 0, p.2.seat = eQ.k ∧ p.2.drop = false ∧ p.2.st = .faulted
        ∧ ∀ r ∈ eQ.x.queue 0, r.2.st = .faulted → r = p)
    ∧ (∀ p ∈ eF.x.queue 0, p.2.busy = false) ∧ (∃ p ∈ eQ.x.queue 0, p.2.seat = eQ.k ∧ p.2.st = .running ∧ p.2.busy = true) := by
  decide +kernel

/-- SWAIT and SEMR, and a resumed entry (R182, R187 to R190). -/
theorem test_semaphores : ((after (.swait 3 2) queued).seat 0 0).sem 3 = 0 ∧ (after (.swait 3 3) queued).last = .held
    ∧ ((after (.sigReg 5 2) queued).seat 0 0).inc = [(5, 255)] ∧ flown (.semrSem 8 4) queued = [.s 8 255 false]
    ∧ flown (.semrOvf 8) queued = [.s 8 8 false] ∧ ((after (.semrOvf 8) queued).seat 0 0).ovf = 0
    ∧ flown (.semrEnt 8 2 .h0 0) queued = [.s 8 0 false] ∧ flown (.semrEnt 8 6 .h0 2) queued = [.s 8 256 false]
    ∧ flown (.semrCfg 8 .h0) queued = [.s 8 0x2100000 false]
    ∧ (after (.eqflushD .h0) queued).last = .held
    ∧ (((after (.eqflushR .h0 3) queued).core 0).h0.find 1).map (fun f => (f.stamp, f.stamped)) = some (7, true) := by decide +kernel

/-- Overflow events of seats 0 and 1. -/
def evented : State := (base.modSeat 0 0 fun q => { q with olost := true }).modCore 0 fun x => { x with ovq := [0x1005, 0x0007, 0x0009] }
def eO : At := ⟨evented, 0, 0⟩

theorem witness_EventAndMarginInstructionEffects : evented.cur = some (0, 0) ∧ eO.q.plv = true ∧ eO.sGet 3 = (7, false)
    ∧ (eO.x.ovq.find? fun w => w.extractLsb' 12 2 = eO.k) = some 7 ∧ (e0.x.ovq.find? fun w => w.extractLsb' 12 2 = e0.k) = none
    ∧ (Instr.minj 0 3 1 0).wf = true ∧ (Instr.minj 2 3 255 1).wf = true ∧ evented.cyc < (7 : Word).toNat
    ∧ ((0 : SemR) = 0) ∧ eU.q.plv = false ∧ user.cur = some (0, 0) := by decide +kernel

/-- What stands at the boundary of the domain has crossed (R248). -/
def crossed (s : State) : State := s.held.foldl (fun s p => s.pass p.2) { s with held := [] }

/-- OVPOP (R215), MRGN clamped by MCAP at user level (R257), and MINJ with an injection whose CYC has passed (R258). -/
theorem test_events : flown (.ovpop 8) evented = [.s 8 0xC007 false] ∧ ((after (.ovpop 8) evented).core 0).ovq = [0x1005, 0x0009]
    ∧ flown (.ovpop 8) base = [.s 8 0 false]
    ∧ (after (.mrgn 7 0) (user.modCore 0 fun x => { x with mwin := 0x500000000 })).held.map Prod.snd =
        [.req 0 0 (bInst (base.seat 0 0).billet) 5]
    ∧ (let x := (crossed (after (.minj 1 3 3 2) { base with cyc := 9 })).core 0
       x.injDrop = 2 ∧ x.injLeft = 1 ∧ x.injAt = 11 ∧ x.injUnit = 1) := by decide +kernel

/-- Queue 3 of die 0, of one cell's payload at the head, that function 0 may push to and pop from; queue 4, which it may not push
to. s8 names queue 3, s7 queue 4 and s6 queue 5, which is not configured. -/
def ringed (grant : Bool) : State :=
  let q : QueueSt := { func := 0, base := 0x400, lrsz := 4, push := 1, pop := 1, pushDev := [], mirror := none, head := 14, tail := 15,
                       recs := [⟨14, 1, 8, false, true, [], none, false, false⟩], drops := 0 }
  let s := (base.modSeat 0 0 fun q => { q with sr := [(3, 7), (4, 72), (5, 1024), (6, 5), (7, 4), (8, 3), (9, 65529)], sTag := 0, grant := grant })
  s.modDie 0 fun d => { d with queues := [(3, q), (4, { q with push := 0 })] }
def eR : At := ⟨ringed true, 0, 0⟩

theorem witness_QueueInstructionEffects : ((eR.s.die 0).queues.find 3).all (fun u => (eR.s.headFar u).isNone && u.mirror.isNone
      && decide (u.headLen ≤ min 72 65528) && decide (min 7 65528 < u.headLen)) = true
    ∧ remote (segs (eR.span .write 256 72)) = false ∧ (segs (eR.span .write 256 72)).length = 1 ∧ (3 : Nat) < 0xFC0 ∧ (∀ b ∈ [true, false], (ringed b).cur = some (0, 0) ∧ (ringed b).sure = false
      ∧ ((ringed b).seat 0 0).grant = b ∧ ((ringed b).seat 0 0).hold = none)
    ∧ (∀ p ∈ [(3, 7), (4, 72), (5, 1024), (6, 5), (7, 4), (8, 3), (9, 65529)], eR.sGet (BitVec.ofNat 5 p.1) = (BitVec.ofNat 64 p.2, false))
    ∧ eR.aGet 1 = (256, false) ∧ (3 : Word).toNat % 2 ^ 16 / 2 ^ 14 = 0 ∧ (eR.s.die 0).queues.find 5 = none
    ∧ (∀ p ∈ ([.qpush 0 8 1 3 0 0, .qpushA 1 8 1 4 0 2, .qpop 1 8 1 3 0 2] : List Instr), p.wf = true)
    ∧ ((eR.s.die 0).queues.find 4).map (fun u => u.mayPush 4 eR.q) = some false
    ∧ ((eR.s.die 0).queues.find 3).all (fun u => u.mayPush 3 eR.q && u.mayPop eR.q && u.rsz == 16
        && u.canPush 1 && u.canPush 2 && u.pad 1 == 0 && u.pad 2 == 1 && u.canPop && u.headLen == 8) = true
    ∧ 16 < (8 + 1024 + 63) / 64 ∧ (8 + 7 + 63) / 64 ≤ 16 ∧ (8 + 72 + 63) / 64 ≤ 16 ∧ 65528 < 65529
    ∧ (∀ v ∈ eR.q.vres, v.isOpen = false) ∧ (faultOf (eR.span .read 256 65528)).map (fun f => f.code) = some fPage
    ∧ ∀ n ∈ [7, 72, 1024], granted (eR.span .read 256 n) = true ∧ granted (eR.span .write 256 n) = true := by
  decide +kernel

/-- A push of two cells at the ring's last cell first writes a pad (R239); QSTAT; a record too large, one that is also not readable
(R159), and a queue not configured. -/
theorem test_queues : ((after (.qpush 1 8 1 4 0 1) (ringed true)).die 0).queues.find 3
      = some { func := 0, base := 0x400, lrsz := 4, push := 1, pop := 1, pushDev := [], mirror := none, head := 14, tail := 18,
               recs := [⟨14, 1, 8, false, true, [], none, false, false⟩, ⟨15, 1, 56, true, false, [], none, false, false⟩,
                 ⟨16, 2, 72, false, false, [], some (0, 0, 0), false, false⟩], drops := 0 }
    ∧ (let t := after (.qpush 1 8 1 4 0 1) (ringed true); leNat (t.rdBytes 0 0x5400 8) = 72)
    ∧ flown (.qstat 1 8 2) (ringed true) = [.s 1 0x8000000000000304 false] ∧ flown (.qstat 1 8 3) (ringed true) = [.s 1 15 false]
    ∧ (let q := (after (.qpush 1 8 1 5 0 1) (ringed true)).seat 0 0; q.tcause.extractLsb' 0 16 = fQlen ∧ q.tval = 0x04000003)
    ∧ (let q := (after (.qpush 1 8 1 9 0 1) (ringed true)).seat 0 0; q.tcause.extractLsb' 0 16 = fPage ∧ q.tval = 4096)
    ∧ ((after (.qpop 1 8 1 4 0 1) (ringed true)).seat 0 0).vres.map (fun v => v.data) = [8]
    ∧ ((after (.qpop 1 8 1 3 0 1) (ringed true)).seat 0 0).vres.map (fun v => v.data) = [0x8000000000000008]
    ∧ ((after (.qpop 1 6 1 3 0 1) (ringed true)).seat 0 0).tcause.extractLsb' 0 16 = fBus
    ∧ (after (.qpop 1 8 1 3 0 1) (ringed false)).last = .held := by decide +kernel

/-- A strand of an instance of 8 by 8 cores. -/
def wide : State := base.modSeat 0 0 fun q => { q with rw := 8, rh := 8 }
def eW : At := ⟨wide, 0, 0⟩

theorem witness_GroupInstructionEffects : wide.sure = false ∧ eW.sGet 3 = (7, false) ∧ eW.aGet 1 = (256, false)
    ∧ eW.aGet 3 = (0x61, false)
    ∧ (∀ i ∈ ([.bari 1 0 0 0, .bari 15 3 3 64, .bara 0 1 3 3 0 .dm, .barw 1 1 1 1 3 2 .cl, .launch 1 1 63, .launch 0 3 0, .coll 1 1 1 0 0,
        .coll 0 3 2 3 3] : List Instr), Legal eW i)
    ∧ granted (eW.span .read 256 256) = true ∧ (256 : Word).toNat % 256 = 0 ∧ (0x61 : Word).toNat % 128 ≠ 0
    ∧ granted (eW.span .read 0x61 256) = true := by decide +kernel

/-- Bindings 0, of function 0, and 1, of another; entry 0, of this core; entry 1, of core (1, 0); entry 2 not configured. -/
def netted (down : Bool) : State :=
  let e (w : Word) : SteerSt := ⟨w, 0, 3, true, none, none⟩
  (base.modDie 0 fun d => { d with
    binds := [(0, ⟨0, 0, false, 0, 0, 0, 0⟩), (1, ⟨1, 0, false, 0, 0, 0, 0⟩)]
    steer := [(0, e 1), (1, e 0x11), (2, e 0)]
    down0 := down }).modSeat 0 0 fun q => { q with sr := [(1, 1), (2, 2), (3, 3), (4, 0x80000)], sTag := 0, ecq := if down then [] else [⟨5, 6⟩] }
def eP (down : Bool) : At := ⟨netted down, 0, 0⟩

theorem witness_NetworkInstructionEffects (b : Bool) : (netted b).cur = some (0, 0) ∧ (netted b).sure = false
    ∧ (eP b).sGet 0 = (0, false) ∧ (eP b).sGet 1 = (1, false) ∧ (eP b).sGet 2 = (2, false) ∧ (eP b).sGet 3 = (3, false)
    ∧ ((eP b).x.tile 0).owner = some 0 ∧ ((eP b).x.tile 0).st = .ready ∧ ((eP b).x.tile 0).pins = 0 ∧ (eP b).q.plv = true := by
  cases b <;> decide +kernel

/-- The same with a poisoned sector in the first slot, and n completions more that wait. -/
def spoilt (n : Nat) : State := ((netted false).modCore 0 fun x => { x with gran := [(0, ⟨0, 1⟩)] }).modSeat 0 0 fun q => { q with
  ecq := ⟨5, 6⟩ :: List.replicate n ⟨1, 2⟩ }

theorem witness_NetworkInstructionEffects_nsend : (eP false).sGet 4 = (0x80000, false)
    ∧ (bytesFrom (eP false).x.granRow 0 8).all (fun p => !p.2) = true
    ∧ (((eP false).s.die 0).binds.find 0).all (fun v => v.func == (eP false).q.func && v.session.toNat == bSession (eP false).q.billet
        && !(netted false).portDown 0 v && (netted true).portDown 0 v) = true
    ∧ ((eP false).s.die 0).binds.any (fun p => p.1 == 1 && p.2.func != (eP false).q.func) = true
    ∧ (((eP false).s.die 0).binds.find 3).isNone = true
    ∧ (eP true).q.ecq = [] ∧ (eP false).q.ecq = ⟨5, 6⟩ :: []
    ∧ (bytesFrom ((spoilt 0).core 0).granRow 0 8).any Prod.snd = true ∧ ((spoilt 0).seat 0 0).ecq.length < 16
    ∧ 16 ≤ ((spoilt 15).seat 0 0).ecq.length := by
  decide +kernel

theorem witness_NetworkInstructionEffects_post :
    ((Instr.npost 0 0 0 2).wf = true ∧ ((netted false).steerAt 0 0).w0.getLsbD 0 = true ∧ steerNames ((netted false).steerAt 0 0) 0 = true
        ∧ ((netted false).steerAt 0 0).land = none)
    ∧ ((netted false).steerAt 0 2).w0.getLsbD 0 = false
    ∧ (((netted false).steerAt 0 1).w0.getLsbD 0 = true ∧ steerNames ((netted false).steerAt 0 1) 0 = false) := by
  decide +kernel

/-- NSEND, NPOST and NSTAT (R341, R343, R344). -/
theorem test_network : (after (.nsend 4 0 0) (netted false)).out = [.frame 0 0 (bClass ((netted false).seat 0 0).billet + 1) [0, 0, 0, 0, 0, 0, 0, 0]]
    ∧ (((after (.nsend 4 0 0) (netted false)).core 0).tile 0).pinE = true ∧ (after (.nsend 4 0 0) (netted true)).out = []
    ∧ ((after (.nsend 3 0 0) (netted false)).seat 0 0).tcause.extractLsb' 0 16 = fBus
    ∧ ((after (.nsend 1 0 0) (netted false)).seat 0 0).tcause.extractLsb' 0 16 = fPerm
    ∧ ((crossed (after (.npost 0 0 0 2) (netted false))).steerAt 0 0).post = some (0, 0, 2)
    ∧ (((crossed (after (.npost 0 0 0 2) (netted false))).core 0).tile 0).armed = true
    ∧ (let q := (after (.nsend 4 0 2) (spoilt 0)).seat 0 0; q.ecq.length = 2 ∧ q.inc = [(2, 1)])
    ∧ (let q := (after (.nsend 4 0 2) (spoilt 15)).seat 0 0; q.ecq.length = 16 ∧ q.elost = true)
    ∧ flown (.nstatE 8) (netted false) = [.s 8 0x200000005 false] ∧ ((after (.nstatE 8) (netted false)).seat 0 0).estamp = 6
    ∧ flown (.nstatE 8) (netted true) = [.s 8 0 false] ∧ flown (.nstatA 8 0) (netted false) = [.s 8 3 false]
    ∧ flown (.nstatA 8 1) (netted false) = [.s 8 0 false] := by decide +kernel

/-! ### Hypotheses of the statements about events -/

/-- An operation answers a next state of which a test holds. -/
def ran (i : Instr) (s : State) (p : State → Bool) : Bool :=
  match exec i s with
  | .next t => p t
  | _ => false

/-- A result outstanding: a load from another device that s8 waits for, with semaphore 3. -/
def res0 : Vres :=
  { kind := .load, dest := .s 8, data := 0, tags := 0, sem := 3, addr := 0x4000, remote := true, ready := false, ck := 0, key := 7,
    bad := none, id := 0, loc := [], acq := false, rel := false, so := false, wide := false, after := [], todo := none }

/-- The strand of `base` with other values of its seat. -/
def seated (f : SeatSt → SeatSt) : State := base.modSeat 0 0 f

/-- A descriptor (R310): task 7 of session 2, one strand at (0, 0), a window of 64 rows, one slot, entry 0x40 for grade 0. -/
def desc0 : List Byte :=
  [(0, 1, 1), (7, 1, 7), (8, 2, 7), (10, 2, 2), (13, 1, 1), (14, 1, 1), (16, 2, 64), (18, 2, 1), (20, 1, 4), (40, 8, 4000), (64, 8, 0x10000), (72, 4, 0x40000), (76, 4, 1),
    (80, 8, 0x180), (96, 8, 0x40), (104, 8, 0x200)].foldl (fun b (p : Nat × Nat × Nat) => setBytes b p.1 (leBytes p.2.1 p.2.2))
    (List.replicate 256 0)

def task0 : TaskSt :=
  { descVa := 0x100, desc := desc0, func := 0, asn := 0, rtt := [(0, [500, 300])], lastRel := none, oneShot := false, rel := 4000 }

/-- An instance of that task, waiting. -/
def inst0 : InstSt :=
  { task := 7, tsk := task0, func := 0, asn := 0, asker := .none, st := .waiting, grade := 0, graded := false, release := 0,
    arrival := false, deadline := 1000, dlrel := false, dep0 := none, dep1 := none, gmin := 0, last := false, param := 0x77,
    crec := 0x180, xb := [], x0 := 0, y0 := 0, seats := [], trig := [], ended := [], killed := [], resumed := false, nckpt := 0,
    pred := false, forced := false, started := none, nest := none, quar := none, shed := false, top := 0, fin := 0, saved := [],
    cut := none, cutReq := false, bars := [], done := none, code := 0, mir := false, committed := false, mfail := none, client := none,
    removal := false, wait := [], prqAt := none }

/-- `base` with instance 5 as given, and its strand, if it is bound, in seat 0. -/
def held (i : InstSt) : State :=
  (base.modDie 0 fun d => { d with tasks := [(7, task0)], insts := [(5, i)] }).modSeat 0 0 fun q => { q with
    billet := setBits q.billet 287 256 5 }

/-- The same with seat 0 empty, and a billet for it (R166). -/
def vacant (i : InstSt) : State := (held i).modSeat 0 0 fun _ => SeatSt.reset
def billet0 : Billet := billetOf inst0 5 0 0 false

/-- An asynchronous cause waits; 4,096 bundles since the last STEP; a switch point. -/
theorem witness_SeatEvents_asyncCauseTake : let s := seated fun q => { q with pend := [⟨fLink, 4, 0, 0x123, 0⟩] }
    (s.core 0).issuing = some 0 ∧ (s.core 0).mayIssue = true ∧ (s.seat 0 0).pending s.cyc = true ∧ (s.core 0).filling 0 = false
    ∧ (s.seat 0 0).pend = ⟨fLink, 4, 0, 0x123, 0⟩ :: []
    ∧ ran (.asyncCauseTake 0) s (fun t => (t.seat 0 0).tval = 0x123) = true := by decide +kernel

theorem witness_SeatEvents_stepgap : let s := seated fun q => { q with gap := 4096 }
    (s.core 0).issuing = some 0 ∧ (s.core 0).mayIssue = true ∧ (s.seat 0 0).pending s.cyc = false ∧ (s.seat 0 0).act = false
    ∧ 4096 ≤ (s.seat 0 0).gap ∧ (s.core 0).asked 0 = false ∧ ran (.stepgap 0) s (fun t => (t.seat 0 0).gap = 0) = true := by
  decide +kernel

theorem witness_SeatEvents_seatSwitch :
    let s := (base.modSeat 0 1 fun q => { q with st := .resident }).modCore 0 fun x => { x with swp := true, ctl := 5 }
    (s.core 0).swp = true ∧ ctlNxt (s.core 0).ctl = some 1 ∧ ((s.core 0).seatAt 1).st = .resident
    ∧ ran (.seatSwitch 0) s (fun t => (t.seat 0 1).st = .issuing && (t.seat 0 0).st = .resident) = true := by decide +kernel

/-- A load sent to device 1, and one of 2 bytes with sign; and the answer to them. -/
def res1 : Vres := { res0 with todo := some (.load (offsets (segs (e0.span .read 16384 8)) 0)) }
def res2 : Vres := { res0 with key := 5, todo := some (.load (offsets (segs (e0.span .read 16384 2)) 0)) }
def ans0 : FarAns := { FarAns.none with data := [0xFE, 0xFF] }

/-- Results that another device owes, widened and taken whole, and one whose value is known. -/
theorem witness_SeatEvents_resultLanding : (∀ v ∈ [res1, res2], let s := seated fun q => { q with vres := [v] }
      (s.seat 0 0).vres[0]? = some v ∧ v.sent = true ∧ v.kind = .load ∧ v.todo ≠ none ∧ ans0.err = none ∧ v.id ∉ v.after
      ∧ ran (.resultLanding 0 0 0 none ans0) s (fun t => (t.seat 0 0).vres = [] && (t.seat 0 0).sem 3 = 1
          && (t.seat 0 0).sr.val 0 8 = if v.key = 5 then 0xFFFFFFFFFFFFFFFE else 0xFFFE) = true)
    ∧ (let v : Vres := { res0 with ready := true, remote := false, data := 9 }
       let s := seated fun q => { q with vres := [v] }
       s.mayLand 0 v = true ∧ v.todo = none ∧ v.kind ≠ .qpush ∧ v.dest = .s 8 ∧ (8 : SReg) ≠ 0
       ∧ ran (.resultLanding 0 0 0 none FarAns.none) s (fun t => (t.seat 0 0).sr.val 0 8 = 9) = true) := by decide +kernel

theorem witness_SeatEvents_errorResponse : res1.away = true ∧ res1.kind.isMem = true ∧ res1.kind ≠ .lds
    ∧ ran (.errorResponse 0 0 0 ⟨[], [], some .link, 0, false⟩) ({ seated fun q => { q with vres := [res1] } with cyc := 80000 })
        (fun t => (t.seat 0 0).sr.val 1 8 = 0 && (t.seat 0 0).sTag.getLsbD 8 && (t.seat 0 0).pend.any fun a => a.code = fLink) = true
    ∧ ({ seated fun q => { q with vres := [res1] } with cyc := 80000 }).linkGone res1.ck = true := by decide +kernel

theorem witness_SeatEvents_loadMissFill : let s := base.modCore 0 fun x => { x with freeze := true, fill := some ⟨0, 32, none, some none⟩ }
    (s.core 0).fill = some ⟨0, 32, none, some none⟩
    ∧ ran (.loadMissFill (0, ans0)) s (fun t => !(t.core 0).freeze && (t.core 0).fill = some ⟨0, 32, none, some (some ans0)⟩) = true
    ∧ ran (.loadMissFill (0, ans0)) (s.modCore 0 fun x => { x with fill := some ⟨0, 32, some none, none⟩ }) (fun t =>
        (t.core 0).fill = some ⟨0, 32, some (some ans0), none⟩) = true := by decide +kernel

theorem witness_SeatEvents_billetWrite : let s := vacant inst0
    (s.seat 0 0).st = .empty ∧ bV billet0 = true ∧ (s.core 0).refuses 0 billet0 = none
    ∧ (s.instAt 0 (bInst billet0)).map InstSt.task = some 7
    ∧ inst0.index inst0.tsk.desc 0 = some 0 ∧ inst0.unbound 0 = true ∧ inst0.st ≠ .ended ∧ bMode billet0 = false
    ∧ inst0.saved = [] ∧ (s.pickSlots 0 inst0.tsk.desc none).isSome = true
    ∧ s.removed 0 = false ∧ s.pkg.supply = false ∧ s.keptFrom 0 0 (bInst billet0) = false ∧ s.residentAt inst0.tsk.desc 0 = true
    ∧ ran (.billetWrite 0 0 billet0) s (fun t => (t.seat 0 0).st = .wake && (t.seat 0 0).pc = 0x40 && (t.seat 0 0).ar.val 0 1 = 0x77) = true := by
  decide +kernel

theorem witness_SeatEvents_states : (base.seat 0 0).st ≠ .empty ∧ bV 0 = false
    ∧ (∀ st ∈ [SeatState.ended, .halted], ((seated fun q => { q with st := st }).seat 0 0).st = st
        ∧ ran (.billetRelease 0 0) (seated fun q => { q with st := st }) (fun t => (t.seat 0 0).st = .empty) = true)
    ∧ ((seated fun q => { q with st := .wake }).seat 0 0).st = .wake ∧ ((seated fun q => { q with st := .out }).core 0).saveReady 0 = true
    ∧ ran (.checkpointSaveDone 0 0) (seated fun q => { q with st := .out }) (fun t => (t.seat 0 0).st = .empty) = true := by decide +kernel

theorem witness_SeatEvents_designate : (held { inst0 with st := .ready }).choice 0 = some 0 ∧ base.choice 0 = none ∧ base.choice 0 ≠ some 2
    ∧ ran (.designate 0 0 true) (held { inst0 with st := .ready }) (fun t => ctlNxt (t.core 0).ctl = some 0) = true
    ∧ ran (.prqDrain 0 0) base (fun t => ctlPrq (t.core 0).ctl 0 = 3) = true := by decide +kernel

/-- A kill request that has waited for 2^16 ck and one more, and a checkpoint request that may become a kill. -/
def waiting (v : Nat) : State :=
  { ((held { inst0 with seats := [(0, (0, 0))] }).modCore 0 fun x => { x with ctl := ctlSetPrq x.ctl 0 v, prq := [(0, 0)] }) with cyc := 65537 }

theorem witness_SeatEvents_requests : (waiting 1).overdue 0 0 1 = true ∧ ((waiting 1).seat 0 0).st ≠ .empty
    ∧ ran (.forcedKill 0 0) (waiting 1) (fun t => (t.seat 0 0).st = .empty) = true
    ∧ (waiting 2).overdue 0 0 2 = true ∧ (waiting 2).mayKill 0 (bInst ((waiting 2).seat 0 0).billet) = true
    ∧ ran (.ckptRequestTimeout 0 0) (waiting 2) (fun t => ctlPrq (t.core 0).ctl 0 = 1) = true := by decide +kernel

/-- The row power word: groups of the window stay ACTIVE, and code 2 empties another group (R172). -/
theorem witness_SeatEvents_rows :
    let s := (base.modSeat 0 0 fun q => { q with billet := setBits q.billet 21 16 1 }).modCore 0 fun x => { x with
      vrf := x.vrf.put 2047 ⟨1, 0⟩ }
    (s.core 0).groupUsed 0 = true ∧ (s.core 0).groupUsed 31 = false
    ∧ (s.core 0).gs.toNat / 2 ^ (2 * ((2047 : Bits11).toNat / 64)) % 4 ≠ 2
    ∧ ran (.rowPowerWrite 0 0x8000000000000002) s (fun t => (t.core 0).gs = 0x8000000000000000 && (t.core 0).row 2047 = ⟨0, 0⟩
        && (t.core 0).row 1 = (s.core 0).row 1) = true
    ∧ (s.core 0).rowOpen 2047 = false
    ∧ ran (.debugRowWrite 0 2047 3 4) s (fun t => (t.core 0).row 2047 = ⟨3, 4⟩) = true := by decide +kernel

/-- `base` in ck 20 with an entry as given in H0 index 3 or transfer index 3. -/
def engaged (f : Entry) : State := { (base.modCore 0 fun x => { x with h0 := [(3, f)], te := [(3, f)] }) with cyc := 20 }

/-- The same whose stamp has not passed in ck 20 (R184). -/
def timely : Entry := { ent0 with stamp := 18 }

theorem witness_EngineEvents_gates : (∀ f ∈ ([timely, { timely with pace := true, wt := 0 }, { timely with pace := true, token := true, stamp := 28 }]
        : List Entry), f.st = .head ∧ f.since < (engaged f).cyc ∧ f.drop = false ∧ f.missed (engaged f).cyc = false
        ∧ ((engaged f).core 0).ent 0 3 = some f ∧ ((engaged f).seat 0 f.seat).st ≠ .out)
    ∧ (∀ m ∈ timely.queues 0, ((engaged timely).seat 0 0).paceAt m = none) ∧ ((engaged timely).seat 0 0).sem 1 = 0
    ∧ (28 : Word).toNat ≤ 20 + 8 ∧ 20 + 8 < (29 : Word).toNat ∧ (36 : Word).toNat ≤ 20 + 16
    ∧ ran (.pacingOpen 0 .h0 3) (engaged timely) (fun t => ((t.core 0).ent 0 3).any fun g => g.pace) = true
    ∧ (let s := (engaged { timely with pace := true }).modSeat 0 0 fun q => { q with w := [(1, 9)] }
      s.tokenTurn 0 { timely with pace := true } 0 = true
      ∧ ran (.waitTokenConsume 0 .h0 3) s (fun t => (t.seat 0 0).sem 1 = 8) = true)
    ∧ ran (.stampGateOpen 0 .h0 3) (engaged { timely with pace := true, token := true, stamp := 28 })
        (fun t => ((t.core 0).ent 0 3).any fun g => g.stampOk) = true
    ∧ ran (.stampGateOpen 0 .h0 3) (engaged { timely with pace := true, token := true, stamp := 29 })
        (fun t => ((t.core 0).ent 0 3).all fun g => !g.stampOk) = true := by decide +kernel

/-- An entry that the unit may choose, and one that asks for leave since CYC 12. -/
def opened : Entry := { timely with pace := true, token := true, stampOk := true }
def asking : Entry := { opened with st := .selected, lreq := some 12 }

theorem witness_EngineEvents_choice : (∀ p ∈ ((engaged opened).core 0).queue 0, p.2.holds 0 = false)
    ∧ (((engaged opened).core 0).choice 0 20).map Prod.fst = some 3 ∧ opened.whole = false
    ∧ ran (.unitChoice 0 .h0) (engaged opened) (fun t => ((t.core 0).ent 0 3).any fun g => g.st = .selected) = true
    ∧ (firstReq ((engaged asking).leaveReqs 0 0)).map (fun l => (l.core, l.n, l.ix, l.units)) = some (0, 0, 3, 4)
    ∧ asking.lreq.getD 20 + 8 ≤ 20 ∧ (engaged asking).granted 0 0 + 4 ≤ (engaged asking).budgetOf 0 0
    ∧ ran (.leaveGrant 0 0) (engaged asking) (fun t => ((t.core 0).ent 0 3).any fun g => g.leave) = true := by decide +kernel

/-- A block by its fields: offset, bytes, value. -/
def block (l : List (Nat × Nat × Nat)) : List Byte :=
  l.foldl (fun b (p : Nat × Nat × Nat) => setBytes b p.1 (leBytes p.2.1 p.2.2)) (List.replicate 256 0)

/-- The blocks of one step of each command (R198, R200, R230). -/
def mmaBlk : List Byte := block [(0, 1, 1), (1, 1, 1), (2, 1, 1), (3, 1, 3), (5, 1, 1), (16, 4, 128), (32, 2, 1)]
def mmadBlk : List Byte := block [(0, 1, 1), (1, 1, 1), (2, 1, 1), (3, 1, 1), (5, 1, 1), (16, 4, 128), (32, 2, 1)]
def mepiBlk : List Byte := block [(0, 1, 2), (1, 1, 3), (5, 1, 1), (16, 4, 128), (32, 2, 1)]
def wloadBlk : List Byte := block [(0, 1, 3), (5, 1, 1), (32, 2, 1)]
def txferBlk : List Byte := block [(0, 1, 4), (5, 1, 1), (8, 4, 64), (16, 8, 0x100), (24, 8, 0x200), (32, 2, 1)]
def txferWin : List Byte := block [(0, 1, 4), (3, 1, 2), (5, 1, 1), (8, 4, 64), (16, 8, 0x100), (24, 8, 0x800), (32, 2, 1)]
def tfillBlk : List Byte := block [(0, 1, 5), (5, 1, 1), (8, 4, 1024), (32, 2, 1)]
def tdrainBlk : List Byte := block [(0, 1, 6), (5, 1, 1), (8, 4, 1024), (32, 2, 1)]
def tmcastBlk : List Byte := block [(0, 1, 7), (5, 1, 1), (8, 4, 1024), (32, 2, 1), (176, 8, 1)]

/-- A chosen entry with its block. -/
def chosen (opc : Bits8) (b : List Byte) : Entry := { asking with opc := opc, leave := true, blk := some b, nstep := 1, stamped := false }

/-- Nothing stops the next step of this entry. -/
def mayRun (n : Nat) (f : Entry) (s : State) : Bool :=
  match f.blk, f.nextStep n s.cyc with
  | some b, some k =>
    let e := { f with stepc := BitVec.ofNat 32 k }
    let u := if f.opc = 0x13 then s.checked 0 n 3 e b else s
    !(s.core 0).stopped && !s.pkg.supply && (s.stepBad 0 e b).isNone
      && (u.slotWaits 0 (if f.opc = 0x13 then { e with dst := s.mcastDst 0 e b } else e) b).isEmpty
  | _, _ => false

theorem witness_EngineEvents_blocks : (∀ p ∈ ([(0x01, mmaBlk), (0x02, mmadBlk), (0x04, mepiBlk), (0x06, wloadBlk), (0x10, txferBlk),
      (0x10, txferWin), (0x11, tfillBlk), (0x12, tdrainBlk), (0x13, tmcastBlk)] : List (Nat × List Byte)),
      blkBad p.1 0 1 p.2 = none ∧ blkSteps p.2 = 1)
    ∧ blkBad 0x01 0 1 (setBytes mmaBlk 7 [9]) = some 7 := by decide +kernel

theorem witness_EngineEvents_starts : (∀ p ∈ ([(0x01, mmaBlk), (0x02, mmadBlk), (0x04, mepiBlk)] : List (Bits8 × List Byte)),
      mayRun 0 (chosen p.1 p.2) (engaged (chosen p.1 p.2)) = true)
    ∧ mayRun 0 { chosen 0x03 [] with zrow := 0, zrows := 128 } (engaged { chosen 0x03 [] with zrow := 0, zrows := 128 }) = true
    ∧ (∀ p ∈ ([(0x10, txferBlk), (0x10, txferWin), (0x11, tfillBlk), (0x12, tdrainBlk), (0x13, tmcastBlk)] : List (Bits8 × List Byte)),
      mayRun 2 (chosen p.1 p.2) (engaged (chosen p.1 p.2)) = true) := by decide +kernel

/-- Sixteen kilobytes that a WLOAD reads: four pages more, and the stripe granted. -/
def loadable : State := (engaged (chosen 0x06 wloadBlk)).modCore 0 fun x => { x with
  wgrant := [(0, 0x1FFFF)], tlb := [⟨0, 0, 0, 0, 0x513F⟩, ⟨0, 0, 1, 0, 0x613F⟩, ⟨0, 0, 2, 0, 0x713F⟩, ⟨0, 0, 3, 0, 0x813F⟩] }

theorem witness_EngineEvents_wload : mayRun 0 (chosen 0x06 wloadBlk) loadable = true
    ∧ granted (loadable.span (loadable.whoSeat 0 0) .read 0 16384) = true := by decide +kernel

/-- A row that a step is to write, in a ck (R203). -/
def due (t : State) (ck phys lane : Nat) : Option Nat :=
  ((t.core 0).ewr.find? fun w => w.at0 = ck && w.row = phys && w.mask.getLsbD (32 * lane)).map fun w => laneOf ⟨w.data, 0⟩ lane

theorem witness_EngineEvents_memory : let s := engaged (chosen 0x10 txferBlk)
    let w := s.whoSeat 0 0
    granted (s.span w .read 0x100 64) = true ∧ isFar (segs (s.span w .read 0x100 64)) = false ∧ granted (s.span w .read 0 1024) = true
    ∧ (s.seat 0 0).recent = [] ∧ blkFlag txferBlk 0 = false ∧ blkFlag txferWin 1 = true
    ∧ ran (.txferStep 0 3) s (fun t => ((t.core 0).ent 2 3).any fun g =>
        leNat ((g.buf.take 8).map Prod.fst) = 0x0123456789ABCDEF && g.busy) = true
    ∧ ran (.tfillStep 0 3) (engaged (chosen 0x11 tfillBlk)) (fun t => ((t.core 0).tile 0).st = .filling) = true
    ∧ ran (.mzeroStep 0 .h0 3) (engaged { chosen 0x03 [] with zrow := 0, zrows := 128 }) (fun t => due t 20 2 5 = some 0
        && due t 21 8 5 = some 0 && due t 21 2 5 = none) = true := by decide +kernel

/-- The parameter block at VA 256: read and sound, with an offending field, and at an address that is not mapped. -/
def reader (pba : BitVec 57) : Entry := { asking with leave := true, pba := pba, asked := pba = 12288 }
def reading (pba : BitVec 57) (b : List Byte) : State :=
  let s := engaged (reader pba)
  { s with mem := (b.foldl (fun (p : Tab Byte × Nat) v => (p.1.wr p.2 v, p.2 + 1)) (s.mem, 0x5100)).1 }

/-- Its entry may have its block read now. -/
def mayRead (pba : BitVec 57) : Bool :=
  let f := reader pba
  f.st == .selected && f.blk.isNone && !f.missed 20 && (reading pba mmaBlk).blockMay 0 f

theorem witness_EngineEvents_paramBlock : mayRead 256 = true ∧ mayRead 4096 = true ∧ mayRead 12288 = true
    ∧ ran (.paramBlockReadDone 0 .h0 (3, FarAns.none)) (engaged { reader 12288 with asked := false }) (fun t =>
        ((t.core 0).ent 0 3).any fun g => g.asked && g.blk.isNone) = true := by decide +kernel

theorem witness_EngineEvents_blockRead : granted ((reading 256 mmaBlk).span ((reading 256 mmaBlk).whoSeat 0 0) .read 256 256) = true
    ∧ granted ((reading 4096 mmaBlk).span ((reading 4096 mmaBlk).whoSeat 0 0) .read 4096 256) = false
    ∧ ran (.paramBlockReadDone 0 .h0 (3, FarAns.none)) (reading 256 mmaBlk) (fun t => ((t.core 0).ent 0 3).any fun g => g.blk = some mmaBlk && g.nstep = 1) = true
    ∧ ran (.paramBlockReadDone 0 .h0 (3, FarAns.none)) (reading 256 (setBytes mmaBlk 7 [9])) (fun t => ((t.core 0).ent 0 3).any fun g =>
        g.st = .faulted && g.fcode = fBus && g.fval = 263) = true
    ∧ isFar (segs ((reading 12288 mmaBlk).span ((reading 12288 mmaBlk).whoSeat 0 0) .read 12288 256)) = true
    ∧ ran (.paramBlockReadDone 0 .h0 (3, { FarAns.none with err := some (.hcpl false 1) })) (reading 12288 mmaBlk) (fun t =>
        ((t.core 0).ent 0 3).any fun g => g.st = .faulted && g.fcode = fHcpl && g.fval = 0x2000000000003000) = true
    ∧ ran (.paramBlockReadDone 0 .h0 (3, FarAns.none)) (reading 4096 mmaBlk) (fun t => ((t.core 0).ent 0 3).any fun g =>
        g.st = .faulted && g.fcode = fPage && g.fval = 4096) = true := by decide +kernel

/-- A step in progress whose time has passed: with steps to go, the last one, and a TMCAST with a destination that failed. -/
def stepping (opc : Bits8) (n : BitVec 32) : Entry :=
  { chosen opc mmaBlk with st := .running, busy := true, run := { Run.zero with at0 := 1, ivl := 18, feed := 18 }, nstep := n }

theorem witness_EngineEvents_stepEnd : (([(0, stepping 1 1), (0, stepping 1 2), (2, { stepping 0x13 1 with dst := [(0, 0x84)] })]
        : List (Nat × Entry)).all fun p => let f := p.2
      f.st == .running && f.busy && (((engaged f).core 0).landRows 19).stepOver p.1 f 20 && !f.drop && !f.flush && f.far.isNone
        && f.lwf.isNone && f.fail.isNone && f.wout == [] && f.recs == [] && !f.toMem mmaBlk && !f.toHost f.buf && f.segs == []
        && blkStpa mmaBlk == 0) = true
    ∧ (((engaged (stepping 1 2)).core 0).landRows 18).stepOver 0 (stepping 1 2) 19 = false
    ∧ (stepping 1 2).stepc.toNat + 1 < (stepping 1 2).nstep.toNat ∧ (stepping 1 1).nstep.toNat ≤ (stepping 1 1).stepc.toNat + 1
    ∧ ran (.stepEnd 0 .h0 (3, FarAns.none)) (engaged (stepping 1 2)) (fun t => ((t.core 0).ent 0 3).any fun g => g.stepc = 1 && !g.busy) = true
    ∧ ran (.stepEnd 0 .h0 (3, FarAns.none)) (engaged (stepping 1 1)) (fun t => (t.seat 0 0).inc = [(2, 1)]) = true
    ∧ ran (.stepEnd 0 .te (3, FarAns.none)) (engaged { stepping 0x13 1 with dst := [(0, 0x84)] }) (fun t => ((t.core 0).ent 2 3).any fun g =>
        g.fcode = fMcast) = true := by decide +kernel

/-- The bytes 0 to 63. -/
def sixtyFour : List (Byte × Bool) := (List.range 64).map fun i => (BitVec.ofNat 8 i, false)

/-- The end of a transfer step writes what it has read, here to VA 0x200 (R233). -/
theorem witness_EngineEvents_writes : let f := { stepping 0x10 1 with blk := some txferBlk, buf := sixtyFour, segs := (engaged (stepping 0x10 1)).dstSegs 0 (stepping 0x10 1) txferBlk }
    f.toMem txferBlk = true ∧ remote f.segs = false ∧ f.segs.length = 1
    ∧ ran (.stepEnd 0 .te (3, FarAns.none)) (engaged f) (fun t => leNat (t.rdBytes 0 0x5200 8) = 0x0706050403020100) = true := by
  decide +kernel

theorem witness_EngineEvents_faults : let f := { ent0 with stamp := 15 }
    f.stamped = true ∧ f.st = .head ∧ max (f.stamp.toNat + f.slk.toNat + 1) f.since ≤ (engaged f).cyc
    ∧ ran (.stampMiss 0 .h0 3) (engaged f) (fun t => ((t.core 0).ent 0 3).any fun g => g.fcode = fSmiss && g.fval.toNat % 2 ^ 32 = 5) = true
    ∧ (stepping 1 2).st = .running ∧ (stepping 1 2).wout.contains 0 = false
    ∧ ran (.lateWriteFailure 0 .h0 3 0 0x77 true) (engaged { stepping 1 2 with wout := [0] }) (fun t => ((t.core 0).ent 0 3).all fun g =>
        g.st = .running && g.lwf.isNone) = true
    ∧ (let s (f : Entry) : State := { engaged f with cyc := 90000 }
      (s ent0).linkGone 0 = true
      ∧ ran (.lateWriteFailure 0 .h0 3 0 0x77 true) (s { stepping 1 2 with wout := [0] }) (fun t => ((t.core 0).ent 0 3).any fun g =>
        g.st = .running && g.lwf = some (0, fLink, 0x77)) = true
      ∧ ran (.lateWriteFailure 0 .h0 3 0 0x77 true) (s { stepping 1 2 with wout := [0], busy := false }) (fun t =>
        ((t.core 0).ent 0 3).any fun g => g.st = .faulted && g.fcode = fLink && g.fval = 0x77) = true)
    ∧ ran (.lateWriteFailure 0 .h0 3 0 0x77 false) (engaged { stepping 1 2 with wout := [0] }) (fun t => ((t.core 0).ent 0 3).any fun g =>
        g.st = .running && g.lwf = some (0, fBus, 0x77)) = true
    ∧ ran (.lateWriteFailure 0 .h0 3 0 0x77 false) (engaged { stepping 1 2 with wout := [0], busy := false }) (fun t =>
        ((t.core 0).ent 0 3).any fun g => g.st = .faulted && g.fcode = fBus && g.fval = 0x77) = true := by decide +kernel

/-- Queue 3 of `ringed` with the request of a held push of two cells, whose bundle lies at the pc. -/
def requested : State :=
  let s := ringed false
  let w := bundleOf (.x 0x283286B0004001F4)
  ({ s with cyc := 700, mem := ((List.range 32).foldl (fun (m : Tab Byte) i => m.wr (0x5000 + i) (w.extractLsb' (8 * i) 8)) s.mem) }.modSeat 0 0
    fun q => { q with hold := some 100, sr := q.sr.put 10 3 }).modDie 0 fun d => { d with
      qreq := [⟨0, 0, 3, true, 2, false, 0, false, 0, [], [], 0⟩] }

theorem witness_UnitEvents_queues : requested.grantable 0 0 0 = true ∧ (requested.core 0).issuing = some 0
    ∧ base.grantable 0 0 0 = false ∧ (State.reset.core 0).issuing = none
    ∧ ran (.queueGrant 0) requested (fun t => (t.seat 0 0).grant) = true
    ∧ (let s := (ringed false)
      (s.queue? 0 3).isSome = true ∧ (s.queue? 0 3).all (fun v => v.mirror = none) = true ∧ (s.die 0).qreq = [])
    ∧ ((ringed false).queue? 0 3).all (fun v => v.recs.all fun r => !r.wait && !r.pad) = true
    ∧ ran (.packetPublish 0 3) (ringed false) (fun t => (t.queue? 0 3).any fun v => v.recs.all fun r => r.pub) = true := by decide +kernel

/-- A payload of another device for queue 3, with an acknowledgement. -/
theorem witness_UnitEvents_remote : let r : QReq := ⟨0, 0, 3, true, 1, true, 5, true, 9, [1, 2], [], 2⟩
    let s := (ringed false).modDie 0 fun d => { d with qreq := [r] }
    r.remote = true ∧ r.qnum = 3 ∧ r.push = true ∧ r.ack = true ∧ (s.queue? 0 3).any (fun v => v.canPush r.cells) = true
    ∧ ran (.packetPublish 0 3) s (fun t => t.out.contains (.queueAck 5 9 15 2) && t.out.contains (.creditReturn 5)) = true := by decide +kernel

theorem witness_UnitEvents_qwait : (requested.seat 0 0).hold = some 100 ∧ (requested.core 0).mayIssue = true
    ∧ (requested.seat 0 0).pending requested.cyc = false ∧ (requested.seat 0 0).grant = false ∧ (requested.seat 0 0).act = false
    ∧ (match requested.fetch 0 0 with
      | .bundle b _ => (match decodeBundle b with
        | .ok _ _ _ _ i => queueOf i == some (500, 10)
        | .bad _ _ => false)
      | _ => false) = true
    ∧ requested.hasCredit ((requested.seat 0 0).sr.val 0 10) = false ∧ 100 + (500 : Bits20).toNat < requested.cyc
    ∧ 600 ≤ 100 + (500 : Bits20).toNat
    ∧ ran (.qwaitExpiry 0) requested (fun t => (t.seat 0 0).tcause.extractLsb' 0 16 = fQwait) = true
    ∧ ran (.qwaitExpiry 0) { requested with cyc := 600 } (fun t => (t.seat 0 0).hold = some 100) = true := by decide +kernel

/-- A message of each kind at the unit of cluster 0 for record (5, 1, 0, 0), which stands with P 4, E 2 and A as given. -/
def barred (kind : BarKind) (r : List BarRec) : State :=
  (seated fun q => { q with vres := [{ res0 with kind := if kind = .wait then .barw else .bara, key := 8, remote := false }] }).modCluster 0 0
    fun u => { u with bars := r, bmsg := [⟨kind, 0, 0, 5, 1, 0, 0, 2, 3, 8, 0⟩] }
def living (s : State) : State := s.modDie 0 fun d => { d with insts := [(5, inst0)] }
def rec0 : BarRec := ⟨5, 1, 0, 0, 4, 2, 0, false, 0, 0⟩

/-- Messages that are next at their unit, of an instance that has a strand left, and of one that has none. -/
theorem witness_UnitEvents_next : (∀ p ∈ ([(.init, []), (.init, [rec0]), (.arrive, [rec0]), (.arrive, [{ rec0 with a := 1 }]),
      (.arrive, [{ rec0 with failed := true }]), (.wait, [rec0]), (.wait, [{ rec0 with p := 2 }]), (.wait, [{ rec0 with failed := true }])]
        : List (BarKind × List BarRec)), ((living (barred p.1 p.2)).barNext 0 0 p.1 0).map (fun m => ((living (barred p.1 p.2)).barLive 0 m,
          p.2.all fun r => r.keyed m)) = some (true, true))
    ∧ (barred .wait []).barNext 0 0 .init 0 = none ∧ (barred .init []).barNext 0 0 .arrive 0 = none
    ∧ (barred .init []).barNext 0 0 .wait 0 = none
    ∧ ((barred .init []).barNext 0 0 .init 0).map ((barred .init []).barLive 0) = some false := by decide +kernel

theorem witness_UnitEvents_barriers :
    ran (.barrierInit 0 0 (0, false)) (living (barred .init [])) (fun t => (t.cluster 0 0).bars = [⟨5, 1, 0, 0, 0, 2, 0, false, 0, 0⟩]) = true
    ∧ ran (.barrierInit 0 0 (0, false)) (barred .init []) (fun t => (t.cluster 0 0).bars = []) = true
    ∧ ran (.barrierArrival 0 0 0 false) (living (barred .arrive [{ rec0 with a := 1 }])) (fun t => (t.cluster 0 0).bars = [{ rec0 with p := 5 }]
        && (t.seat 0 0).vres.all fun v => v.ready && v.data = 0x10004) = true
    ∧ ran (.barrierArrival 0 0 0 true) (living (barred .arrive [rec0])) (fun t => (t.cluster 0 0).bars.all fun r => r.failed) = true
    ∧ ran (.barrierWaitRequest 0 0 (0, false)) (living (barred .wait [rec0])) (fun t => (t.cluster 0 0).bwait.length = 1
        && (t.answerBars.seat 0 0).vres.all (fun v => v.ready && v.data = 4) && (t.answerBars.cluster 0 0).bwait = []) = true
    ∧ ran (.barrierWaitRequest 0 0 (0, false)) (living (barred .wait [{ rec0 with p := 2 }])) (fun t =>
        (t.answerBars.cluster 0 0).bwait.length = 1) = true := by
  decide +kernel

/-- `base` with the inbox of the steward of cluster 0, whose ring lies at VA 0x600. -/
def inboxed (s : State) : State := s.modDie 0 fun d => { d with queues := [(0xFF0, {
  func := 0, base := 0x600, lrsz := 4, push := 1, pop := 0, pushDev := [], mirror := none, head := 0, tail := 0, recs := [], drops := 0 })] }

/-- A message of the head steward is taken from the inbox, and whose it is. -/
def inboxTakes (s : State) (type : Nat) (core : Bits16) (body : List Byte) : Bool :=
  match s.inbox 0 0 true type core 9 body with
  | .ok p => p.2.isNone
  | .error _ => false

/-- Requests of the head steward for core 0: in range at the edges and out of it. -/
theorem witness_StewardEvents : inCluster 0 0 0 = true ∧ ¬ inCluster 0 0 1 = true ∧ (7 : Bits8).toNat ≤ 7 ∧ (base.cluster 0 0).sfail = false
    ∧ (∀ p ∈ ([(1, cntBody 256 1 0), (2, [7]), (3, []), (4, [7, 16]), (5, invalBody 0x2000 4 3 31 4095), (6, [])] : List (Nat × List Byte)),
        inboxTakes (inboxed base) p.1 0 p.2 = true)
    ∧ (∀ n ∈ [48, 88, 192], granted (base.span ⟨0, 0, false, [], none, ⟨2, 14, 0⟩⟩ .write 256 n) = true)
    ∧ (base.core 0).mstate ≠ .out ∧ base.excluded 0 = false
    ∧ ((base.modCore 0 fun x => { x with mstate := .out }).core 0).mstate = .out
    ∧ (let s := (base.modCore 0 fun x => { x with mstate := .out }).modPkg fun p => { p with mbox := [(0, 0x20)] }
      s.excluded 0 = true)
    ∧ (base.cluster 0 0).inval = none ∧ (256 : Word).toNat % 64 = 0 ∧ (invalBody 0x2000 4 3 31 4095).length ≤ 40
    ∧ ran (.floor 0 0 true 0 9 7) (inboxed base) (fun t => (t.core 0).floor = 7) = true
    ∧ ran (.budget 0 0 true 0 9 7 16) (inboxed base) (fun t => (t.die 0).lb.val 0 7 = 16) = true
    ∧ ran (.requal 0 0 true 0 9) (inboxed (base.modCore 0 fun x => { x with mstate := .out })) (fun t => (t.core 0).mstate = .normal) = true
    ∧ ran (.stewardWatchdog 0 0) base (fun t => (t.core 0).floor = 7 && (t.core 4).floor = 0) = true := by decide +kernel

/-- CNT of H0's counters: six words at DEST, MROW second (R216, R267). -/
theorem test_cnt : ran (.cnt 0 0 true 0 9 0 0 256 1 0) (inboxed (base.modCore 0 fun x => { x with hc0 := { x.hc0 with mrow := 77 } }))
    (fun t => leNat (t.rdBytes 0 0x5108 8) = 77) = true := by decide +kernel

/-- The same inbox, where a strand of address space 0 has pushed a CNT (R266). -/
def cntPushed : State :=
  let s := inboxed base
  match s.queue? 0 0xFF0 with
  | none => s
  | some q => ((s.reserve 0 0xFF0 q 0 (stewMsg 1 0 0 9 0 (cntBody 256 1 0)) [] ⟨some (0, 0, 0), stewCls, false⟩).1).publish 0 0xFF0

theorem witness_StewardEvents_strand : (match cntPushed.inbox 0 0 false 1 0 9 (cntBody 256 1 0) with
      | .ok p => p.2 == some (0, 0, 0)
      | .error _ => false) = true
    ∧ ((0, 0) : FuncId × Bits12) ≠ (1, 0)
    ∧ ran (.cnt 0 0 false 0 9 0 0 256 1 0) cntPushed (fun t => (t.die 0).queues.any fun p => p.1 == 0xFF0 && p.2.head != 0) = true
    ∧ ran (.cnt 0 0 false 0 9 1 0 256 1 0) cntPushed (fun t => (t.queue? 0 0xFF0).any fun q => q.recs.length == 1) = true := by decide +kernel

/-- An invalidation of page 2 in progress, and one that an access outstanding beyond the die holds up. -/
def invaled : State := base.modCluster 0 0 fun u => { u with inval := some ⟨0x2000, 0, false, false, 0, 0, 0, 1⟩ }

theorem witness_StewardEvents_inval : (invaled.cluster 0 0).inval = some ⟨0x2000, 0, false, false, 0, 0, 0, 1⟩
    ∧ invaled.pendingAccess 0 0 = false ∧ (invaled.modSeat 0 0 fun q => { q with vres := [res1] }).pendingAccess 0 0 = true
    ∧ ran (.invalComplete 0 0) invaled (fun t => (t.core 0).tlb.length = 3 && (t.cluster 0 0).inval = none) = true
    ∧ ran (.inval 0 0 true 0 1 0x2000 4 3 31 4095) (inboxed base) (fun t => (t.cluster 0 0).inval.isSome) = true := by decide +kernel

/-- Windows: within the budget, over it, over it for the fourth time, and of a core in quarantine; no task is admitted. -/
def windowed (n overs : Nat) (st : MState) : State := base.modCore 0 fun x => { x with wcnt := n, overs := overs, mstate := st, raf := 1023 }

/-- The same with every seat EMPTY. -/
def idle (s : State) : State := s.modSeat 0 0 fun _ => SeatSt.reset

theorem witness_MarginEvents_windows : bits (base.core 0).mwin 23 8 = 256 ∧ bits (base.core 0).mwin 27 24 = 4 ∧ bits (base.core 0).mwin 4 0 = 20
    ∧ (∀ p ∈ base.dies, p.2.tasks = []) ∧ (∀ k, ((idle (windowed 0 0 .normal)).seat 0 k).st = .empty) ∧ (base.core 0).stopped = false
    ∧ ran (.windowEnd 0) (windowed 256 2 .watch) (fun t => (t.core 0).mstate = .normal && (t.core 0).overs = 0 && (t.core 0).raf = 4) = true
    ∧ ran (.windowEnd 0) (windowed 257 2 .normal) (fun t => (t.core 0).mstate = .watch && (t.core 0).overs = 3 && (t.core 0).floor = 1) = true
    ∧ ran (.windowEnd 0) (windowed 257 3 .watch) (fun t => (t.core 0).mstate = .quarantine && (t.core 0).wcnt = 0) = true
    ∧ ran (.windowEnd 0) (idle (windowed 257 3 .watch)) (fun t => (t.core 0).mstate = .out) = true
    ∧ ran (.windowEnd 0) (windowed 257 3 .quarantine) (fun t => (t.core 0).mstate = .quarantine && (t.core 0).overs = 4) = true := by
  decide +kernel

theorem witness_MarginEvents_late : (base.core 0).guard ≠ 7 ∧ (base.core 0).late = none
    ∧ ((base.modCore 0 fun x => { x with floor := 7 }).core 0).guard = 7
    ∧ (((engaged (stepping 1 2)).core 0).running 0).map Prod.fst = some 3 ∧ ((engaged (stepping 1 2)).core 0).guard ≠ 7
    ∧ bits ((engaged (stepping 1 2)).seat 0 0).mlim 6 4 = 3 ∧ 1 ≤ 3
    ∧ ((engaged (stepping 1 2)).seat 0 0).pend = []
    ∧ ran (.engineLateVerdict 0 .h0) (engaged { stepping 1 2 with late := 3, lateAt := 15 }) (fun t =>
        (t.seat 0 0).pend.any fun a => a.code = fReplay && a.src = 0) = true
    ∧ ran (.engineLateVerdict 0 .h0) (engaged (stepping 1 2)) (fun t => (t.seat 0 0).pend = [] && (t.core 0).wcnt = 1) = true
    ∧ ran (.lateVerdict 0) base (fun t => (t.core 0).late = some false) = true := by decide +kernel

/-- A unit's persistence count, and what of it was counted at level 7. -/
def pressed (n m : Nat) : State := base.modCore 0 fun x => { x with pers := [(1, n)], pers7 := [(1, m)] }

theorem witness_MarginEvents_persistence : ((pressed 63 0).core 0).persistence 1 = (63, 0) ∧ ((pressed 64 63).core 0).persistence 1 = (64, 63)
    ∧ ((pressed 128 64).core 0).persistence 1 = (128, 64)
    ∧ ran (.persistenceLimit 0 1) (pressed 64 63) (fun t => (t.core 0).col = 7 && (t.core 8).col = 7 && (t.core 1).col = 0) = true
    ∧ ran (.persistenceLimit 0 1) (pressed 128 64) (fun t => (t.core 0).stopped && (t.core 0).mstate = .out
        && (t.seat 0 0).st = .empty) = true := by decide +kernel

/-- Injections: none armed, one whose CYC has not come, has come, and has passed, for bundles and for H0. -/
theorem witness_MarginEvents_injection : let at' (f : Entry) (unit : Bits2) (t : Nat) := (engaged f).modCore 0 fun x => { x with
      injLeft := 1, injUnit := unit, injAt := t, injGap := 3 }
    let f := stepping 1 2
    let g := { f with seat := 1 }
    (base.core 0).injLeft = 0 ∧ (at' f 0 21).cyc < ((at' f 0 21).core 0).injAt ∧ ((at' f 0 20).core 0).issuing = some 0
    ∧ (((at' f 1 20).core 0).running 0).map (fun p => p.2.seat) = some 0 ∧ (((at' g 1 20).core 0).running 0).map (fun p => p.2.seat) = some 1
    ∧ ran (.injection 0) (at' f 0 19) (fun t => (t.core 0).injDrop = 1 && (t.core 0).injAt = 22) = true
    ∧ ran (.injection 0) (at' f 0 20) (fun t => (t.core 0).late = some true && (t.core 0).injDrop = 0) = true
    ∧ ran (.injection 0) (at' f 1 20) (fun t => (t.core 0).injDone = 1 && (t.core 0).wcnt = 0) = true
    ∧ ran (.injection 0) (at' g 1 20) (fun t => (t.core 0).injDrop = 1) = true := by decide +kernel

theorem witness_MarginEvents_droop : let s := { (base.modDie 0 fun d => { d with droop := [(0, 1600)] }) with cyc := 1600 }
    (s.die 0).droop.find 0 = some 1600 ∧ 1600 ≤ s.cyc ∧ { s with cyc := 1599 }.cyc < 1600 ∧ (base.die 0).droop.find 0 = none
    ∧ ran (.droopHoldEnd 0 0) s (fun t => (t.die 0).droop = []) = true
    ∧ ran (.droopDetect 0 3) base (fun t => (t.die 0).droop.val 0 3 = 1600 && t.colLevel 3 = 7) = true
    ∧ ran (.guardSettled 0 0) (base.modCore 0 fun x => { x with floor := 2 }) (fun t => (t.core 0).col = 2) = true := by decide +kernel

/-- Bytes placed from an address on. -/
def placed (s : State) (a : Nat) (b : List Byte) : State :=
  { s with mem := (b.foldl (fun (p : Tab Byte × Nat) v => (p.1.wr p.2 v, p.2 + 1)) (s.mem, a)).1 }

/-- A launch record for the descriptor at VA 0x100 without dependences (R314), and one with a bad DEPK. -/
def launchRec : List Byte :=
  [(0, 8, 0x100), (8, 8, 0x40), (32, 8, 0xFFFFFFFFFFFFFFFF)].foldl (fun b (p : Nat × Nat × Nat) => setBytes b p.1 (leBytes p.2.1 p.2.2))
    (List.replicate 128 0)
def badRec : List Byte := setBytes launchRec 40 [4]

/-- A launch by a strand that stands at the dispatcher, with function 0 holding what the task needs or not. -/
def launching (rec : Option (List Byte)) (tasks : Tab TaskSt) (grants : Bool) : State :=
  let s := (placed (placed base 0x5100 desc0) 0x5200 (leBytes 8 2 ++ leBytes 4 500 ++ leBytes 4 300)).modPkg fun p => { p with tbstat := 1 }
  let s := s.modDie 0 fun d => { d with tasks := tasks, lreq := [⟨.strand 0 0 4, 0, 0, true, rec, 0x9000⟩] }
  let s := s.modSeat 0 0 fun q => { q with vres := [{ res0 with kind := .launch, key := 4, remote := false }] }
  if grants then s.modFunc 0 fun f => { f with grants := f.grants ++ [⟨.cores, 0, 0x0707⟩, ⟨.l2class, 0, 13⟩, ⟨.hbmClass, 0, 3⟩, ⟨.session, 0, 9⟩] }
  else s

/-- What the oldest launch of die 0 reads: 0 unreadable, 1 a breach, 2 a task known, 3 a new one. -/
def readCode (s : State) : Nat :=
  match (s.die 0).lreq with
  | [] => 9
  | r :: rest => match ((s.modDie 0 fun x => { x with lreq := rest }).readLaunch [] r).2 with
    | .unreadable _ => 0
    | .breach => 1
    | .ok _ (.known _ _) => 2
    | .ok _ (.fresh _) => 3

/-- The value that a launch's strand is told. -/
abbrev told (s : State) (v : Nat) : Prop :=
  ran (.launchReadDone (0, [])) s (fun t => (t.die 0).lreq.isEmpty && (t.seat 0 0).vres.all fun y => y.ready && y.data = BitVec.ofNat 8192 v) = true

theorem witness_LaunchEvents_refused : (base.die 0).lreq = [] ∧ readCode (launching none [] true) = 0
    ∧ readCode (launching (some badRec) [] true) = 1 ∧ readCode (launching (some launchRec) [(7, task0)] false) = 2
    ∧ readCode (launching (some launchRec) [(7, { task0 with descVa := 0x300 })] true) = 3
    ∧ ((launching none [] true).pkg.tbstat.getLsbD 0 = true ∧ ((launching none [] true).die 0).cwmNew = none)
    ∧ told (launching none [] true) (2 ^ 63 + 1) ∧ told (launching (some badRec) [] true) (2 ^ 63 + 2)
    ∧ told (launching (some launchRec) [(7, task0)] false) (2 ^ 63 + 6)
    ∧ told (launching (some launchRec) [(7, { task0 with descVa := 0x300 })] true) (2 ^ 63 + 8) := by decide +kernel

theorem witness_LaunchEvents_entered : readCode (launching (some launchRec) [(7, task0)] true) = 2
    ∧ readCode (launching (some launchRec) [] true) = 3
    ∧ told (launching (some launchRec) [(7, task0)] true) 1 ∧ told (launching (some launchRec) [] true) 1
    ∧ ran (.launchReadDone (0, [])) (launching (some launchRec) [] true) (fun t => (t.instAt 0 1).any fun i =>
        i.task = 7 && i.deadline = 4000 && i.crec = 0x180 && i.param = 0x40 && i.st = .waiting) = true := by decide +kernel

/-- A task whose remaining time exceeds its deadline is not admitted (R324). -/
theorem witness_LaunchEvents_admission : let s := placed (launching (some launchRec) [] true) 0x5208 (leBytes 4 0xFFFFFFFF)
    readCode s = 3 ∧ told s (2 ^ 63 + 5) := by decide +kernel

theorem witness_LaunchEvents_others :
    let done (t : Nat) : State := { held { inst0 with st := .ended, done := some 0 } with cyc := t }
    ((held inst0).seat 0 0).st ≠ .empty ∧ ((held inst0).instAt 0 (bInst ((held inst0).seat 0 0).billet)).isSome = true
    ∧ ((done 0).instAt 0 5).map InstSt.done = some (some 0) ∧ base.cyc % 2 ^ 20 = 0 ∧ (engaged ent0).cyc % 2 ^ 20 ≠ 0
    ∧ ran (.rteUpdate 0 0) ((held inst0).modCore 0 fun x => { x with raf := 512 }) (fun t => (t.seat 0 0).rte = 750) = true
    ∧ ran (.instanceRetire 0 5) (done 800000) (fun t => (t.die 0).insts = []) = true
    ∧ ran (.instanceRetire 0 5) (done 799999) (fun t => (t.die 0).insts.length = 1) = true
    ∧ ran (.dispatchConfigWrite 0 (0#24 ++ 24#5 ++ 30#5 ++ 24#10 ++ 1000#10 ++ 1000#10)) base (fun t => bits (t.die 0).dcfg 9 0 = 1000) = true
    ∧ ran (.dispatchConfigWrite 0 (0#24 ++ 24#5 ++ 30#5 ++ 25#10 ++ 1000#10 ++ 1000#10)) base (fun t => bits (t.die 0).dcfg 9 0 = 717) = true := by
  decide +kernel

/-- Instances that wait: a dependence that is not known any more, for an arrival, past their deadline, with their conditions met. -/
def waits (i : InstSt) : State := (held i).modPkg fun p => { p with tbstat := 1 }

theorem witness_InstanceEvents_release :
    let dep := { inst0 with dep0 := some (6, false) }
    let arr := { inst0 with arrival := true }
    let late := { inst0 with deadline := 0 }
    let shed := { inst0 with gmin := 4 }
    let later := { inst0 with release := 5 }
    inst0.st = .waiting ∧ (waits inst0).depFailed inst0 = false ∧ (waits inst0).gradeFor inst0 = some 0
    ∧ (waits inst0).depMet none = some true ∧ (waits inst0).waited inst0 = true
    ∧ (waits shed).gradeFor shed = none ∧ (waits arr).depFailed arr = false ∧ (waits late).releaseOf 0 late = 0
    ∧ (waits later).releaseOf 0 later = 5 ∧ (waits later).ptimeAt (waits later).cyc = 0
    ∧ ran (.instanceRelease 0 5) (waits inst0) (fun t => (t.instAt 0 5).any fun i => i.st = .ready && i.graded && i.grade = 0) = true
    ∧ ran (.instanceRelease 0 5) (waits { inst0 with graded := true, grade := 0 }) (fun t => (t.instAt 0 5).any fun i => i.st = .ready) = true
    ∧ ran (.instanceRelease 0 5) (waits arr) (fun t => (t.instAt 0 5).any fun i => i.st = .waiting) = true
    ∧ ran (.instanceRelease 0 5) (waits late) (fun t => (t.instAt 0 5).any fun i => i.st = .ended && i.shed) = true
    ∧ ran (.instanceRelease 0 5) (waits shed) (fun t => (t.instAt 0 5).any fun i => i.st = .ended && i.shed) = true
    ∧ ran (.instanceRelease 0 5) (waits later) (fun t => (t.instAt 0 5).any fun i => i.st = .waiting) = true
    ∧ (let s := waits dep
       let z := s.modDie 0 fun d => { d with insts := [(5, dep), (6, { inst0 with st := .ended, shed := true, done := some 0, code := 9 })] }
       z.depFailed dep = true ∧ ran (.instanceRelease 0 5) z (fun t => (t.instAt 0 5).any fun i => i.shed && i.pred) = true) := by
  decide +kernel

theorem witness_InstanceEvents_bind : let r := { inst0 with st := .ready, graded := true }
    let s := vacant r
    s.pkg.supply = false ∧ (s.die 0).losing 1 = false ∧ r.seats = [] ∧ r.saved = [] ∧ r.ended = [] ∧ tdLw r.tsk.desc = 0
    ∧ tdLh r.tsk.desc = 0 ∧ tdRx r.tsk.desc < 8 ∧ tdRy r.tsk.desc < 8 ∧ bInst (billetOf r 5 0 0 false) = 5
    ∧ bMode (billetOf r 5 0 0 false) = false ∧ coreDie 0 = 0
    ∧ s.placeFor r 5 = some ((0, 0), [(0, 0, billetOf r 5 0 0 false)]) ∧ tdPrebind r.tsk.desc = false
    ∧ ran (.bind 0 5) s (fun t => (t.seat 0 0).st = .wake && (t.seat 0 0).pc = 0x40) = true := by decide +kernel

/-- The cut of an instance of two strands, the other one on core 1 (the cut tree, R331). -/
def cutting (c : Option CutSt) (seats : Tab (CoreId × SeatId)) (word : Word) : State :=
  (held { inst0 with st := .ready, seats := seats, cut := c, cutReq := c.isNone }).modCore 0 fun x => { x with cut := word }

theorem witness_InstanceEvents_cuts : let two : Tab (CoreId × SeatId) := [(0, (0, 0)), (1, (1, 0))]
    let one : Tab (CoreId × SeatId) := [(0, (0, 0))]
    let fresh : CutSt := ⟨0, [], none, none, false⟩
    let known : CutSt := ⟨0, [], some 3, some 3, false⟩
    ((cutting none two 0).die 0).cuts < 8 ∧ ((cutting none two 0).instAt 0 5).map (((cutting none two 0).die 0).earlierCut) = some false
    ∧ ran (.cutStart 0 5) (cutting none two 0) (fun t => (t.core 0).cut.getLsbD 0 && (t.core 1).cut.getLsbD 0) = true
    ∧ bInst ((cutting (some fresh) one 0x11).seat 0 0).billet = 5 ∧ ((cutting (some fresh) one 0x11).core 0).cut.getLsbD 4 = true
    ∧ ((cutting (some fresh) one 0).core 0).cut.getLsbD 4 = false ∧ ((cutting (some fresh) one 0x11).seat 0 0).sidx = 0
    ∧ ((cutting (some known) two 0x11).seat 0 0).stepNo.toNat < 3
    ∧ ran (.cutReport 0 0) (cutting (some fresh) one 0x11) (fun t => (t.seat 0 0).st = .out && (t.core 0).cut = 0) = true
    ∧ ran (.cutReport 0 0) (cutting (some fresh) two 0x11) (fun t => (t.instAt 0 5).any fun i => i.cut.any fun u => u.held = [(0, 0)]) = true
    ∧ ran (.cutReport 0 0) (cutting (some known) two 0x11) (fun t => (t.core 0).cut.getLsbD 4 = false) = true
    ∧ tdCutbound desc0 = 262144
    ∧ ran (.cutTimeout 0 5) { cutting (some fresh) two 0x11 with cyc := 262145 } (fun t => (t.instAt 0 5).any fun i => i.cut = none) = true
    ∧ ran (.cutTimeout 0 5) { cutting (some fresh) two 0x11 with cyc := 262144 } (fun t => (t.instAt 0 5).any fun i => i.cut.isSome) = true := by
  decide +kernel

/-- Both strands of the instance stand at step 0, the other one reported: all are out together (R331). Past its bound a cut fails, and
what F_CUT tells the outbox. -/
theorem witness_InstanceEvents_together : let two : Tab (CoreId × SeatId) := [(0, (0, 0)), (1, (1, 0))]
    let s := (cutting (some ⟨0, [(1, 0)], some 0, some 0, false⟩) two 0x11).modSeat 1 0 fun _ => { (held inst0).seat 0 0 with sidx := 1 }
    let z := { cutting (some ⟨0, [], none, none, false⟩) two 0x11 with cyc := 262145 }
    ran (.cutReport 0 0) s (fun t => (t.seat 0 0).st = .out && (t.seat 1 0).st = .out && (t.core 0).cut = 0) = true
    ∧ (s.seat 0 0).stepNo = 0 ∧ (s.seat 1 0).st ≠ .out
    ∧ inst0.client = none ∧ inst0.removal = false ∧ inst0.corner 0 = 0 ∧ (z.queue? 0 0xFF8).isNone = true ∧ (z.cluster 0 0).omsg = []
    ∧ ran (.cutTimeout 0 5) z (fun t => (t.cluster 0 0).omsg = [stewMsg 0x81 0 0 0 262145
        (leBytes 8 fCut.toNat ++ leBytes 8 0 ++ leBytes 4 7 ++ leBytes 4 5)]) = true := by decide +kernel

theorem witness_InstanceEvents_complete : let i := { inst0 with st := .ready, ended := [0], fin := 7 }
    let s := vacant i
    i.allOut = true ∧ s.mirrored i = false ∧ inst0.allOut = false ∧ (s.die 0).fenced = false ∧ i.mfail = none ∧ FarAns.none.err = none
    ∧ granted (s.span i.who .write i.crec.toNat 64) = true ∧ (i.outcome (s.ptimeAt i.fin)).1 = 0 ∧ s.pkg.sess = []
    ∧ ran (.instanceComplete 0 (5, FarAns.none)) s (fun t => (t.instAt 0 5).any (fun j => j.st = .ended && j.done = some 0)
        && leNat (t.rdBytes 0 0x5184 4) = 5) = true
    ∧ (let z := s.modDie 0 fun d => { d with fenced := true }
       (z.die 0).fenced = true ∧ ran (.instanceComplete 0 (5, FarAns.none)) z (fun t => t.mem = z.mem) = true) := by decide +kernel

/-- A steering entry armed for slots 0 and 1 of core 0, and what has come to it. -/
def steered (w0 w1 : Word) (fresh : Bool) (l : Option Landing) : State :=
  (base.modDie 0 fun d => { d with steer := [(0, ⟨w0, w1, 3, fresh, l, some (0, 0, 4)⟩)] }).modCore 0 fun x => { x with
    tiles := [(0, { Tile.none with owner := some 0, st := .filling, armed := true }), (1, { Tile.none with owner := some 0, st := .filling, armed := true })] }

theorem witness_IoEvents_ingress : let open' : Word := 0x01000001
    let land : Landing := ⟨[7], 1, false, 0⟩
    (∀ p ∈ ([(0x01000000, 0x10000, true, none, 1), (open', 0x00000, true, none, 1), (open', 0x10005, false, none, 2), (open', 0x10004, false, some land, 4),
        (open', 0x10004, false, none, 0), (open', 0x10004, false, some { land with uud := true }, 4)] : List (Word × Word × Bool × Option Landing × Nat)),
      ran (.messageIngress 0 0 0x50000 [1, 2] 9) (steered p.1 p.2.1 p.2.2.1 p.2.2.2.1) (fun t => bits (t.steerAt 0 0).w1 55 48 = p.2.2.2.2) = true)
    ∧ ran (.messageIngress 0 2 0x50000 [1, 2] 9) (steered open' 0x10004 false (some { land with uud := true })) (fun t =>
        (t.steerAt 0 0).land = some ⟨[1, 2], 5, true, 9⟩) = true
    ∧ steerN ((steered open' 0 true none).steerAt 0 0) = 2 := by decide +kernel

theorem witness_IoEvents_landed : let s := { steered 0x01000001 0x10004 false (some ⟨[7, 8], 6, false, 0x99⟩) with cyc := 200 }
    (s.steerAt 0 0).land = some ⟨[7, 8], 6, false, 0x99⟩ ∧ (s.steerAt 0 1).land = none ∧ (∀ p ∈ (s.die 0).insts, p.2.arrival = false)
    ∧ (s.steerAt 0 0).post = some (0, 0, 4)
    ∧ ran (.messageLanded 0 0) s (fun t => (t.steerAt 0 0).arr = 0xBF && bits (t.steerAt 0 0).w1 17 0 = 0x20006
        && ((t.core 0).tile 1).st = .ready && (t.seat 0 0).inc = [(4, 1)] && ((t.core 0).granRow 0).d = 0x0807) = true := by decide +kernel

theorem witness_IoEvents_others : let v : Vres := { res0 with kind := .nsend, remote := false, dest := .none }
    let s := { (seated fun q => { q with vres := [v] }) with cyc := 900 }
    let hop (l : List (Nat × Nat)) : State := ({ base with cyc := 900 }).modPkg fun p => { p with hop := some 400, hopDroop := l }
    (s.seat 0 0).vres[0]? = some v ∧ v.kind = .nsend ∧ s.pkg.hop = none ∧ s.frameWaits 0 0 v = false ∧ v.sem ≠ 0 ∧ (s.seat 0 0).ecq.length < 16
    ∧ (let z := s.modSeat 0 0 fun q => { q with vres := [v, { v with ck := 3 }] }
       z.frameWaits 0 0 { v with ck := 3 } = true ∧ ran (.egressDone 0 0 1 5) z (fun t => (t.seat 0 0).vres.length = 2) = true)
    ∧ (hop []).pkg.hop ≠ none ∧ ran (.messageIngress 0 0 0x50000 [1] 9) (hop []) (fun t => (t.steerAt 0 0).w1 = 0) = true
    ∧ ran (.fabricClockHop true) s (fun t => t.pkg.hop = some 900) = true
    ∧ ran (.droopDetect 0 3) (hop []) (fun t => t.pkg.hopDroop = [(0, 3)] && (t.die 0).droop = []) = true
    ∧ ran (.fabricClockHop false) (hop [(0, 3)]) (fun t => t.pkg.hop = none && (t.die 0).droop.val 0 3 = 2500 && (t.die 0).dlog = [(3, 900)]) = true
    ∧ (let z := s.modSeat 0 0 fun q => { q with ecq := List.replicate 16 ⟨1, 2⟩ }
       16 ≤ (z.seat 0 0).ecq.length ∧ ran (.egressDone 0 0 0 5) z (fun t => (t.seat 0 0).elost && (t.seat 0 0).ecq.length = 16) = true)
    ∧ ran (.egressDone 0 0 0 500) s (fun t => (t.seat 0 0).ecq = [⟨0, 625⟩] && (t.seat 0 0).sem 3 = 1) = true
    ∧ (0x14000000000 * 1999 ≤ (0x14000000000 : Word).toNat * 2000 ∧ (0x14000000000 : Word).toNat * 2000 ≤ 0x14000000000 * 2001)
    ∧ ran (.timebaseUpdate 77 5 0x14000000000 true 0) base (fun t => t.pkg.tbbase = 77 && t.pkg.tbstat = 1) = true
    ∧ ran (.timebaseUpdate 77 5 0x14100000000 true 0) base (fun t => t.pkg.tbbase = 0 && t.pkg.tbstat = 1) = true
    ∧ ran (.timebaseUpdate 77 5 0x14000000000 true 0) (waits inst0) (fun t => t.pkg.tbbase = 0) = true
    ∧ ran (.timebaseUpdate 10 8 0x14000000000 true 0) { waits inst0 with cyc := 8 } (fun t => t.pkg.tbbase = 10) = true
    ∧ ran (.powerCheck 3201) { base with cyc := 80000 } (fun t => (t.die 3).lb.val 48 7 = 40) = true
    ∧ ran (.powerCheck 3039) ({ base with cyc := 80000 }.modDie 0 fun d => { d with lb := [(7, 40)] }) (fun t => (t.die 0).lb.val 48 7 = 48) = true
    ∧ base.cyc < base.pkg.pwrAt + 80000 ∧ ran (.powerCheck 3201) base (fun t => (t.die 3).lb.val 48 7 = 48) = true
    ∧ ran (.portDown 1 true false) base (fun t => (t.die 1).down1 && !(t.die 1).down0) = true := by decide +kernel

/-- A span that is granted and lies on this device. -/
def near (x : Span) : Bool := granted x && !isFar (segs x)

/-- A session of mirrored state (64 bytes at VA 256), and the action task of `inst0` in it, every strand ended. -/
def descA : List Byte := setBytes desc0 1 [2]
def mirrored (mir committed up : Bool) : State :=
  let i := { inst0 with tsk := { task0 with desc := descA }, st := .ready, ended := [0], mir := mir, committed := committed }
  (vacant i).modPkg fun p => { p with sess := [(2, ⟨0, 256, 64, 256, 8, 0, 0, 0⟩)], links := [(64, { LinkSt.reset with up := up })] }

/-- Mirror area 2 of the relay die (1) of die 0: its header, generation and buffers (R357, R358). -/
theorem witness_PackageEvents_mirror : ([(false, false), (true, false), (true, true)] : List (Bool × Bool)).all (fun b =>
      ((mirrored b.1 b.2 true).instAt 0 5).any fun i =>
        i.allOut && (mirrored b.1 b.2 true).mirrored i && (i.mir == b.1) && i.committed == b.2) = true
    ∧ ((mirrored false false true).die 0).fenced = false ∧ ((mirrored false false true).die (0 ^^^ 1)).fenced = false
    ∧ (mirrored false false true).linkUp 64 = true ∧ (mirrored false false false).linkUp 64 = false
    ∧ near ((mirrored false false true).span inst0.who .read 256 64) = true
    ∧ isHbm ((mirrored false false true).mirrorBase 1 2) = true
    ∧ ran (.mirrorCommit 0 (5, FarAns.none)) (mirrored false false true) (fun t => t.mirrorGen 1 2 = 0
        && t.rdB 0 (t.mirrorBase 1 2 + 69632) = 0xEF && (t.instAt 0 5).any fun i => i.mir) = true
    ∧ ran (.mirrorCommit 0 (5, FarAns.none)) (mirrored false false false) (fun t => t.rdB 0 (t.mirrorBase 1 2 + 69632) = 0
        && (t.instAt 0 5).any fun i => i.committed && i.mfail.isSome) = true
    ∧ ran (.mirrorHeaderWrite 0 5) (mirrored true false true) (fun t => t.mirrorGen 1 2 = 1 && t.mirrorBuf 1 2
        && (t.instAt 0 5).any fun i => i.committed) = true := by decide +kernel

/-- A die whose beats stand as given, in the ck given. -/
def beating (cyc miss : Nat) (dir io : Bool) : State :=
  { (base.modDie 0 fun d => { d with hbmiss := miss, hbdir := dir, hbio := io }) with cyc := cyc }

theorem witness_PackageEvents_beats : (base.die 0).fenced = false ∧ base.pkg.safe = false ∧ base.pkg.supply = false ∧ (base.die 0).hbsent = 0
    ∧ (base.die 0).hbtick = 0 ∧ (∀ p ∈ base.pkg.sess, p.2.statelen = 0)
    ∧ ran (.heartbeatSend 0) ({ base with cyc := 8000 }.modPkg fun p => { p with links := [(64, { LinkSt.reset with up := true })] })
        (fun t => (t.die 0).hbsent = 8000 && (t.die 0).hbdir) = true
    ∧ ran (.heartbeatSend 0) (beating 7999 0 false false) (fun t => (t.die 0).hbsent = 0) = true
    ∧ ran (.heartbeatTick 0) (beating 8000 2 false false) (fun t => (t.die 0).hbmiss = 3) = true
    ∧ ran (.heartbeatTick 0) (beating 8000 2 false true) (fun t => (t.die 0).hbmiss = 0 && t.pkg.hslog = [(fLink, 64)]) = true
    ∧ ran (.heartbeatTick 0) (beating 8000 2 true false) (fun t => (t.die 0).hbmiss = 0 && t.pkg.hslog = []) = true
    ∧ ran (.relayFailure 0) (beating 0 4 false false) (fun t => (t.die 0).fenced && t.pkg.hslog = [(fRelay, 0)]) = true
    ∧ ran (.relayFailure 0) (beating 0 3 false false) (fun t => !(t.die 0).fenced) = true := by decide +kernel

/-- Slot 0 of the reset map is class R (0); four accesses wait in it. -/
def slotted : State := base.modDie 0 fun d => { d with hbmq := [(20, [1, 2, 3, 4])], smapNew := some 7 }

theorem witness_PackageEvents_hbm : (slotted.die 0).hbmq.val [] (4 * 5 + bits (slotted.die 0).smap 1 0) = [1, 2, 3, 4]
    ∧ ([1, 2, 3, 4] : List Nat)[0]? = some 1 ∧ 3 ≤ [1, 2, 3, 4].length ∧ (1 : Bits6).getLsbD 0 = true
    ∧ (slotted.die 0).smapNew = some 7 ∧ (∀ p ∈ (slotted.die 0).slot, p.2 = 0) ∧ slotted.l2.reqs = [] ∧ (base.die 0).smapNew = none
    ∧ (∃ p ∈ ((slotted.modDie 0 fun d => { d with slot := [(5, 1)] }).die 0).slot, p.2 ≠ 0)
    ∧ ran (.hbmSlot 0 5 [] 0 1) slotted (fun t => (t.die 0).hbmq.val [] 20 = [4] && t.pois = [2, 322] && (t.die 0).slot.val 0 5 = 1) = true
    ∧ ran (.slotMapApply 0) slotted (fun t => (t.die 0).smap = 7) = true := by decide +kernel

theorem witness_PackageEvents_walk : let s := base.modCore 0 fun x => { x with tlb := [] }
    let w : Who := ⟨0, 0, false, [], some 0, s.clsSeat 0 0⟩
    (match s.xlate w .read 256 with
      | .ok y => decide (y.pa = 0x5100)
      | .bad _ => false) = true
    ∧ (match s.xlate w .read 4096 with
      | .ok _ => false
      | .bad _ => true) = true
    ∧ (s.func 0).roots.find 0 = some 0x1000 ∧ s.leafFrom 256 [3, 2, 1, 0] 0x1000 = some (0, 0x513F) ∧ (s.core 0).tlb.length ≤ 64
    ∧ ran (.pageWalkDone 0 0 0 0 256 ⟨.read, false⟩) s (fun t => (t.core 0).tlb = [⟨0, 0, 0, 0, 0x513F⟩]) = true := by decide +kernel

/-- A key's entry as given, and a function that holds key 9 with a secured session. -/
def keyed (w : Word) : State := (base.modPkg fun p => { p with keys := p.keys.put 9 ⟨w, 5⟩ }).modFunc 0 fun f => { f with
  doe := true, grants := f.grants ++ [⟨.key, 9, 9⟩] }

theorem witness_PackageEvents_keys : ((keyed 0).func 0).doe = true ∧ (keyed 0).holds 0 .key 9 = true ∧ bits ((keyed 0).keyAt 9).word 1 0 = 0
    ∧ bits ((keyed 1).keyAt 9).word 1 0 = 1 ∧ bits ((keyed 2).keyAt 9).word 1 0 = 2 ∧ bits ((keyed 3).keyAt 9).word 1 0 = 3
    ∧ (keyed 3).settled 0 = true ∧ (base.func 0).doe = false ∧ ((keyed 3).modSeat 0 0 fun q => { q with vres := [res0] }).settled 0 = false
    ∧ ran (.keyLoad 0 9 false 77 true) (keyed 0x300) (fun t => t.keyAt 9 = ⟨0x401, 77⟩) = true
    ∧ ran (.keyRetire 9) (keyed 1) (fun t => t.keyAt 9 = ⟨3, 5⟩ && (t.core 0).tlb = []) = true
    ∧ ran (.keyRetireDone 9) (keyed 3) (fun t => t.keyAt 9 = ⟨0, 0⟩) = true := by decide +kernel

/-- A request of a type in the buffer of function 0, which holds some of everything; function 2 too. -/
def mailed (type : Nat) (args : List Nat) : State :=
  let b : List Byte := BitVec.ofNat 8 type :: (List.replicate 7 0 ++ Config.mailBody type args)
  let g : List Grant := [⟨.hbm, 0, 0x7FFFFFFFFF⟩, ⟨.memQueue, 0, 0xFFF⟩, ⟨.session, 0, 9⟩, ⟨.resident, 1, 1⟩]
  let s := base.modFunc 0 fun f => { f with hmdb := true, mreq := b, grants := g }
  s.modFunc 2 fun f => { f with hmdb := true, mreq := b, grants := [⟨.key, 3, 4⟩] }

/-- A request of a type with some fields stands in a function's buffer. -/
abbrev asks (s : State) (f : FuncId) (n : Nat) (l : List Nat) : Prop := (s.func f).hmdb = true
  ∧ (s.func f).mreq = BitVec.ofNat 8 n :: (List.replicate 7 0 ++ Config.mailBody n l)

theorem mailed_asks (n : Nat) (l : List Nat) : asks (mailed n l) 0 n l ∧ asks (mailed n l) 2 n l := ⟨⟨rfl, rfl⟩, rfl, rfl⟩

/-- Such a request is of its type, and its body holds its fields. -/
theorem asks_type {s : State} {f : FuncId} {n : Nat} {l : List Nat} (h : asks s f n l) (hn : n < 256) :
    (s.func f).hmdb = true ∧ field (s.func f).mreq 0 1 = n ∧ (s.func f).mreq.drop 8 = Config.mailBody n l := by
  obtain ⟨h1, h2⟩ := h
  refine ⟨h1, ?_, ?_⟩
  · rw [h2]
    simp [field, leNat, Nat.mod_eq_of_lt hn]
  · rw [h2]
    rfl

/-- A request that stands in a buffer is served: what the mailbox answers then. -/
theorem mail {i : Instr} {s : State} {f : FuncId} {n : Nat} {a l : List Nat} {f0 : Bool} {lk : Option FuncId} {act : State → Option State}
    {p : State → Bool} (h : ∀ s, exec i s = mailbox f n a f0 lk s act)
    (hm : asks s f n l) (ha : a = l ∧ n < 256)
    (hp : p (if s.pkg.safe || (f0 && f != 0) then s.mailAnswer f 1
      else if lk.any s.locked then (s.breach (lk.getD 0) n).mailAnswer f 3
      else match act s with
        | none => s.mailAnswer f 1
        | some t => t.mailAnswer f 0) = true) : ran i s p = true := by
  obtain ⟨h1, h2, h3⟩ := asks_type hm ha.2
  obtain ⟨rfl, -⟩ := ha
  have hs : s.mailed f n a = true := by
    simp only [State.mailed, h1, h2, h3, Bool.true_and, Bool.and_eq_true, decide_eq_true_eq, beq_self_eq_true, and_self]
  rw [ran, h, mailbox, hs]
  exact hp

theorem witness_MailboxEvents_grants : (mailed 1 []).pkg.safe = false ∧ (mailed 1 []).locked 0 = false ∧ (mailed 1 []).locked 2 = false
    ∧ (mailed 1 []).grantOk 2 ⟨.key, 9, 9⟩ = true ∧ (mailed 1 []).grantOk 2 ⟨.aperture, 0x10000, 0⟩ = true
    ∧ (mailed 1 []).grantOk 2 ⟨.vector, 0, 3⟩ = true ∧ (mailed 1 []).grantOk 2 ⟨.porterQueue, 0, 0⟩ = true ∧ (mailed 1 []).grantOk 2 ⟨.key, 9, 1024⟩ = false
    ∧ (∀ p ∈ (mailed 1 []).funcs, p.1 ≠ 2 → ∀ b ∈ p.2.grants, (⟨.key, 9, 9⟩ : Grant).meets b = false ∧ b.meets ⟨.key, 9, 9⟩ = false)
    ∧ ⟨.key, 3, 4⟩ ∈ ((mailed 2 []).func 2).grants ∧ (∀ p ∈ (mailed 2 []).dies, p.2.insts = []) ∧ ⟨.key, 3, 5⟩ ∉ ((mailed 2 []).func 2).grants := by
  decide +kernel

theorem test_mail_grants : ran (.alloc 0 2 .key 9 9) (mailed 1 [2, 4, 9, 9]) (fun t => (t.func 2).grants = [⟨.key, 3, 4⟩, ⟨.key, 9, 9⟩]) = true
    ∧ ran (.alloc 0 2 .aperture 0x10000 0) (mailed 1 [2, 12, 0x10000, 0]) (fun t => (t.func 2).bar2 = 0x10000) = true
    ∧ ran (.alloc 0 2 .vector 0 3) (mailed 1 [2, 6, 0, 3]) (fun t => (t.func 2).vec.length = 4) = true
    ∧ ran (.alloc 2 2 .key 9 9) (mailed 1 [2, 4, 9, 9]) (fun t => (t.func 2).mresp.head? = some 1) = true :=
  ⟨mail (fun _ => rfl) (mailed_asks _ _).1 (by decide +kernel) (by decide +kernel), mail (fun _ => rfl) (mailed_asks _ _).1 (by decide +kernel) (by decide +kernel),
    mail (fun _ => rfl) (mailed_asks _ _).1 (by decide +kernel) (by decide +kernel), mail (fun _ => rfl) (mailed_asks _ _).2 (by decide +kernel) (by decide +kernel)⟩

theorem test_mail_grants_more : ran (.alloc 0 3 .key 4 9) (mailed 1 [3, 4, 4, 9]) (fun t => (t.func 0).mresp.head? = some 1) = true
    ∧ ran (.release 0 2 .key 3 4) (mailed 2 [2, 4, 3, 4]) (fun t => (t.func 2).grants = []) = true
    ∧ ran (.release 0 2 .key 4 4) (mailed 2 [2, 4, 4, 4]) (fun t => (t.func 2).grants = [⟨.key, 3, 3⟩]) = true
    ∧ ran (.alloc 0 2 .key 9 9) (mailed 2 [2, 4, 9, 9]) (fun t => (t.func 0).hmdb) = true :=
  ⟨mail (fun _ => rfl) (mailed_asks _ _).1 (by decide +kernel) (by decide +kernel), mail (fun _ => rfl) (mailed_asks _ _).1 (by decide +kernel) (by decide +kernel),
    mail (fun _ => rfl) (mailed_asks _ _).1 (by decide +kernel) (by decide +kernel), by decide +kernel⟩

theorem witness_MailboxEvents_types : (mailed 3 []).holds 0 .memQueue (0 * 4096 + 0xFF7) = true ∧ (0xFF7 : Bits12).toNat < 0xFF8
    ∧ (mailed 3 []).holds 2 .memQueue 0 = false ∧ (mailed 4 []).holds 0 .session 9 = true ∧ (mailed 4 []).holds 0 .session 10 = false
    ∧ (mailed 7 []).holds 0 .resident 1 = true ∧ (mailed 7 []).holds 0 .resident 2 = false ∧ (mailed 8 []).pkg.res.find 1 = none
    ∧ bits (0x0F0F0001 : Word) 23 16 + bits (0x0F0F0001 : Word) 27 24 ≤ 255 ∧ bits (0x01FF0001 : Word) 23 16 + bits (0x01FF0001 : Word) 27 24 = 256
    ∧ ((mailed 5 []).die 0).binds.find 0 = none ∧ (0x200000 : Word).toNat % 2 ^ 21 = 0 ∧ (0x100000 : Word).toNat % 2 ^ 21 ≠ 0
    ∧ slotMapOk smapReset = true ∧ slotMapOk 0 = false ∧ 0xB < (12 : Bits8).toNat := by decide +kernel

/-- A resident slot that function 0 holds and no instance names; an outbox as boot leaves it; ways that no class has. -/
def mailedMore (type : Nat) (args : List Nat) : State :=
  ((mailed type args).modPkg fun p => { p with res := [(1, ⟨0, 1, 0, 1, 1, 0⟩)] }).modDie 0 fun d => { d with
    queues := [(0xFF8, ⟨0, 0x400, 8, 0, 1, [], none, 0, 0, [], 0⟩)], cwm := [(3, 1), (15, 0xFFFE)] }

theorem witness_MailboxEvents_more : ((mailedMore 8 []).pkg.res.find 1).map ResSt.func = some 0 ∧ (∀ p ∈ (mailedMore 8 []).dies, p.2.insts = [])
    ∧ ((mailedMore 3 []).queue? 0 0xFF8).isSome = true := by decide +kernel

theorem more_asks (l : List Nat) (n : Nat) : asks (mailedMore n l) 0 n l := ⟨rfl, rfl⟩

theorem test_mail_more : ran (.remove 0 1) (mailedMore 8 [1]) (fun t => t.pkg.res = []) = true
    ∧ ran (.qcfg 0 0 0xFF8 0x800 3 1 [] 6 0) (mailedMore 3 [0, 0xFF8, 0x800, 3, 1, 6, 0])
        (fun t => (t.queue? 0 0xFF8).any fun q => q.pop = 6 && q.base = 0x400) = true
    ∧ ran (.qcfg 0 0 7 0x800 23 1 [] 1 0x10) (mailed 3 [0, 7, 0x800, 23, 1, 1, 0x10])
        (fun t => (t.queue? 0 7).any fun q => q.lrsz = 23 && q.mirror = some 0x10) = true
    ∧ ran (.qcfg 0 0 7 0x820 23 1 [] 1 0x10) (mailed 3 [0, 7, 0x820, 23, 1, 1, 0x10]) (fun t => (t.func 0).mresp.head? = some 1) = true
    ∧ ran (.steer 0 0 18 0x0F0F0001) (mailed 4 [0, 18, 0x0F0F0001]) (fun t => (t.steerAt 0 18).w0 = 0x0F0F0001) = true :=
  ⟨mail (fun _ => rfl) (more_asks _ _) (by decide +kernel) (by decide +kernel), mail (fun _ => rfl) (more_asks _ _) (by decide +kernel) (by decide +kernel),
    mail (fun _ => rfl) (mailed_asks _ _).1 (by decide +kernel) (by decide +kernel), mail (fun _ => rfl) (mailed_asks _ _).1 (by decide +kernel) (by decide +kernel),
    mail (fun _ => rfl) (mailed_asks _ _).1 (by decide +kernel) (by decide +kernel)⟩

theorem test_mail_rest : ran (.egress 0 0 6 1 2 9 1 2 3) (mailed 5 [0, 6, 1, 2, 9, 1, 2, 3])
      (fun t => (t.die 0).binds.find 6 = some ⟨0, 9, true, 2, 1, 2, 3⟩) = true
    ∧ ran (.sess 0 9 1 64 65536 128 5) (mailed 6 [9, 1, 64, 65536, 128, 5]) (fun t => (t.sess 9).statelen = 65536) = true
    ∧ ran (.asroot 0 7 0x200000) (mailed 9 [7, 0x200000]) (fun t => (t.func 0).roots.find 7 = some 0x200000) = true
    ∧ ran (.smap 0 0 smapReset) (mailed 11 [0, smapReset.toNat]) (fun t => (t.die 0).smapNew = some smapReset) = true
    ∧ ran (.mailboxUnknownType 0 12) (mailed 12 []) (fun t => (t.func 0).mresp.head? = some 2) = true :=
  ⟨mail (fun _ => rfl) (mailed_asks _ _).1 (by decide +kernel) (by decide +kernel), mail (fun _ => rfl) (mailed_asks _ _).1 (by decide +kernel) (by decide +kernel),
    mail (act := fun s => if (0x200000 : Word).toNat % 2 ^ 21 != 0 || 2 ^ 52 ≤ (0x200000 : Word).toNat then none
        else some (s.modFunc 0 fun x => { x with roots := x.roots.put (7 : Bits12).toNat 0x200000 })) (fun _ => rfl)
      (mailed_asks _ _).1 (by decide +kernel) (by decide +kernel),
    mail (act := fun s => if slotMapOk smapReset then some (s.modDie 0 fun x => { x with smapNew := some smapReset }) else none)
      (fun _ => rfl) (mailed_asks _ _).1 (by decide +kernel) (by decide +kernel), by decide +kernel⟩

/-- A CWM request of function 0 for class 4, while another change waits; function 2 has a class of its own. -/
def waysAsked (ways : Bits16) : State :=
  ((mailed 10 [0, 4, ways.toNat]).modDie 0 fun d => { d with
    cwm := [(15, 0xFFF0)], cwmNew := some [(3, 1), (15, 0xFFF0)] }).modFunc 2 fun f => { f with grants := [⟨.l2class, 3, 3⟩] }

/-- A map that takes a way from class 1, which an instance has (its seats as given). -/
def waysTaken (seats : Tab (CoreId × SeatId)) : State :=
  (held { inst0 with seats := seats }).modDie 0 fun d => { d with cwm := [(1, 3)], cwmNew := some [(1, 1)] }

theorem witness_MailboxEvents_ways : (waysAsked 2).sharesWay [(3, 1), (15, 0xFFF0)] 4 2 = false ∧ (4 : Bits8).toNat < 14
    ∧ (waysAsked 3).sharesWay [(3, 1), (15, 0xFFF0)] 4 3 = true
    ∧ ((waysAsked 2).die 0).cwmNew = some [(3, 1), (15, 0xFFF0)] ∧ ((waysAsked 2).die 0).draining = []
    ∧ (∀ p ∈ ((waysAsked 2).die 0).insts, p.2.seats = [])
    ∧ ran (.cwmApply 0) (waysAsked 2) (fun t => (t.die 0).cwm.val 0 3 = 1 && (t.die 0).cwmNew = none) = true
    ∧ ((waysTaken [(0, (0, 0))]).die 0).losing 1 = true ∧ tdL2c inst0.tsk.desc = 1
    ∧ ran (.cwmApply 0) (waysTaken [(0, (0, 0))]) (fun t => (t.die 0).cwm = [(1, 3)]) = true := by decide +kernel

theorem ways_asks (w : Bits16) : asks (waysAsked w) 0 10 [0, 4, w.toNat] := ⟨rfl, rfl⟩

theorem test_mail_ways : ran (.cwm 0 0 4 3) (waysAsked 3) (fun t => (t.func 0).mresp.head? = some 1) = true
    ∧ ran (.cwm 0 0 4 2) (waysAsked 2) (fun t => ((t.die 0).cwmNew.getD []).val 0 4 = 2) = true :=
  ⟨mail (fun _ => rfl) (ways_asks _) (by decide +kernel) (by decide +kernel), mail (fun _ => rfl) (ways_asks _) (by decide +kernel) (by decide +kernel)⟩

/-- An image of one task at VA 256 for resident slot 1 (R387), and tasks' descriptors behind it. -/
def imaged (args : List Nat) : State :=
  let head := [(0, 4, 0x4F50415A), (4, 2, 1), (6, 2, 3), (8, 2, 1), (20, 4, 1)].foldl (fun b (p : Nat × Nat × Nat) =>
    setBytes b p.1 (leBytes p.2.1 p.2.2)) (List.replicate 64 0)
  placed (placed (mailed 7 args) 0x5100 head) 0x5200 (setBytes (setBytes desc0 1 [16]) 23 [1])

theorem witness_MailboxEvents_install : ((mailed 7 []).readImage [] 0 5000 0 1).2.isNone = true
    ∧ ((imaged []).readImage [] 0 256 512 1).2.map Prod.fst = some 1 ∧ (imaged []).holds 0 .resident 1 = true := by decide +kernel

theorem imaged_asks (l : List Nat) : asks (imaged l) 0 7 l := ⟨rfl, rfl⟩

theorem test_mail_install : ran (.install 0 1 1 1 256 (512, [])) (imaged [1, 1, 1, 256, 512])
      (fun t => (t.pkg.res.find 1).map ResSt.ntask = some 1) = true
    ∧ ran (.install 0 1 1 1 5000 (0, [])) (mailed 7 [1, 1, 1, 5000, 0]) (fun t => (t.func 0).mresp.head? = some 1) = true :=
  ⟨mail (fun _ => rfl) (imaged_asks _) (by decide +kernel) (by decide +kernel), mail (fun _ => rfl) (mailed_asks _ _).1 (by decide +kernel) (by decide +kernel)⟩

/-- Function 0 with an aperture of one page, two vectors, in a TDISP state. -/
def hosted (td : Tdisp) : State := base.modFunc 0 fun f => { f with
  bar2 := 0x1000, tdisp := td, vec := [(0, { VecSt.reset with pend := 1 }), (1, { VecSt.reset with masked := false, pend := 2, ctime := 1 })] }

theorem witness_HostEvents_bar2 : (hosted .unlocked).locked 0 = false ∧ ((hosted .unlocked).func 0).tdisp ≠ .error
    ∧ ((hosted .unlocked).func 0).vec.find 0 = some { VecSt.reset with pend := 1 } ∧ ((hosted .unlocked).func 0).vec.find 5 = none
    ∧ VecSt.reset.masked = true ∧ ((hosted .error).func 0).tdisp = .error
    ∧ near ((hosted .unlocked).span (.ofFunc 0) .read 256 8) = true ∧ granted ((hosted .unlocked).span (.ofFunc 0) .write 256 4) = true
    ∧ granted ((hosted .unlocked).span (.ofFunc 0) .read 0 4096) = true
    ∧ ran (.coalesceWrite 0 0 0x50000) (hosted .unlocked) (fun t => ((t.func 0).vec.find 0).any fun v => v.ccnt = 1 && v.ctime = 5) = true
    ∧ ran (.hostBar2Read 0 256 (8, [])) (hosted .unlocked) (fun t => t.out = [.hostRead 0 256 [0xEF, 0xCD, 0xAB, 0x89, 0x67, 0x45, 0x23, 0x01] true false]) = true
    ∧ ran (.hostBar2Read 0 256 (8, [])) (hosted .error) (fun t => t.out = [.hostRead 0 256 [] false false]) = true
    ∧ ran (.hostBar2Read 0 4089 (8, [])) (hosted .unlocked) (fun t => t.out = []) = true
    ∧ ran (.hostBar2Write 0 4092 [1, 2, 3, 4]) (hosted .unlocked) (fun t => t.rdB 0 0x5FFF = 4) = true
    ∧ ran (.hostBar2Write 0 4093 [1, 2, 3, 4]) (hosted .unlocked) (fun t => t.rdB 0 0x5FFF = 0) = true := by decide +kernel

/-- A BAR2 read of an address of the aperture that does not translate. -/
theorem witness_HostEvents_unmapped : let s := (hosted .unlocked).modFunc 0 fun f => { f with bar2 := 0x3000 }
    granted (s.span (.ofFunc 0) .read 0x1000 8) = false
    ∧ ran (.hostBar2Read 0 0x1000 (8, [])) s (fun t => t.out = [.hostRead 0 0x1000 [] false false]) = true := by decide +kernel

theorem witness_HostEvents_atomic : let s := hosted .unlocked
    256 + 8 ≤ (s.func 0).bar2.toNat ∧ (256 : Word).toNat % 8 = 0 ∧ granted (s.span (.ofFunc 0) .atomic 256 8) = true
    ∧ s.poisSegs (segs (s.span (.ofFunc 0) .atomic 256 8)) = false ∧ s.poisSegs (segs (s.span (.ofFunc 0) .atomic 128 4)) = true
    ∧ (∀ g ∈ segs (s.span (.ofFunc 0) .atomic 256 8), isHbm g.xl.pa = true) ∧ (128 : Word).toNat % 4 = 0
    ∧ granted (s.span (.ofFunc 0) .atomic 128 4) = true ∧ granted (s.span (.ofFunc 0) .atomic 256 16) = true ∧ (260 : Word).toNat % 8 ≠ 0
    ∧ ran (.hostAtomic 0 256 .fetchAdd 1 0x11 0) s (fun t => leNat (t.rdBytes 0 0x5100 8) = 0x0123456789ABCE00
        && t.out = [.hostAtomic 0 256 0x0123456789ABCDEF true]) = true
    ∧ ran (.hostAtomic 0 256 .cas 2 0x0123456789ABCDEF 9) s (fun t => leNat (t.rdBytes 0 0x5100 8) = 9) = true
    ∧ ran (.hostAtomic 0 256 .swap 2 1 0) s (fun t => t.out = [.hostAtomic 0 256 0 false]) = true
    ∧ ran (.hostAtomic 0 128 .swap 0 1 0) s (fun t => t.out = [.hostAtomic 0 128 0 false]) = true := by decide +kernel

/-- A host load outstanding (VA 12288), and the functions' interfaces. -/
theorem witness_HostEvents_others : let v : Vres := { res0 with addr := 12288, todo := some (.load (offsets (segs (e0.span .read 12288 8)) 0)) }
    let s := seated fun q => { q with vres := [v] }
    (s.seat 0 0).vres[0]? = some v ∧ v.answerErr ⟨[], [], some (.hcpl true 0), 0, false⟩ = some (fHcpl, 0x1000000000003000) ∧ v.kind ≠ .lds ∧ v.id ∉ v.after ∧ (match v.todo with
      | some (.load _) => true
      | _ => false) = true
    ∧ (base.seat 0 0).vres[0]? = none
    ∧ ran (.pcieCompletionTimeout 0 0 0) s (fun t => (t.seat 0 0).vres = [] && (t.seat 0 0).pend.any fun y => y.code = fHcpl) = true
    ∧ ((hosted .unlocked).func 0).tdisp = .unlocked ∧ ((hosted .locked).func 0).tdisp = .locked ∧ ((hosted .run).func 0).tdisp ≠ .locked
    ∧ (∀ p ∈ (hosted .run).dies, p.2.insts = [])
    ∧ ((hosted .run).modPkg fun p => { p with keys := [] }).pkg.keys = []
    ∧ ran (.stopInterface 0) ((hosted .run).modPkg fun p => { p with keys := [] }) (fun t => (t.func 0).tdisp = .unlocked) = true
    ∧ ran (.lockInterface 0) (hosted .unlocked) (fun t => (t.func 0).tdisp = .locked) = true
    ∧ ran (.startInterface 0) (hosted .locked) (fun t => (t.func 0).tdisp = .run) = true
    ∧ ((base.modPkg fun p => { p with safe := true }).pkg.safe = true ∧ (1 : FuncId) ≠ 0)
    ∧ base.pkg.supply = false ∧ (base.modPkg fun p => { p with supply := true }).pkg.supply = true
    ∧ ran .supplyLossWarning base (fun t => t.pkg.supply && (t.pkg.mbox.val 0 0) = 0x40) = true := by decide +kernel

/-- Boots that end ready with core 1 of die 0 excluded, fail at stage 4, name a stage that their code is not of, and a version below the
minimum. -/
theorem witness_HostEvents_boot : let all : Word := 0xFFFFFFFFFFFFFFFF
    let b : BootIn := ⟨6, 0, 3, 0xFFFFFFFFFFFFFFFD, all, all, all, 0, 0, 0, 8, 17, 0x0201, 0, 0, 0⟩
    b.code.toNat ≤ 7 ∧ b.stage.toNat = 6 ∧ base.pkg.minver ≤ b.cfgver.toNat ∧ Memory.wf base.mem = true
    ∧ ran (.powerOnReset b) base (fun t => (t.core 1).mstate = .out && (t.core 0).mstate = .normal && t.mem = [] && t.pkg.devnum = 17
        && t.pkg.mbox.val 0 0 = 0x300000026 && (t.die 0).vtrim.val 0 1 = 2) = true
    ∧ ran (.powerOnReset { b with code := 4, stage := 4 }) base (fun t => t.pkg.safe) = true
    ∧ ran (.powerOnReset { b with code := 4 }) base (fun t => t.pkg.devnum = base.pkg.devnum && t.mem = base.mem) = true
    ∧ ran (.powerOnReset b) (base.modPkg fun p => { p with minver := 4 }) (fun t => t.mem = base.mem) = true := by decide +kernel

/-- Queue 0 of function 0, its ring at VA 0x400, with three cells valid. -/
def pq0 : PorterQ := { PorterQ.reset with base := 0x8000000000000400, lsz := 4, en := true, tail := 3, nextId := 5 }
def ported (r : PorterQ) (b : List Byte) : State :=
  let s := (placed base 0x5400 b).modFunc 0 fun f => { f with
    pqs := [(0, r)], vec := [(0, .reset), (1, { VecSt.reset with masked := false })], grants := f.grants ++ [⟨.resident, 1, 1⟩] }
  s.modPkg fun p => { p with res := [(1, ⟨0, 1, 0x100, 1, 1, 0⟩)] }

/-- Bytes of a packet of n cells by its fields. -/
def packet (n : Nat) (l : List (Nat × Nat × Nat)) : List Byte :=
  l.foldl (fun b (p : Nat × Nat × Nat) => setBytes b p.1 (leBytes p.2.1 p.2.2)) (List.replicate (64 * n) 0)

/-- The next packet of queue 0 is of a kind, and the porter may start it with no packet before it. -/
def startable (r : PorterQ) (b : List Byte) (kind : Nat) : Bool :=
  let s := ported r b
  s.porterRuns 0 r && r.earlier.isEmpty && match (s.fetchPkt [] 0 r).2 with
    | .got c _ => c == b.take c.length && gotKind c (s.func 0).vec = kind
    | _ => false

/-- A packet done with a status and a result. -/
def finished (t : State) (status result : Nat) : Bool :=
  (t.pq 0 0).any fun r => r.pkts.any fun p => p.id = 5 && p.done && p.status = status && p.result = BitVec.ofNat 64 result

def pkNop := packet 1 [(2, 1, 1), (1, 1, 1)]
def pkBad := packet 1 [(0, 1, 77)]
def pkWait := packet 1 [(0, 1, 3), (2, 1, 1), (16, 8, 0x8000000000000100), (24, 8, 0xFF), (32, 8, 0xEF), (44, 4, 2)]
def pkFence := packet 1 [(0, 1, 9), (2, 1, 1), (16, 1, 4)]
def pkSignal (a add : Nat) := packet 1 [(0, 1, 4), (2, 1, 1), (16, 8, a), (24, 8, 9), (32, 1, add)]
def pkStamp := packet 1 [(0, 1, 7), (2, 1, 1), (16, 8, 0x8000000000000200)]
def pkIntr (n : Nat) := packet 1 [(0, 1, 8), (2, 1, 1), (16, 2, n)]
def pkLaunch := packet 3 [(0, 1, 1), (2, 1, 3), (64, 8, 0x100)]
def pkLres (n : Nat) := packet 3 [(0, 1, 2), (2, 1, 3), (16, 2, n)]
def pkRearm (n : Nat) := packet 1 [(0, 1, 6), (2, 1, 1), (16, 8, 0x8000000000000440), (24, 2, 1), (26, 2, 2), (28, 1, n),
  (32, 8, 0x8000000000000100), (40, 8, 0xFF), (48, 8, 0xEF)]
def pkResume := packet 1 [(0, 1, 10), (2, 1, 1), (16, 4, 5), (24, 8, 0x55)]
def pkPred (n : Nat) := packet 3 [(0, 1, 5), (2, 1, 1), (16, 8, 0x8000000000000100), (24, 8, 0xFF), (32, 8, 0xEF), (40, 1, n), (41, 1, 1),
  (42, 1, 1), (66, 1, 1), (130, 1, 1), (132, 4, 7)]

theorem witness_PacketStartEvents : startable pq0 pkNop 0 = true ∧ startable pq0 pkBad 11 = true ∧ startable pq0 pkWait 3 = true
    ∧ startable pq0 pkFence 9 = true ∧ startable pq0 (pkSignal 0x8000000000000100 0) 4 = true ∧ startable pq0 (pkSignal 0x8000000000000100 1) 4 = true
    ∧ startable pq0 (pkSignal 0x8000000000001000 0) 4 = true ∧ startable pq0 pkStamp 7 = true ∧ startable pq0 (pkIntr 0) 8 = true
    ∧ startable pq0 (pkIntr 1) 8 = true ∧ startable pq0 pkLaunch 1 = true ∧ startable pq0 (pkLres 1) 2 = true ∧ startable pq0 (pkLres 2) 2 = true
    ∧ startable pq0 (pkRearm 0) 6 = true ∧ startable pq0 (pkRearm 1) 6 = true ∧ startable pq0 pkResume 10 = true ∧ startable pq0 (pkPred 0) 5 = true
    ∧ (ported pq0 (pkLres 2)).resDesc 0 (pkLres 2) = none ∧ (ported pq0 (pkLres 1)).resDesc 0 (pkLres 1) = some 0x100
    ∧ 1 + pkNt (pkPred 0) + pkNf (pkPred 0) ≤ pq0.ready := by decide +kernel

theorem test_packets : ran (.porterNop 0 (0, [])) (ported pq0 pkNop) (fun t => finished t 0 0 && (t.pq 0 0).any fun r => r.head = 1) = true
    ∧ ran (.malformedPacket 0 (0, [])) (ported pq0 pkBad) (fun t => finished t 1 0) = true
    ∧ ran (.signal 0 (0, [])) (ported pq0 (pkSignal 0x8000000000000100 0)) (fun t => finished t 0 0 && leNat (t.rdBytes 0 0x5100 8) = 9) = true
    ∧ ran (.signal 0 (0, [])) (ported pq0 (pkSignal 0x8000000000000100 1)) (fun t => finished t 0 0x0123456789ABCDEF
        && leNat (t.rdBytes 0 0x5100 8) = 0x0123456789ABCDF8) = true
    ∧ ran (.signal 0 (0, [])) (ported pq0 (pkSignal 0x8000000000001000 0)) (fun t => finished t 4 fPage.toNat) = true
    ∧ ran (.tstamp 0 (0, [])) { ported pq0 pkStamp with cyc := 800 } (fun t => finished t 0 0 && leNat (t.rdBytes 0 0x5200 8) = 1000
        && leNat (t.rdBytes 0 0x5208 8) = 800) = true
    ∧ ran (.intr 0 (0, [])) (ported pq0 (pkIntr 0)) (fun t => finished t 0 0 && (t.func 0).vec.any fun v => v.2.pend = 1) = true
    ∧ ran (.intr 0 (0, [])) (ported pq0 (pkIntr 1)) (fun t => finished t 0 0 && t.out = [.msix 0 1]) = true := by decide +kernel

theorem test_packets_more : ran (.porterLaunch 0 (0, [])) (ported pq0 pkLaunch) (fun t => (t.die 1).lreq.any fun a => a.asker = .porter 0 0 5 && !a.priv) = true
    ∧ ran (.launchRes 0 (0, [])) (ported pq0 (pkLres 1)) (fun t => (t.die 1).lreq.any fun a => a.record.any fun b => lrDesc b = 0x100) = true
    ∧ ran (.launchRes 0 (0, [])) (ported pq0 (pkLres 2)) (fun t => finished t 5 0) = true
    ∧ ran (.rearm 0 (0, [])) (ported pq0 (pkRearm 1)) (fun t => finished t 0 0) = true
    ∧ ran (.rearm 0 (0, [])) (ported pq0 (pkRearm 0 ++ packet 1 [(2, 1, 1)])) (fun t => (t.pq 0 0).any fun r => r.rearm = some ⟨5, 0, packet 1 [(2, 1, 1)]⟩) = true
    ∧ ran (.resume 0 (0, [])) (ported pq0 pkResume) (fun t => finished t 6 0) = true
    ∧ ran (.pred 0 (0, [])) (ported pq0 (pkPred 0)) (fun t => finished t 0 1 && (t.pq 0 0).any fun r => r.head = 3 && r.arm = packet 1 [(2, 1, 1)]) = true
    ∧ ran (.pred 0 (0, [])) (ported pq0 (pkPred 1)) (fun t => finished t 0 0 && (t.pq 0 0).any fun r => r.arm = packet 1 [(2, 1, 1), (4, 4, 7)]) = true := by
  decide +kernel

/-- RESUME of the strand that stands in seat 0, whose entry in H0 is FAULTED at step 3. -/
theorem test_resume : let s := (ported pq0 pkResume).modDie 0 fun d => { d with insts := [(5, { inst0 with seats := [(0, (0, 0))] })] }
    let s := s.modCore 0 fun x => { x with h0 := [(1, { ent0 with st := .faulted, stepc := 3 })] }
    (s.resumeOn 0 5 0 0 0x55).isSome = true
    ∧ ran (.resume 0 (0, [])) s (fun t => finished t 0 3 && ((t.core 0).h0.find 1).any fun f => f.stamp = 0x55) = true := by decide +kernel

/-- A packet started: a WAITMEM, the same done, with a record to write, and a REARM with an iteration over. -/
def pkt (b : List Byte) (done : Bool) : Pkt := ⟨5, b, done, 3, 0x99, 0, none, false⟩
def started (b : List Byte) (done : Bool) (g : Option RearmSt) : State := ported { pq0 with pkts := [pkt b done], rearm := g } b
def pkNever := setBytes pkWait 32 [0]
def pkDone := packet 1 [(1, 1, 2), (2, 1, 1), (4, 4, 0x77), (8, 8, 0x8000000000000200)]

theorem witness_PorterEvents_queues : ran (.porterDoorbell 0 0 16) (ported pq0 []) (fun t => (t.pq 0 0).any fun r => r.tail = 16 && r.en) = true
    ∧ ran (.porterDoorbell 0 0 17) (ported pq0 []) (fun t => (t.pq 0 0).any fun r => r.err && !r.en) = true
    ∧ (16 - pq0.head).toNat ≤ 2 ^ pq0.lsz ∧ 2 ^ pq0.lsz < (17 - pq0.head).toNat
    ∧ ran (.queueEnable 0 0) (ported { pq0 with err := true } []) (fun t => (t.pq 0 0).any fun r => r.head = 3 && !r.err) = true
    ∧ pkType pkWait = 3 ∧ field pkWait 44 4 = 2
    ∧ ran (.waitmemSatisfied 0 0 (0, [])) (started pkWait false none) (fun t => finished t 0 0x0123456789ABCDEF) = true
    ∧ ran (.waitmemSatisfied 0 0 (0, [])) (started pkNever false none) (fun t => !finished t 0 0x0123456789ABCDEF) = true
    ∧ ran (.waitmemTimeout 0 0 (0, [])) { started pkNever false none with cyc := 1600 } (fun t => finished t 3 0x0123456789ABCDEF) = true
    ∧ ran (.waitmemTimeout 0 0 (0, [])) { started pkNever false none with cyc := 1599 } (fun t => !finished t 3 0x0123456789ABCDEF) = true := by decide +kernel

theorem witness_PorterEvents_rearm :
    ran (.rearmIteration 0 (0, [])) (started (pkRearm 1) false (some ⟨5, 3, []⟩)) (fun t => finished t 0 4 && (t.pq 0 0).any fun r => r.rearm = none) = true
    ∧ ran (.rearmIteration 0 (0, [])) (placed (started (pkRearm 0) false (some ⟨5, 0, []⟩)) 0x5440 (packet 1 [(2, 1, 1)])) (fun t =>
        (t.pq 0 0).any fun r => r.rearm = some ⟨5, 1, packet 1 [(2, 1, 1)]⟩) = true
    ∧ 0 + 1 < field (pkRearm 0) 26 2 ∧ graphOk ((ported pq0 []).func 0).vec (packet 1 [(2, 1, 1)]) = true
    ∧ (pkt pkDone true).done = true ∧ pkCpl pkDone = true ∧ pkCpl pkWait = false ∧ paMul (field pkDone 8 8) 16 = true
    ∧ ran (.packetComplete 0 0 (0, [])) (started pkWait true none) (fun t => (t.pq 0 0).any fun r => r.pkts = []) = true
    ∧ ran (.packetComplete 0 0 (0, [])) (started pkDone true none) (fun t => leNat (t.rdBytes 0 0x5200 8) = 0x0000000300000077
        && leNat (t.rdBytes 0 0x5208 8) = 0x99) = true := by decide +kernel

theorem witness_PorterEvents_vectors : let s := ported pq0 []
    let at' (v : VecSt) (c : Nat) : State := { (s.modFunc 0 fun f => { f with vec := [(0, v)] }) with cyc := c }
    let v : VecSt := { VecSt.reset with ccnt := 9, ctime := 2, pend := 1, since := 0, masked := false }
    s.locked 0 = false ∧ (s.func 0).vec.find 0 = some .reset ∧ VecSt.reset.masked = true ∧ v.pend ≠ 0 ∧ v.ctime ≠ 0
    ∧ ran (.intrTimeout 0 0) (at' v 1600) (fun t => t.out = [.msix 0 0]) = true ∧ ran (.intrTimeout 0 0) (at' v 1599) (fun t => t.out = []) = true
    ∧ ran (.msixUnmask 0 0) (at' { v with pend := 0, masked := true } 0) (fun t => t.out = [] && (t.func 0).vec.all fun p => !p.2.masked) = true
    ∧ ran (.msixUnmask 0 0) (at' { v with pend := 9, masked := true } 0) (fun t => t.out = [.msix 0 0]) = true := by decide +kernel

/-- A sending end of port 0 that is up, with one packet of two flits in class 1 and some credit, and a receiving end. -/
def lk : LinkId := ⟨0, 0, 0, false⟩
def lr : LinkId := ⟨0, 0, 0, true⟩
def hd1 : BitVec 512 := mkHeader 3 1 false 64 0 1 0 0x100
def sendingEmpty (credit : Nat) : State := base.setLink lk { LinkSt.reset with up := true, partner := 1, cred := [(2, credit)] }
def sending (sent credit : Nat) : State := base.setLink lk { LinkSt.reset with
  up := true, partner := 1, cred := [(2, credit)], tx := [⟨1, false, [(hd1, false), (4, true)], sent⟩] }
def receiving (y : Ctx) (retry : Nat) : State := { base with cyc := 4000 }.setLink lr { LinkSt.reset with up := true, rx := [(1, y)], retry := retry }
def opened1 : Ctx := ⟨true, [(3, false)], 0⟩

theorem witness_LinkEvents_send : (lk.port.toNat < 64 ∧ (0 : Bits9) = base.pkg.devnum) ∧ (1 : Bits9) ≠ base.pkg.devnum
    ∧ ran (.linkTrain lk 0) base (fun t => !(t.link lk).up && t.pkg.hslog = [(fLink, 0)]) = true
    ∧ ran (.linkTrain lk 1) base (fun t => (t.link lk).up && (t.link lk).cred.val 0 7 = 130) = true
    ∧ LinkId.real lk = true ∧ LinkId.real ⟨80, 0, 0, false⟩ = false ∧ base.linkFenced lk = false ∧ base.pkg.hop = none
    ∧ (let p := base.modDie 0 fun d => { d with fenced := true }
       p.linkFenced ⟨64, 0, 0, false⟩ = true)
    ∧ (base.link lk).up = false ∧ ((sending 0 2).link lk).up = true ∧ (((sending 0 2).link lk).join [] []).pick = some 0
    ∧ (((sending 0 1).link lk).join [] []).pick = none
    ∧ ran (.flitSlot lk [] []) (sending 0 2) (fun t => t.out = [.flit lk 1 true false false hd1] && (t.link lk).cred.val 0 2 = 0 && (t.link lk).n = 1) = true
    ∧ ran (.flitSlot lk [] []) (sending 1 0) (fun t => t.out = [.flit lk 1 false true true 4] && (t.link lk).tx = []) = true
    ∧ ran (.flitSlot lk [] [(1, false, 1)]) (sending 0 1) (fun t => t.out.length = 1) = true
    ∧ ran (.flitSlot lk [⟨1, false, [(hd1, false), (4, true)]⟩] []) (sendingEmpty 2) (fun t => t.out.length = 1 && (t.link lk).tx.length = 1) = true
    ∧ ran (.flitSlot lk [⟨1, false, [(hd1, false)]⟩, ⟨2, false, [(hd1, false), (4, true)]⟩] []) (sendingEmpty 2) (fun t => t.out = []) = true
    ∧ ran (.flitSlot lk [] []) (sending 0 1) (fun t => t.out = [] && (t.link lk).starve.val 0 1 = 1) = true
    ∧ ran (.linkDown lk) (sending 1 0) (fun t => !(t.link lk).up && t.pkg.hslog.any fun p => p.1 = fHalf) = true := by decide +kernel

theorem witness_LinkEvents_receive : let f : Flit := ⟨1, true, true, false, true, 9⟩
    ((receiving .idle 0).link lr).up = true ∧ (((receiving opened1 0).link lr).ctx 1).opened = true ∧ 4 * 4096 ≤ 5 * (4000 - 0)
    ∧ ran (.flitReceive lr f) (receiving .idle 0) (fun t => t.out = [.packet lr 1 [(9, false)]]) = true
    ∧ ran (.flitReceive lr { f with eop := false }) (receiving opened1 0) (fun t => ((t.link lr).ctx 1) = ⟨true, [(9, false)], 4000⟩
        && t.pkg.hslog.any fun p => p.1 = fHalf) = true
    ∧ ran (.flitReceive lr { f with sop := false }) (receiving opened1 0) (fun t => t.out = [.packet lr 1 [(3, false), (9, false)]]) = true
    ∧ ran (.flitReceive lr { f with sop := false, eop := false }) (receiving opened1 0) (fun t => ((t.link lr).ctx 1).flits.length = 2) = true
    ∧ ran (.flitReceive lr { f with sop := false }) (receiving .idle 0) (fun t => t.pkg.hslog.any fun p => p.1 = fHalf) = true
    ∧ ran (.flitReceive lr { f with ok := false }) (receiving .idle 7) (fun t => (t.link lr).retry = 8 && (t.link lr).up) = true
    ∧ ran (.flitReceive lr { f with ok := false }) (receiving .idle 8) (fun t => !(t.link lr).up) = true
    ∧ LinkId.mesh lr = false ∧ hdType (mkHeader 10 0 false 0 5 0 0 0) = 10 ∧ hdSdev (mkHeader 10 0 false 0 5 0 0 0) = 5
    ∧ ran (.flitReceive lr ⟨0, true, true, false, true, mkHeader 10 0 false 0 5 0 0 0⟩) ((receiving .idle 0).modPkg fun p => { p with cred := [(5, 2)] })
        (fun t => t.pkg.cred.val 0 5 = 1) = true
    ∧ (let mesh : LinkId := ⟨256, 0, 0, true⟩
       LinkId.mesh mesh = true ∧ ran (.flitReceive mesh { f with ok := false }) (base.setLink mesh { LinkSt.reset with up := true })
        (fun t => t.out = [.packet mesh 1 [(9, true)]] && (t.link mesh).retry = 0) = true)
    ∧ ran (.reassemblyTimeout lr 1) (receiving opened1 0) (fun t => !((t.link lr).ctx 1).opened && t.pkg.hslog.any fun p => p.1 = fHalf) = true
    ∧ ran (.reassemblyTimeout lr 1) { receiving opened1 0 with cyc := 3276 } (fun t => ((t.link lr).ctx 1).opened) = true := by decide +kernel

theorem witness_LinkEvents_settings : let s (n : Nat) : State := base.setLink lk { LinkSt.reset with starve := [(2, n)] }
    16 * 2 ^ bits (base.link lk).susp 11 8 = 512 ∧ suspOk 0x543 = true ∧ suspOk 0x541 = false
    ∧ ran (.starvation lk 2) (s 512) (fun t => (t.link lk).starve.val 0 2 = 0 && t.pkg.hslog.any fun p => p.1 = fStarve) = true
    ∧ ran (.starvation lk 2) (s 511) (fun t => (t.link lk).starve.val 0 2 = 511) = true
    ∧ ran (.suspensionWrite lk 0xFFFFFFFFFFFFF543) base (fun t => (t.link lk).susp = 0x543) = true := by decide +kernel

/-- A load from device 1 outstanding (VA 16384). -/
def away : Vres := { res0 with addr := 16384, loc := [(2 ^ 65 + 0x100, 8)] }
def owing : State := { (seated fun q => { q with vres := [away] }) with cyc := 80000 }.setLink lk { LinkSt.reset with partner := 1 }

theorem witness_FabricEvents_fail : (owing.seat 0 0).vres[0]? = some away ∧ away.ck + 800 * owing.pkg.etmo ≤ owing.cyc ∧ away.owed = true
    ∧ away.kind.isMem = true ∧ away.kind ≠ .lds ∧ away.after = [] ∧ (∀ x ∈ owing.cores, x.2.seat.all fun p => p.2.vres.all fun v => v.after = []) ∧ away.todo.isNone = true ∧ away.owedBy = [1] ∧ (owing.link lk).up = false ∧ ((sending 0 0).link lk).up = true
    ∧ ran (.transactionTimeout 0 0 0) owing (fun t => (t.seat 0 0).vres = [] && (t.seat 0 0).pend.any fun a => a.code = fLink) = true
    ∧ ran (.transactionTimeout 0 0 0) { owing with cyc := 79999 } (fun t => (t.seat 0 0).vres = [away]) = true
    ∧ ran (.routeRecompute lk) owing (fun t => (t.seat 0 0).vres = [] && (t.seat 0 0).pend.any fun a => a.tval = 16384) = true := by decide +kernel

/-- A push to device 1 that awaits its acknowledgement: its result is 2^63 + 5 when none comes in time (R422). -/
theorem witness_FabricEvents_unacked : let v : Vres := { res0 with kind := .qpush, key := 1 }
    let s := { (seated fun q => { q with vres := [v] }) with cyc := 80000 }
    (s.seat 0 0).vres[0]? = some v ∧ v.ck + 800 * s.pkg.etmo ≤ s.cyc ∧ v.owed = true ∧ v.todo.isNone = true ∧ v.dest = .s 8
    ∧ ran (.transactionTimeout 0 0 0) s (fun t => (t.seat 0 0).vres = [] && (t.seat 0 0).sr.val 0 8 = 0x8000000000000005) = true := by decide +kernel

/-- Device 2 may reach the first GiB, function 0's; queue 3 takes pushes of its function 4. -/
def importing : State := ((ringed false).modPkg fun p => { p with imports := [(0, ⟨2, 0, 0⟩)] }).modDie 0 fun d => { d with
  queues := d.queues.mapV fun q => { q with pushDev := [(2, 4)] } }

theorem witness_FabricEvents_access : importing.imported 2 0x5100 8 = some 0 ∧ importing.imported 3 0x5100 8 = none
    ∧ (granules 0x5100 8).any importing.isPois = false
    ∧ ran (.fabricAccess (3, 1) 0x5100 (.read 8) [] []) importing (fun t => t.out = [.fabricData 3 [] false [] 1]) = true
    ∧ ran (.fabricAccess (2, 1) 0x5100 (.read 2) [] []) importing (fun t => t.out = [.fabricData 2 [0xEF, 0xCD] true [] 1]) = true
    ∧ ran (.fabricAccess (2, 1) 0x5100 .write [1, 2] [0]) importing (fun t => t.rdB 0 0x5101 = 2 && t.pois = [322, 324]) = true
    ∧ ran (.fabricAccess (2, 1) 0x5100 (.atomic .add true 1) [] []) importing (fun t => leNat (t.rdBytes 0 0x5100 8) = 0x0123456789ABCDF0) = true
    ∧ ran (.fabricAccess (2, 1) 0x5100 (.cas true 1 2) [] []) importing (fun t => leNat (t.rdBytes 0 0x5100 8) = 0x0123456789ABCDEF) = true := by decide +kernel

theorem witness_FabricEvents_push : importing.queue? 0 5 = none ∧ (importing.queue? 0 3).isSome = true
    ∧ (importing.queue? 0 3).all (fun u => (2, 4) ∈ u.pushDev ∧ (2, 5) ∉ u.pushDev ∧ (8 + 1016 + 63) / 64 ≤ 2 ^ u.lrsz
        ∧ 2 ^ u.lrsz < (8 + 1017 + 63) / 64) = true
    ∧ ran (.remotePushArrival 0 (2, 1) 4 5 true 7 ([1], [])) importing (fun t => t.out = [.creditReturn 2, .queueAck 2 7 0x8000000000000001 1]
        && (t.die 0).qdrop = 1) = true
    ∧ ran (.remotePushArrival 0 (2, 1) 5 3 true 7 ([1], [])) importing (fun t => t.out = [.creditReturn 2, .queueAck 2 7 0x8000000000000002 1]) = true
    ∧ ran (.remotePushArrival 0 (2, 1) 4 3 false 7 ((List.replicate 1017 0), [])) importing (fun t => t.out = [.creditReturn 2]) = true
    ∧ ran (.remotePushArrival 0 (2, 1) 4 3 true 7 ([1], [])) importing (fun t => t.out = [] && (t.die 0).qreq.length = 1) = true := by decide +kernel

/-- A collective of one participant: a sum of 16 elements of 32 bits from VA 256 to VA 512, joined and not performed, or done. -/
def collDesc : List Byte := [(1, 1, 14), (16, 8, 256), (24, 8, 512), (32, 8, 16), (40, 4, 2), (64, 1, 1)].foldl
  (fun b (p : Nat × Nat × Nat) => setBytes b p.1 (leBytes p.2.1 p.2.2)) (List.replicate 256 0)
def collSrc : List Byte := leBytes 8 0x0123456789ABCDEF ++ List.replicate 56 0
def joiner0 : Joiner := ⟨0, 0, 4, 0, 0, 0, collDesc, 0, 0, 0, false, 0, collSrc⟩
def coll (c : Nat) (d : List Byte) (done : Bool) : State :=
  ({ (seated fun q => { q with vres := [{ res0 with kind := .coll, key := 4, remote := false }] }) with cyc := c }).modPkg fun p => { p with
    colls := [⟨0, 9, 0, [{ joiner0 with desc := d }], none, done, []⟩] }

theorem witness_FabricEvents_coll : (cdTy collDesc).isSome = true ∧ cdParts collDesc 0 0 = 1
    ∧ ((coll 0 collDesc false).sources 1 [joiner0] [] 1).isSome = true
    ∧ ((coll 0 collDesc false).bufFault 1 [joiner0]).isNone = true ∧ (coll 0 collDesc false).nearBytes (segs ((coll 0 collDesc false).span
        ((coll 0 collDesc false).whoJoin joiner0) .read 256 64)) = (collSrc.map fun b => (b, false))
    ∧ ((coll 0 collDesc true).pkg.colls.find? fun x => x.is 0 9 0 && x.dead.isNone).map CollSt.done = some true
    ∧ base.pkg.colls = [] ∧ cdTmo collDesc = 2
    ∧ (let d := setBytes collDesc 64 [3]
       (coll 1600 d false).pkg.colls.map (fun x => (x.joined.length, cdParts d 0 0)) = [(1, 2)]
       ∧ ran (.collTimeout 0 9 0) (coll 1600 d false) (fun t => (t.seat 0 0).vres.all fun v => v.ready && v.data = 0x8000000000000003) = true
       ∧ ran (.collTimeout 0 9 0) (coll 1599 d false) (fun t => (t.seat 0 0).vres.all fun v => !v.ready) = true)
    ∧ ran (.collComplete 0 9 0 0 []) (coll 0 collDesc true) (fun t => (t.seat 0 0).vres.all fun v => v.ready && v.data = 0) = true
    ∧ ran (.collComplete 0 9 0 0 []) (coll 0 collDesc false) (fun t => leNat (t.rdBytes 0 0x5200 8) = 0x0123456789ABCDEF) = true := by decide +kernel

/-- Its source does not translate (R426). -/
def collBad : List Byte := setBytes collDesc 16 (leBytes 8 4096)

theorem witness_FabricEvents_faults : ((coll 0 collBad false).bufFault (cdParts collBad 0 0) [{ joiner0 with desc := collBad }]).isSome = true
    ∧ ran (.collComplete 0 9 0 0 []) (coll 0 collBad false) (fun t => (t.seat 0 0).vres.all fun v =>
        v.ready && v.data = 0x8000000000000004) = true
    ∧ ran (.collComplete 0 9 0 0 [⟨1, [], [], 0, some 2⟩]) (coll 0 collDesc false) (fun t => (t.seat 0 0).vres.all fun v =>
        v.ready && v.data = 0x8000000000000002) = true := by decide +kernel

/-- One whose destination lies in part on another device, which has not said that it wrote it (R301). -/
theorem witness_FabricEvents_acks : let s := (coll 0 collDesc true).modPkg fun p => { p with colls := p.colls.map fun x => { x with acks := [0] } }
    (s.pkg.colls.find? fun x => x.is 0 9 0 && x.dead.isNone).map CollSt.acks = some [0]
    ∧ ran (.collComplete 0 9 0 0 []) s (fun t => (t.seat 0 0).vres.all fun v => !v.ready) = true
    ∧ ran (.collComplete 0 9 0 0 [⟨0, [], [], 0, none⟩]) s (fun t => (t.seat 0 0).vres.all fun v => v.ready && v.data = 0) = true := by decide +kernel

theorem witness_FabricEvents_registers : let s := ported { pq0 with en := false } []
    mwinOk 0x510010010 = false ∧ mwinOk 0x501010010 = true ∧ bits (0 : Word) 9 0 ≤ (base.core 0).raf.toNat
    ∧ (s.pq 0 0).map PorterQ.en = some false ∧ ((ported pq0 []).pq 0 0).map PorterQ.en = some true ∧ s.locked 0 = false
    ∧ (0x8000000000000400 : Word).toNat % 64 = 0 ∧ paOk (0x8000000000000400 : Word).toNat = true
    ∧ ((base.modFunc 0 fun f => { f with mreq := List.replicate 64 0 }).func 0).mreq.length = 64
    ∧ ran (.registerWrite (.mwin 0) 0xFFFFFFFF01FFFFF0) base (fun t => (t.core 0).mwin = 0x701FFFF10) = true
    ∧ ran (.registerWrite (.mwin 0) 0x501010010) (base.modCore 0 fun x => { x with overs := 3 }) (fun t => (t.core 0).overs = 1) = true
    ∧ ran (.registerWrite (.withdraw 0) 1) (base.modSeat 0 0 fun _ => SeatSt.reset) (fun t => (t.core 0).withdrawn) = true
    ∧ ran (.registerWrite (.withdraw 0) 0) (base.modCore 0 fun x => { x with withdrawn := true }) (fun t => !(t.core 0).withdrawn) = true
    ∧ ran (.registerWrite (.vecAddr 0 0) 0x77) s (fun t => ((t.func 0).vec.find 0).any fun v => v.addr = 0x77) = true
    ∧ ran (.registerWrite (.vecData 0 0) 0x77) s (fun t => ((t.func 0).vec.find 0).any fun v => v.data = 0x77) = true
    ∧ ran (.registerWrite (.qLsz 0 0) 0x104) (ported { pq0 with err := true } []) (fun t => (t.pq 0 0).any fun r => r.head = 3 && !r.err) = true
    ∧ ran (.registerWrite .etmo 10) base (fun t => t.pkg.etmo = 10) = true ∧ ran (.registerWrite .etmo 10001) base (fun t => t.pkg.etmo = 100) = true
    ∧ ran (.registerWrite (.wgrant 0 1) 0xFFFFFFFFFFFFFFFF) base (fun t => (t.core 0).wgrant.val 0 1 = 0x0001FFFF0001FFFF) = true
    ∧ ran (.registerWrite (.fwinBase 3) 0x200000000000) base (fun t => (t.pkg.fwin.find 3).any fun w => w.base = 0x200000000000) = true
    ∧ ran (.registerWrite (.qLsz 0 0) 0x10C) s (fun t => (t.pq 0 0).any fun r => r.lsz = 12 && r.en && r.head = 3) = true
    ∧ ran (.registerWrite (.qBase 0 0) 0x8000000000000800) s (fun t => (t.pq 0 0).any fun r => r.base = 0x8000000000000800) = true
    ∧ ran (.registerWrite (.mailReq 0 7) 0x55) (base.modFunc 0 fun f => { f with mreq := List.replicate 64 0 }) (fun t => field (t.func 0).mreq 56 8 = 0x55) = true := by decide +kernel

/-! ### The machine as a whole -/

/-- Cores and registers at the edges of their ranges: row 127 wraps round the rotating part, and p11 does (R3, R23). -/
theorem witness_NumbersNameParts : let q := { SeatSt.reset with vrb := 63, prb := 7 }
    coreX (mkCore 3 7 7) = 7 ∧ coreY (mkCore 3 7 7) = 7 ∧ coreDie (mkCore 3 7 7) = 3 ∧ clusterOf 7 7 = 7 ∧ clusterOf 3 7 = 6
    ∧ q.winRow 63 = 63 ∧ q.winRow 64 = 127 ∧ q.winRow 65 = 64 ∧ q.winRow 127 = 126
    ∧ q.predIx 3 = 3 ∧ q.predIx 4 = 11 ∧ q.predIx 5 = 4 ∧ q.predIx 11 = 10 := by decide +kernel

/-- A result with bound 1 before and at its issue cycle, and one for s0 (R17, R54). -/
theorem witness_ResultsLand : let x := base.core 0
    let q := x.seatAt 0
    let z (w : Write) (now : Nat) := (x.setSeat 0 (q.fly1 1 x.ic 1 w)).landDue 0 now
    q.fly = [] ∧ (8 : SReg) ≠ 0 ∧ (3 : PReg) ≠ 0
    ∧ ((z (.s 8 5 true) (x.ic + 1)).seatAt 0).sr.val 0 8 = 5 ∧ ((z (.s 8 5 true) (x.ic + 1)).seatAt 0).sTag.getLsbD 8 = true
    ∧ ((z (.s 3 5 true) x.ic).seatAt 0).sr.val 0 3 = 7
    ∧ ((z (.a 1 5 false) (x.ic + 1)).seatAt 0).ar.val 0 1 = 5 ∧ ((z (.m 1 5) (x.ic + 1)).seatAt 0).mr.val 0 1 = 5
    ∧ ((z (.p 3 5) (x.ic + 1)).seatAt 0).pr.val 0 3 = 5 ∧ ((z (.pq 2 .zero) (x.ic + 1)).seatAt 0).pq.val .zero 2 = .zero
    ∧ ((z (.row 1 0xFF 0xAA 1 1) (x.ic + 1)).row 1) =
        ⟨(x.row 1).d &&& ~~~ 0xFF ||| 0xAA, (x.row 1).t &&& ~~~ 1 ||| 1⟩
    ∧ q.fly1 1 x.ic 1 (.s 0 5 true) = q ∧ q.fly1 1 x.ic 1 (.p 0 5) = q := by decide +kernel

/-- Attempts that trap, that wait, and that take effect, at user level and with a cause in syllable 0 (R36, R154). -/
theorem witness_TrapsArePrecise : base.cur = some (0, 0) ∧ (encode (.chkS 5)).isSome = true ∧ base.sure = false
    ∧ ((after (.chkS 5) base).seat 0 0).pc = 0 ∧ (after (.swait 5 1) base).last = .held ∧ (after (.add 8 1 1) base).last = .issued
    ∧ (after (.trap 5) base).last ≠ .idle ∧ e0.q.act = false ∧ e0.q.fly = [] ∧ eU.q.act = false ∧ eU.q.fly = []
    ∧ (let z := (user.takePrecise 0 0 ⟨60, 1, fPoison, 0x105, none⟩).seat 0 0
      z.epc = 0 ∧ z.tcause = 0x02100106 ∧ z.tval = 0x105 ∧ z.plv = true ∧ z.tpsn = 0x2000000020 ∧ z.sTag = 0 ∧ z.aTag = 0) := by
  decide +kernel

/-- The bundle of ADDI s8, s0, 5 with NOPs, placed where the next step fetches (R30, R38, R81). -/
def addiWord : Nat := match encode (.addi 8 0 5) with
  | some y => bundleOf y |>.toNat
  | none => 0

/-- That machine, and the bundle latched. -/
def placed0 : State := place State.reset addiWord
def latch0 : Latch := ⟨0, 0, false, .addi 8 0 5, .nop, .nop, .nop⟩

/-- What fetching and decoding the next bundle of seat 0 give. -/
def nextBundle (s : State) : Option Decoded :=
  match s.fetch 0 0 with
  | .bundle b _ => some (decodeBundle b)
  | _ => none

/-- Nothing is in the way of the placed bundle's issue (R431). -/
theorem witness_StepRunsTheInstruction_front : let s := placed0
    let p := ({ s with focus := 0, latch := none, last := .idle } : State).modCore 0 CoreSt.phase1
    let x := p.core 0
    let q := x.seatAt 0
    s.agenda = [] ∧ s.focus = 0 ∧ x.stopped = false ∧ p.pkg.supply = false ∧ x.stall = 0 ∧ x.freeze = false ∧ x.swp = false ∧ x.busy = 0
    ∧ x.issuing = some 0 ∧ q.pending p.cyc = false ∧ q.gap < 4096
    ∧ nextBundle p = some (.ok ⟨0, false⟩ (.addi 8 0 5) .nop .nop .nop) := by decide +kernel

/-- The state that a step answers. -/
def stepped (s : State) : State := match step s with
  | .next t => t
  | _ => s

/-- A step from there issues it: pc 32, and s8 holds 5 (R54, R82); from a state with an event on the agenda, that event runs. -/
theorem test_step_runs : (let q := (stepped placed0).seat 0 0; q.pc = 32 ∧ q.sr.val 0 8 = 5 ∧ q.fly = [])
    ∧ (step placed0 matches .next _) = true ∧ (stepped placed0).last = .issued
    ∧ (stepped (stepped { placed0 with agenda := [(0, .supplyLossWarning)] })).pkg.supply = true
    ∧ ((stepped { placed0 with agenda := [(0, .supplyLossWarning)] }).seat 0 0).pc = 0 := by decide +kernel

/-- The machine with a late verdict on the cycle, injected or its own. -/
def late0 (inj : Bool) : State := base.modCore 0 fun x => { x with late := some inj }

theorem witness_StepRunsTheInstruction_bundle : base.cur = some (0, 0) ∧ latch0.order = [.addi 8 0 5]
    ∧ (base.core 0).verdict 0 = none ∧ ((late0 true).core 0).verdict 0 = some true ∧ ((late0 false).core 0).verdict 0 = some false
    ∧ (after (.addi 8 0 5) (late0 true)).last = .issued ∧ (base.seat 0 0).waitMet latch0 = true
    ∧ (∀ i ∈ [latch0.s, latch0.a, latch0.v, latch0.x], (base.seat 0 0).tier1 i = [])
    ∧ (let w := ({ base with latch := none, sure := false } : State).setSeat 0 0 ((base.seat 0 0).header latch0)
      (after (.addi 8 0 5) w).last = .issued ∧ (after (.br 1) w).last = .issued ∧ (after (.swait 5 1) w).last = .held
      ∧ (after .eret w).last = .moved ∧ ((after (.swait 5 1) w).core 0).freeze = false
      ∧ (let f := after (.ld 8 (.off 8 0) 3 false 0) w
        f.last = .held ∧ (f.core 0).freeze = true ∧ (w.core 0).fill = none) ∧ (after (.chkS 5) w).last matches .trapped _ _) := by
  decide +kernel

theorem witness_StepRunsTheInstruction_pc : let q := { SeatSt.reset with lc := 2, ls := 32, le := 64 }
    q.npc = none ∧ q.nextPc 64 true = (1, 32) ∧ q.nextPc 64 false = (2, 96) ∧ q.nextPc 32 true = (2, 64)
    ∧ { q with lc := 1 }.nextPc 64 true = (0, 96) ∧ { q with npc := some 7 }.nextPc 64 true = (2, 7) := by decide +kernel

theorem witness_EncodingRoundTrip : (Instr.bfx 31 1 32 31).wf = true ∧ (encode (.bfx 31 1 32 31)).isSome = true
    ∧ (Instr.mzero .h1 128 255 false 0 0 0 0).wf = true ∧ (encode (.mzero .h1 128 255 false 0 0 0 0)).isSome = true
    ∧ encode (.supplyLossWarning) = none := by decide +kernel

/-- States with the invariant that a step leaves: after reset, and with memory listed. -/
theorem witness_StepKeepsInvariant : State.reset.inv = true ∧ placed0.inv = true ∧ base.inv = true
    ∧ (step placed0 matches .next _) = true ∧ (step State.reset matches .next _) = true := by decide +kernel

end Sys2Proof.Tests
end

section
namespace Sys2Proof.Machine

/-! ### Cores, rows and predicates by their numbers (R3, R23) -/

/-- Bits hi to lo of a word are a quotient and a remainder. -/
theorem bits_eq_div_mod {n : Nat} (w : BitVec n) (hi lo : Nat) : bits w hi lo = w.toNat / 2 ^ lo % 2 ^ (hi + 1 - lo) := by
  rw [bits, Nat.shiftRight_eq_div_pow]

theorem coreX_eq (c : CoreId) : coreX c = c.toNat % 8 := by
  simp [coreX, bits_eq_div_mod]

theorem coreY_eq (c : CoreId) : coreY c = c.toNat / 8 % 8 := bits_eq_div_mod c 5 3

theorem coreDie_toNat (c : CoreId) : (coreDie c).toNat = c.toNat / 64 := by
  have := c.isLt
  rw [coreDie, BitVec.extractLsb'_toNat, Nat.shiftRight_eq_div_pow]
  omega

theorem mkCore_toNat (d : DieId) {x y : Nat} (hx : x < 8) (hy : y < 8) : (mkCore d x y).toNat = d.toNat * 64 + y * 8 + x := by
  have := d.isLt
  rw [mkCore, BitVec.toNat_ofNat]
  omega

/-- A core is the one that its die, x and y name (R3). -/
theorem mkCore_coreDie (c : CoreId) : mkCore (coreDie c) (coreX c) (coreY c) = c := by
  have := c.isLt
  apply BitVec.eq_of_toNat_eq
  rw [mkCore_toNat _ (by rw [coreX_eq]; omega) (by rw [coreY_eq]; omega), coreDie_toNat, coreX_eq, coreY_eq]
  omega

/-- Die, x and y of the core that they name (R3). -/
theorem parts_mkCore (d : DieId) {x y : Nat} (hx : x < 8) (hy : y < 8) :
    coreDie (mkCore d x y) = d ∧ coreX (mkCore d x y) = x ∧ coreY (mkCore d x y) = y := by
  have hc := mkCore_toNat d hx hy
  refine ⟨BitVec.eq_of_toNat_eq ?_, ?_, ?_⟩
  · rw [coreDie_toNat]; omega
  · rw [coreX_eq]; omega
  · rw [coreY_eq]; omega

/-- p0 to p3 do not rotate, the others rotate among eight places (R23). -/
theorem SeatSt.predIx_toNat (q : SeatSt) (n : PReg) :
    (q.predIx n).toNat = if n.toNat < 4 then n.toNat else 4 + (n.toNat - 4 + q.prb.toNat) % 8 := by
  unfold SeatSt.predIx
  split
  · rfl
  · rw [BitVec.toNat_ofNat]; omega

/-- p0 is all ones (R17). -/
theorem At.pGet_zero (e : At) : e.pGet 0 = BitVec.allOnes 1024 := rfl

/-- s0 reads zero, untagged (R17). -/
theorem At.sGet_zero (e : At) : e.sGet 0 = (0, false) := rfl

/-- Settles O54: die, x and y are digits of a core's number in base 8, and the rotations are the model's definitions. -/
theorem numbersNameParts : Obligations.NumbersNameParts := by
  refine ⟨fun d x y => parts_mkCore d, fun c => ⟨mkCore_coreDie c, ?_, ?_⟩, fun x y k hx hy hk => ?_, rfl, rfl, rfl, rfl,
    fun _ _ => rfl, fun q n _ => q.predIx_toNat n, fun e => ⟨e.sGet_zero, e.pGet_zero⟩⟩
  · rw [coreX_eq]; omega
  · rw [coreY_eq]; omega
  · rw [clusterOf]; omega

end Sys2Proof.Machine
end

section
namespace Sys2Proof.Machine

/-! ### What a change of one core shows of the seats -/

/-- A part of a seat that a change of a core keeps in every seat of it is as it was in every seat of the machine. -/
theorem State.seat_modCore_keeps {α : Type} (g : SeatSt → α) (s : State) (c : CoreId) {f : CoreSt → CoreSt}
    (h : ∀ x j, g ((f x).seatAt j) = g (x.seatAt j)) (d : CoreId) (j : SeatId) :
    g ((s.modCore c f).seat d j) = g (s.seat d j) := by
  by_cases hd : d = c
  · subst hd; simp [State.seat, h]
  · simp [State.seat, State.core_modCore_ne s f hd]

/-- A part of a seat that a change of a seat keeps is as it was in every seat of the machine. -/
theorem State.seat_modSeat_keeps {α : Type} (g : SeatSt → α) (s : State) (c : CoreId) (k : SeatId) {f : SeatSt → SeatSt}
    (h : ∀ q, g (f q) = g q) (d : CoreId) (j : SeatId) : g ((s.modSeat c k f).seat d j) = g (s.seat d j) := by
  by_cases hd : d = c
  · subst hd
    by_cases hj : j = k
    · subst hj; simp [h]
    · exact congrArg g (State.seat_setSeat_ne_seat s d _ hj)
  · exact congrArg g (State.seat_setCore_ne s _ j hd)

/-- Every seat but the one changed is as it was. -/
theorem State.seat_modSeat_ne (s : State) {c d : CoreId} {k j : SeatId} (f : SeatSt → SeatSt) (h : (d, j) ≠ (c, k)) :
    (s.modSeat c k f).seat d j = s.seat d j := by
  by_cases hd : d = c
  · subst hd
    exact State.seat_setSeat_ne_seat s d _ fun hj => h (by rw [hj])
  · exact State.seat_setCore_ne s _ j hd

/-- A seat put back as it stands changes no seat. -/
theorem State.seat_setSeat_self (s : State) (c : CoreId) (k : SeatId) (d : CoreId) (j : SeatId) :
    (s.setSeat c k (s.seat c k)).seat d j = s.seat d j :=
  State.seat_modSeat_keeps id s c k (f := id) (fun _ => rfl) d j

/-! ### Changes of the cores and the L2 alone -/

/-- Nothing but the cores and the L2 differs. -/
def State.coresL2 (s t : State) : Prop := t = { s with cores := t.cores, l2 := t.l2 }

theorem State.coresL2_trans {s t u : State} (h : s.coresL2 t) (k : t.coresL2 u) : s.coresL2 u := by
  unfold State.coresL2 at *
  rw [k, h]

theorem State.coresL2_modSeat (s : State) (c : CoreId) (k : SeatId) (f : SeatSt → SeatSt) : s.coresL2 (s.modSeat c k f) := rfl

theorem State.coresL2.mem {s t : State} (h : s.coresL2 t) : t.mem = s.mem := by rw [h]

theorem State.coresL2.pkg {s t : State} (h : s.coresL2 t) : t.pkg = s.pkg := by rw [h]

theorem State.coresL2.cyc {s t : State} (h : s.coresL2 t) : t.cyc = s.cyc := by rw [h]

/-- Look-ups in the L2 change the L2 alone. -/
theorem State.l2Lines_eq {α : Type} (g : State → α → State) (hg : ∀ s a, g s a = { s with l2 := (g s a).l2 }) (l : List α) (s : State) :
    l.foldl g s = { s with l2 := (l.foldl g s).l2 } := by
  induction l generalizing s with
  | nil => rfl
  | cons a r ih => rw [List.foldl_cons, ih, hg]

/-- A release that writes back UO lines changes the cores and the L2 alone, and no seat (R287). -/
theorem State.cleanUo_keeps (s : State) (c : CoreId) (k : SeatId) :
    s.coresL2 (s.cleanUo c k) ∧ ∀ d j, (s.cleanUo c k).seat d j = s.seat d j := by
  unfold State.cleanUo
  dsimp only
  rw [State.l2Lines_eq (fun (s : State) (p : Nat × L1Line) => s.l2Line _ p.2.cls p.2.key p.1 true) (fun _ _ => rfl)]
  exact ⟨rfl, State.seat_modCore_keeps id _ c fun _ _ => rfl⟩

/-- What a release and an acquire do to UO lines changes the cores and the L2 alone, and no seat (R287). -/
theorem State.uoAct_keeps (s : State) (c : CoreId) (k : SeatId) (rel acq : Bool) :
    s.coresL2 (s.uoAct c k rel acq) ∧ ∀ d j, (s.uoAct c k rel acq).seat d j = s.seat d j := by
  obtain ⟨h1, h2⟩ : s.coresL2 (if rel then s.cleanUo c k else s) ∧ ∀ d j, (if rel then s.cleanUo c k else s).seat d j = s.seat d j := by
    split
    · exact s.cleanUo_keeps c k
    · exact ⟨rfl, fun _ _ => rfl⟩
  unfold State.uoAct
  dsimp only
  generalize (if rel then s.cleanUo c k else s) = t at h1 h2
  split
  · exact ⟨State.coresL2_trans h1 rfl, fun d j => (State.seat_modCore_keeps id t c (f := CoreSt.dropUo) (fun _ _ => rfl) d j).trans (h2 d j)⟩
  · exact ⟨h1, h2⟩

/-! ### What a seat waits for -/

/-- The results outstanding of a seat and its pending causes. -/
def SeatSt.dues (q : SeatSt) : List Vres × List Cause := (q.vres, q.pend)

/-- A cause put in its place joins those that are pending (R153). -/
theorem Cause.mem_insert {a b : Cause} {l : List Cause} : b ∈ a.insert l ↔ b = a ∨ b ∈ l := by
  induction l with
  | nil => simp [Cause.insert]
  | cons x r ih =>
    unfold Cause.insert
    split
    · simp
    · simp [ih, or_left_comm]

/-- A result that lands in a register changes no seat's results and causes. -/
theorem CoreSt.land_dues (x : CoreSt) (k j : SeatId) (b d : Nat) (w : Write) :
    ((x.land k ⟨b, d, w, []⟩).seatAt j).dues = (x.seatAt j).dues := by
  have put (q : SeatSt) (h : q.dues = (x.seatAt k).dues) : ((x.setSeat k q).seatAt j).dues = (x.seatAt j).dues := by
    by_cases hj : j = k
    · subst hj; rw [CoreSt.seatAt_setSeat, h]
    · rw [CoreSt.seatAt_setSeat_ne x q hj]
  unfold CoreSt.land
  cases w with
  | s n v t =>
    dsimp only [List.foldl_nil]
    split
    · rfl
    · exact put _ rfl
  | p n v =>
    dsimp only [List.foldl_nil]
    split
    · rfl
    · exact put _ rfl
  | a | m | pq => exact put _ rfl
  | row => rfl

/-- What the performance of an access does to its seat and to UO lines keeps every seat's results and causes (R287). -/
theorem State.covers_keeps (s : State) (c : CoreId) (k : SeatId) (v : Vres) :
    s.coresL2 (s.covers c k v) ∧ ∀ d j, ((s.covers c k v).seat d j).dues = (s.seat d j).dues := by
  unfold State.covers
  dsimp only
  obtain ⟨h1, h2⟩ := s.uoAct_keeps c k (v.sem != 0 && v.kind.isStore && v.tokenWide) (v.kind.isLoad && v.acq && v.wide)
  generalize s.uoAct c k _ _ = t at h1 h2
  have forget (q : SeatSt) : (if v.kind.isStore then q.forget v.loc else q).dues = q.dues := by
    unfold SeatSt.forget
    split
    · split <;> rfl
    · rfl
  split
  · exact ⟨h1, fun d j => by rw [h2]⟩
  · refine ⟨State.coresL2_trans h1 rfl, fun d j => ?_⟩
    rw [← h2 d j]
    refine State.seat_modSeat_keeps SeatSt.dues t c k (fun q => ?_) d j
    exact forget q

/-- An increment of a semaphore keeps results, causes and registers. -/
theorem SeatSt.bump_keeps (q : SeatSt) (n : SemR) (m : Nat) : (q.bump n m).dues = q.dues ∧ (q.bump n m).sr = q.sr := by
  unfold SeatSt.bump
  split
  · exact ⟨rfl, rfl⟩
  · split <;> exact ⟨rfl, rfl⟩

/-- The causes of a seat after a result with the cause `bad` has landed at a CYC (R102). -/
def withBad (bad : Option (Bits16 × Word)) (now : Nat) (l : List Cause) : List Cause :=
  match bad with
  | none => l
  | some p => (⟨p.1, 4, 0, p.2, now⟩ : Cause).insert l

/-- A pending cause changes its seat's causes alone. -/
theorem State.seat_pendCause (s : State) (c : CoreId) (k : SeatId) (a : Cause) :
    (s.pendCause c k a).seat c k = { s.seat c k with pend := ({ a with at0 := s.cyc } : Cause).insert (s.seat c k).pend } :=
  State.seat_modSeat ..

/-- A result's value in its destination, with its semaphore counted on: its effect but for the cause that it brings (R55). -/
def State.landed0 (s : State) (c : CoreId) (k : SeatId) (v : Vres) : State :=
  (match v.write with
    | none => s
    | some w => s.modCore c fun x => x.land k ⟨0, 0, w, []⟩).modSeat c k fun q => q.bump v.sem 1

theorem State.landVal_clean {v : Vres} (h : v.bad = none) (s : State) (c : CoreId) (k : SeatId) : s.landVal c k v = s.landed0 c k v := by
  unfold State.landVal
  rw [h]; rfl

theorem State.landVal_bad {v : Vres} {p : Bits16 × Word} (h : v.bad = some p) (s : State) (c : CoreId) (k : SeatId) :
    s.landVal c k v = (s.landed0 c k v).pendCause c k ⟨p.1, 4, 0, p.2, 0⟩ := by
  unfold State.landVal
  rw [h]; rfl

theorem State.landed0_keeps (s : State) (c : CoreId) (k : SeatId) (v : Vres) :
    s.coresL2 (s.landed0 c k v) ∧ ∀ d j, ((s.landed0 c k v).seat d j).dues = (s.seat d j).dues := by
  have bump (t : State) : ∀ d j, ((t.modSeat c k fun q => q.bump v.sem 1).seat d j).dues = (t.seat d j).dues :=
    State.seat_modSeat_keeps SeatSt.dues t c k fun q => (q.bump_keeps v.sem 1).1
  unfold State.landed0
  cases v.write with
  | none => exact ⟨rfl, bump s⟩
  | some w =>
    exact ⟨rfl, fun d j => (bump _ d j).trans (State.seat_modCore_keeps SeatSt.dues s c (fun x j => x.land_dues k j 0 0 w) d j)⟩

/-- A result's effect: nothing but the cores and the L2 differs, the cause that it brings becomes pending, and no other result or cause
of any seat changes (R55, R102). -/
theorem State.landVal_keeps (s : State) (c : CoreId) (k : SeatId) (v : Vres) :
    s.coresL2 (s.landVal c k v)
      ∧ ((s.landVal c k v).seat c k).dues = ((s.seat c k).vres, withBad v.bad s.cyc (s.seat c k).pend)
      ∧ ∀ d j, (d, j) ≠ (c, k) → ((s.landVal c k v).seat d j).dues = (s.seat d j).dues := by
  obtain ⟨hc, hd⟩ := s.landed0_keeps c k v
  cases hb : v.bad with
  | none =>
    rw [State.landVal_clean hb]
    exact ⟨hc, hd c k, fun d j _ => hd d j⟩
  | some p =>
    rw [State.landVal_bad hb]
    refine ⟨State.coresL2_trans hc rfl, ?_, fun d j h => ?_⟩
    · have hk := hd c k
      simp only [SeatSt.dues, Prod.mk.injEq] at hk
      simp only [State.seat_pendCause, SeatSt.dues, withBad, hk.1, hk.2, hc.cyc]
    · rw [State.pendCause, State.seat_modSeat_ne _ _ h, hd]

/-- A scalar result is in its register when it has taken effect (R55). -/
theorem State.landVal_sr {v : Vres} {n : SReg} (hd : v.dest = .s n) (hn : n ≠ 0) (s : State) (c : CoreId) (k : SeatId) :
    ((s.landVal c k v).seat c k).sr.val 0 n.toNat = v.data.setWidth 64 := by
  have hw : v.write = some (.s n (v.data.setWidth 64) (v.tags.getLsbD 0)) := by rw [Vres.write, hd]
  have h0 : ((s.landed0 c k v).seat c k).sr.val 0 n.toNat = v.data.setWidth 64 := by
    unfold State.landed0
    rw [hw, State.seat_modSeat, (SeatSt.bump_keeps _ _ _).2, State.seat, State.core_modCore]
    exact CoreSt.land_s _ k 0 0 _ _ hn
  cases hb : v.bad with
  | none => rw [State.landVal_clean hb, h0]
  | some p => rw [State.landVal_bad hb, State.seat_pendCause]; exact h0

/-- With no result waiting for an access nothing goes on when it has been performed (R284). -/
theorem State.unblock_unwaited {s : State} {c : CoreId} {k : SeatId} {id : Nat} (h : ∀ w ∈ (s.seat c k).vres, id ∉ w.after) (n : Nat) :
    s.unblock c k (n + 1) id = s.setSeat c k (s.seat c k) := by
  have go : (s.seat c k).vres.filter (fun v => v.after.contains id && v.after.all (· = id)) = [] := by
    rw [List.filter_eq_nil_iff]
    intro w hw
    simp [h w hw]
  have keep : (s.seat c k).vres.map (fun v => { v with after := v.after.filter (· != id) }) = (s.seat c k).vres := by
    refine (List.map_congr_left fun w hw => ?_).trans (List.map_id (s.seat c k).vres)
    have : w.after.filter (· != id) = w.after := List.filter_eq_self.2 fun i hi => by
      simpa using fun e : i = id => h w hw (e ▸ hi)
    rw [this]; rfl
  unfold State.unblock
  dsimp only
  rw [go, List.foldl_nil, State.modSeat, keep]

/-- A result for which no other waits lands by leaving the list and taking effect (R55, R102, R284). -/
theorem State.landRes_eq {s : State} {c : CoreId} {k : SeatId} {v : Vres} (i : Nat)
    (h : ∀ w ∈ (s.seat c k).vres, v.id ∉ w.after) :
    ∃ u : State, s.landRes c k i v = (u.landVal c k v).setSeat c k ((u.landVal c k v).seat c k) ∧ s.coresL2 u
      ∧ (u.seat c k).dues = ((s.seat c k).vres.eraseIdx i, (s.seat c k).pend)
      ∧ ∀ d j, (d, j) ≠ (c, k) → (u.seat d j).dues = (s.seat d j).dues := by
  obtain ⟨hc, hd⟩ := (s.modSeat c k fun q => { q with vres := q.vres.eraseIdx i }).covers_keeps c k v
  have hk : (((s.modSeat c k fun q => { q with vres := q.vres.eraseIdx i }).covers c k v).seat c k).dues
      = ((s.seat c k).vres.eraseIdx i, (s.seat c k).pend) := by
    rw [hd, State.seat_modSeat]; rfl
  refine ⟨_, ?_, State.coresL2_trans (s.coresL2_modSeat c k _) hc, hk, fun d j h => by rw [hd, State.seat_modSeat_ne s _ h]⟩
  unfold State.landRes
  refine State.unblock_unwaited (fun w hw => h w (List.mem_of_mem_eraseIdx (i := i) ?_)) _
  rwa [show (State.seat _ c k).vres = _ from congrArg Prod.fst (State.landVal_keeps _ c k v).2.1,
    show (State.seat _ c k).vres = _ from congrArg Prod.fst hk] at hw

/-- A result for which no other waits lands: it is outstanding no more, the cause that it brings is pending, and no other result or
cause of any seat changes; nothing but the cores and the L2 differs (R55, R102, R284). -/
theorem State.landRes_keeps {s : State} {c : CoreId} {k : SeatId} {v : Vres} (i : Nat)
    (h : ∀ w ∈ (s.seat c k).vres, v.id ∉ w.after) :
    s.coresL2 (s.landRes c k i v)
      ∧ ((s.landRes c k i v).seat c k).dues = ((s.seat c k).vres.eraseIdx i, withBad v.bad s.cyc (s.seat c k).pend)
      ∧ ∀ d j, (d, j) ≠ (c, k) → ((s.landRes c k i v).seat d j).dues = (s.seat d j).dues := by
  obtain ⟨u, hu, hc, hk, hd⟩ := State.landRes_eq i h
  obtain ⟨lc, lk, ld⟩ := u.landVal_keeps c k v
  simp only [SeatSt.dues, Prod.mk.injEq] at hk
  rw [hu]
  refine ⟨State.coresL2_trans (State.coresL2_trans hc lc) (State.coresL2_modSeat _ c k fun q => q), ?_, fun d j h => ?_⟩
  · rw [State.seat_setSeat, lk, hk.1, hk.2, hc.cyc]
  · rw [State.seat_setSeat_self, ld d j h, hd d j h]

/-- A scalar result for which no other waits is in its register once it has landed (R55). -/
theorem State.landRes_sr {s : State} {c : CoreId} {k : SeatId} {v : Vres} (i : Nat) {n : SReg}
    (h : ∀ w ∈ (s.seat c k).vres, v.id ∉ w.after) (hd : v.dest = .s n) (hn : n ≠ 0) :
    ((s.landRes c k i v).seat c k).sr.val 0 n.toNat = v.data.setWidth 64 := by
  obtain ⟨u, hu, -⟩ := State.landRes_eq i h
  rw [hu, State.seat_setSeat, State.landVal_sr hd hn]

/-! ### Accesses that fail (R102, R164, R390, R419) -/

/-- A load's result keeps its number and its kind, whatever its answer brings. -/
theorem State.landed_id (s : State) (v : Vres) (l : List (Nat × Seg)) (a : FarAns) : (s.landed v l a).id = v.id := by
  unfold State.landed Vres.given
  split
  · rfl
  · split <;> rfl

/-- An access that fails lands, under its own number, with the cause of the failure; a speculative load has none for F_BUS, and a
speculative row load none at all (R102, R104, R105). -/
theorem State.failRes_eq {v : Vres} (hpush : ∀ p, v.todo ≠ some (.push p)) (hpop : ∀ p, v.todo ≠ some (.pop p))
    (s : State) (c : CoreId) (k : SeatId) (i : Nat) (a : FarAns) (e : Bits16 × Word) :
    ∃ w : Vres, s.failRes c k i v a e = s.landRes c k i w ∧ w.id = v.id
      ∧ w.bad = if v.kind == VKind.lds && (v.key = 8 || e.1 == fBus) then none else some e := by
  have other : (if v.kind == VKind.qpop then v else v.failed).id = v.id := by split <;> rfl
  unfold State.failRes
  cases ht : v.todo with
  | none => exact ⟨_, rfl, other, rfl⟩
  | some t =>
    cases t with
    | push p => exact absurd ht (hpush p)
    | pop p => exact absurd ht (hpop p)
    | load l => exact ⟨_, rfl, s.landed_id v l a, rfl⟩
    | store | atomic | arrive | launch | trig | coll | inc => exact ⟨_, rfl, other, rfl⟩

/-- An access that fails with a code that it cannot pass over, and for which no other waits: it is outstanding no more and its cause is
pending; no other result or cause of any seat changes, and nothing but the cores and the L2 differs (R102, R284, R390, R419). -/
theorem State.failRes_keeps {s : State} {c : CoreId} {k : SeatId} {v : Vres} {e : Bits16 × Word} (i : Nat) (a : FarAns)
    (hpush : ∀ p, v.todo ≠ some (.push p)) (hpop : ∀ p, v.todo ≠ some (.pop p))
    (h : ∀ w ∈ (s.seat c k).vres, v.id ∉ w.after) :
    let bad := if v.kind == VKind.lds && (v.key = 8 || e.1 == fBus) then none else some e
    s.coresL2 (s.failRes c k i v a e)
      ∧ ((s.failRes c k i v a e).seat c k).dues = ((s.seat c k).vres.eraseIdx i, withBad bad s.cyc (s.seat c k).pend)
      ∧ ∀ d j, (d, j) ≠ (c, k) → ((s.failRes c k i v a e).seat d j).dues = (s.seat d j).dues := by
  obtain ⟨w, hw, hid, hbad⟩ := State.failRes_eq hpush hpop s c k i a e
  rw [hw]
  simpa only [hbad] using State.landRes_keeps (v := w) i (by rwa [hid])

/-- The cause of a failed access is pending with its code, its value and the source of memory (R153, R155). -/
theorem exists_withBad {p : Bits16 × Word} (now : Nat) (l : List Cause) :
    ∃ y ∈ withBad (some p) now l, y.code = p.1 ∧ y.tval = p.2 ∧ y.src = 4 :=
  ⟨_, Cause.mem_insert.2 (.inl rfl), rfl, rfl, rfl⟩

end Sys2Proof.Machine
end

section
namespace Sys2Proof.Machine

/-! ### Tables read by their numbers -/

/-- A table of values given for a list of numbers. -/
theorem Tab.val_map {α : Type} (l : List Nat) (g : Nat → α) (d : α) (k : Nat) :
    Tab.val (l.map fun i => (i, g i)) d k = if k ∈ l then g k else d := by
  induction l with
  | nil => rfl
  | cons i r ih =>
    simp only [List.map_cons, Tab.val, ih, List.mem_cons]
    by_cases h : i = k
    · subst h; simp
    · simp [h, Ne.symm h]

/-- The part of a table whose numbers have a property. -/
theorem Tab.val_filter {α : Type} (t : Tab α) (p : Nat → Bool) (d : α) (k : Nat) :
    Tab.val (t.filter fun q => p q.1) d k = if p k then t.val d k else d := by
  induction t with
  | nil => simp
  | cons q r ih =>
    obtain ⟨i, x⟩ := q
    by_cases h : i = k
    · subst h
      by_cases hp : p i <;> simp [hp, Tab.val, ih]
    · by_cases hp : p i <;> simp [hp, Tab.val, ih, h]

/-! ### Memory is the same whatever the L2 holds -/

/-- Bytes written to memory are the same whatever the L2 holds. -/
theorem State.wrBytes_l2 (s : State) (x : L2St) (kid pa : Nat) (b : List Byte) :
    ({ s with l2 := x } : State).wrBytes kid pa b = { s.wrBytes kid pa b with l2 := x } := by
  have rekey (s : State) (g : Nat) : ({ s with l2 := x } : State).rekey kid g = { s.rekey kid g with l2 := x } := by
    unfold State.rekey
    split <;> rfl
  induction b generalizing s pa with
  | nil => rfl
  | cons y r ih =>
    rw [State.wrBytes, State.wrBytes, ← ih]
    simp only [State.wrB, rekey]

/-- Bytes stored to a range are the same whatever the L2 holds. -/
theorem State.wrSegs_l2 (s : State) (x : L2St) (l : List Seg) (b : List Byte) :
    ({ s with l2 := x } : State).wrSegs l b = { s.wrSegs l b with l2 := x } := by
  induction l generalizing s b with
  | nil => rfl
  | cons g r ih =>
    rw [State.wrSegs, State.wrSegs]
    dsimp only
    rw [← ih]
    split
    · rfl
    · rw [State.wrBytes_l2]; rfl

/-- A unit's write through the L2 leaves the bytes that the write to memory leaves (R273). -/
theorem State.putSegs_mem (s : State) (l : List Seg) (b : List Byte) : (s.putSegs l b).mem = (s.wrSegs l b).mem := by
  rw [State.putSegs, State.l2Segs_eq, State.wrSegs_l2]

theorem State.putSegs_cores (s : State) (l : List Seg) (b : List Byte) : (s.putSegs l b).cores = s.cores :=
  (State.coresKept_memOnly (s.memOnly_putSegs l b).1).cores

/-- A range read by a unit: what leaves is requests, and what changes beside that is the L2. -/
theorem State.askSegs_eq (s : State) (l : List Seg) :
    s.askSegs l = { s with out := (s.askSegs l).out, l2 := (s.askSegs l).l2 } := by
  have far (s : State) : s.askFar l = { s with out := (s.askFar l).out } := by
    unfold State.askFar
    induction l generalizing s with
    | nil => rfl
    | cons g r ih =>
      rw [List.foldl_cons, ih]
      split <;> rfl
  unfold State.askSegs
  rw [State.l2Segs_eq, far]

/-- The state in which a range has been read by a unit. -/
theorem State.farRead_fst (s : State) (far : FarReads) (va : Nat) (user : Bool) (l : List Seg) :
    (s.farRead far va user l).1 = s.askSegs l := by
  unfold State.farRead
  dsimp only
  split <;> rfl

/-- A range of which no part lies on another device has no part that an answer gives. -/
theorem farParts_near {l : List Seg} (h : isFar l = false) (o : Nat) : farParts l o = [] := by
  induction l generalizing o with
  | nil => rfl
  | cons g r ih =>
    simp only [isFar, anySeg, List.any_cons, Bool.or_eq_false_iff] at h
    simp [farParts, h.1.1, ih (by simpa [isFar, anySeg] using h.2)]

/-- A range that memory here gives whole is read from it (R161). -/
theorem State.farRead_near (s : State) (far : FarReads) (va : Nat) (user : Bool) {l : List Seg} (h : isFar l = false) :
    s.farRead far va user l = (s.askSegs l, .ok (s.nearBytes l)) := by
  simp [State.farRead, farBad, h, farParts_near h, farFill]

/-! ### MSI-X (R388, R389, R392) -/

section Vectors
variable {s : State} {f : FuncId} {n : Nat} {v : VecSt} {g : VecSt → VecSt}

/-- No message is sent for a masked vector (R389). -/
theorem State.sendVec_masked (h : (s.func f).vec.find n = some v) (hm : v.masked = true) : s.sendVec f n = s := by
  simp [State.sendVec, h, hm]

/-- A vector that the function does not hold is not changed. -/
theorem State.setVec_none (h : (s.func f).vec.find n = none) : s.setVec f n g = s := by
  simp [State.setVec, h]

/-- A vector that stays or becomes masked is changed, and nothing is sent (R389). -/
theorem State.setVec_masked (h : (s.func f).vec.find n = some v) (hl : s.locked f = false) (hm : (g v).masked = true) :
    s.setVec f n g = s.modFunc f fun x => { x with vec := x.vec.put n (g v) } := by
  simp only [State.setVec, h, hl, Bool.false_eq_true, if_false]
  exact State.sendVec_masked (v := g v) (by simp) hm

/-- The vector as it is then held. -/
theorem State.find_setVec_masked (h : (s.func f).vec.find n = some v) (hl : s.locked f = false) (hm : (g v).masked = true) :
    ((s.setVec f n g).func f).vec.find n = some (g v) := by
  rw [State.setVec_masked h hl hm]; simp

end Vectors

/-! ### BAR2 (R378, R391, R392) -/

section Bar2
variable {s : State} {f : FuncId} {off : Word} {len : Bits12} {far : FarReads}

theorem exec_hostBar2Read_outside (h : (s.func f).bar2.toNat < off.toNat + readLen len) :
    exec (.hostBar2Read f off (len, far)) s = .next s := by
  show execHostBar2Read f off (len, far) s = _
  simp [execHostBar2Read, State.inBar2, h]

variable (h : off.toNat + readLen len ≤ (s.func f).bar2.toNat)
include h

theorem exec_hostBar2Read_error (ht : (s.func f).tdisp = .error) :
    exec (.hostBar2Read f off (len, far)) s = .next (s.send (.hostRead f off [] false false)) := by
  show execHostBar2Read f off (len, far) s = _
  simp [execHostBar2Read, State.inBar2, h, ht]

variable (ht : (s.func f).tdisp ≠ .error)
include ht

theorem exec_hostBar2Read_untranslated {e : XFault} (hs : s.span (.ofFunc f) .read off.toNat (readLen len) = .bad e) :
    exec (.hostBar2Read f off (len, far)) s = .next ((s.porterFault f e).send (.hostRead f off [] false false)) := by
  show execHostBar2Read f off (len, far) s = _
  simp [execHostBar2Read, State.inBar2, h, ht, hs]

theorem exec_hostBar2Read_failed {l : List Seg} {z : State} {e : XFault}
    (hs : s.span (.ofFunc f) .read off.toNat (readLen len) = .ok l) (hr : s.farRead far off.toNat false l = (z, .error e)) :
    exec (.hostBar2Read f off (len, far)) s = .next ((z.porterFault f e).send (.hostRead f off [] false false)) := by
  show execHostBar2Read f off (len, far) s = _
  simp [execHostBar2Read, State.inBar2, h, ht, hs, hr]

theorem exec_hostBar2Read_read {l : List Seg} {z : State} {b : List (Byte × Bool)}
    (hs : s.span (.ofFunc f) .read off.toNat (readLen len) = .ok l) (hr : s.farRead far off.toNat false l = (z, .ok b)) :
    exec (.hostBar2Read f off (len, far)) s = .next (z.send (.hostRead f off (b.map Prod.fst) true (b.any Prod.snd))) := by
  show execHostBar2Read f off (len, far) s = _
  simp [execHostBar2Read, State.inBar2, h, ht, hs, hr]

end Bar2

section Bar2Write
variable {s : State} {f : FuncId} {off : Word} {data : Bytes}

theorem exec_hostBar2Write_stored {l : List Seg} (hd : data.length ≤ 512) (h : off.toNat + data.length ≤ (s.func f).bar2.toNat)
    (ht : (s.func f).tdisp ≠ .error) (hs : s.span (.ofFunc f) .write off.toNat data.length = .ok l) :
    exec (.hostBar2Write f off data) s = .next (s.putSegs l data) := by
  show execHostBar2Write f off data s = _
  simp [execHostBar2Write, State.inBar2, Nat.not_lt.2 hd, h, ht, hs]

theorem exec_hostBar2Write_dropped (h : 512 < data.length ∨ (s.func f).bar2.toNat < off.toNat + data.length ∨ (s.func f).tdisp = .error) :
    exec (.hostBar2Write f off data) s = .next s := by
  show execHostBar2Write f off data s = _
  rcases h with h | h | h <;> simp [execHostBar2Write, State.inBar2, h]

end Bar2Write

section Atomics
variable {s : State} {f : FuncId} {off : Word} {op : HostOp} {sz : Bits2} {x y : Bits128} {l : List Seg}
  (h : off.toNat + 4 * 2 ^ sz.toNat ≤ (s.func f).bar2.toNat)
include h

/-- An AtomicOp of an interface in ERROR, of a form or size that there is none of, or not aligned is refused (R391, R392). -/
theorem exec_hostAtomic_illegal
    (hi : (s.func f).tdisp = .error ∨ sz = 3 ∨ (sz = 2 ∧ op ≠ .cas) ∨ off.toNat % (4 * 2 ^ sz.toNat) ≠ 0) :
    exec (.hostAtomic f off op sz x y) s = .next (s.send (.hostAtomic f off 0 false)) := by
  show execHostAtomic f off op sz x y s = _
  rcases hi with hi | rfl | ⟨rfl, hi⟩ | hi <;> simp_all [execHostAtomic, State.inBar2]

variable (ht : (s.func f).tdisp ≠ .error) (hf : sz.toNat < 2 ∨ sz = 2 ∧ op = .cas) (ha : off.toNat % (4 * 2 ^ sz.toNat) = 0)
  (hs : s.span (.ofFunc f) .atomic off.toNat (4 * 2 ^ sz.toNat) = .ok l)
include ht hf ha hs

/-- A legal AtomicOp that translates: refused where its memory is poisoned or not HBM, else performed (R391). -/
theorem exec_hostAtomic_legal :
    exec (.hostAtomic f off op sz x y) s = .next
      (if s.poisSegs l || l.any (fun g => !isHbm g.xl.pa) then s.send (.hostAtomic f off 0 false)
      else (s.putSegs l (leBytes (4 * 2 ^ sz.toNat) (hostNew op (4 * 2 ^ sz.toNat) x.toNat y.toNat (leNat (s.rdSegs l))))).send
        (.hostAtomic f off (BitVec.ofNat 128 (leNat (s.rdSegs l))) true)) := by
  show execHostAtomic f off op sz x y s = _
  have wide : ¬ 2 < sz.toNat := by
    rcases hf with hf | ⟨rfl, -⟩
    · omega
    · decide
  have cas (h2 : sz = 2) : op = .cas := by
    rcases hf with hf | ⟨-, hc⟩
    · subst h2; exact absurd hf (by decide)
    · exact hc
  have form : (sz = 2 && op != .cas) = false := by
    rw [Bool.and_eq_false_imp, decide_eq_true_eq]
    intro h2
    rw [cas h2]; rfl
  simp only [execHostAtomic, State.inBar2, h, wide, form, ha, hs, beq_eq_false_iff_ne.2 ht, decide_true, decide_false, Bool.not_true,
    Bool.or_false, bne_self_eq_false, Bool.false_eq_true, if_false]

end Atomics

/-! ### Completions that do not come (R390) -/

/-- The cause of a request to the host that is not answered in time: F_HCPL with bit 60 set (R390). -/
theorem Vres.answerErr_hcpl {v : Vres} {e : Bits16 × Word} (hpush : ∀ p, v.todo ≠ some (.push p))
    (h : v.answerErr ⟨[], [], some (.hcpl true 0), 0, false⟩ = some e) : e = (fHcpl, BitVec.ofNat 64 (v.addr.toNat + 2 ^ 60)) := by
  have addr : v.errAddr ⟨[], [], some (.hcpl true 0), 0, false⟩ = v.addr.toNat := by
    unfold Vres.errAddr
    split
    · exact absurd ‹_› (hpush _)
    · simp
  unfold Vres.answerErr at h
  simp only [addr] at h
  split at h
  · simpa [farFault] using h.symm
  · cases h

theorem exec_pcieCompletionTimeout_none {s : State} {c : CoreId} {k : SeatId} {ix : Bits8} (h : (s.seat c k).vres[ix.toNat]? = none) :
    exec (.pcieCompletionTimeout c k ix) s = .next s := by
  show execPcieCompletionTimeout c k ix s = _
  simp [execPcieCompletionTimeout, h]

theorem exec_pcieCompletionTimeout_fails {s : State} {c : CoreId} {k : SeatId} {ix : Bits8} {v : Vres} {e : Bits16 × Word}
    (h : (s.seat c k).vres[ix.toNat]? = some v) (he : v.answerErr ⟨[], [], some (.hcpl true 0), 0, false⟩ = some e) :
    exec (.pcieCompletionTimeout c k ix) s =
      .next (s.failRes c k ix.toNat v ⟨[], [], some (.hcpl true 0), 0, false⟩ e) := by
  show execPcieCompletionTimeout c k ix s = _
  simp only [execPcieCompletionTimeout, h, he]

/-! ### Interfaces (R392) -/

section Interfaces
variable {s : State} {f : FuncId}

theorem exec_lockInterface_unlocked (h : (s.func f).tdisp = .unlocked) :
    exec (.lockInterface f) s = .next (s.modFunc f fun x => { x with tdisp := .locked }) := by
  show execLockInterface f s = _
  simp [execLockInterface, h]

theorem exec_lockInterface_other (h : (s.func f).tdisp ≠ .unlocked) : exec (.lockInterface f) s = .next s := by
  show execLockInterface f s = _
  simp [execLockInterface, h]

theorem exec_startInterface_locked (h : (s.func f).tdisp = .locked) :
    exec (.startInterface f) s = .next (s.modFunc f fun x => { x with tdisp := .run }) := by
  show execStartInterface f s = _
  simp [execStartInterface, h]

theorem exec_startInterface_other (h : (s.func f).tdisp ≠ .locked) : exec (.startInterface f) s = .next s := by
  show execStartInterface f s = _
  simp [execStartInterface, h]

/-- A fold whose elements each leave the state as it is. -/
theorem foldl_unchanged {σ α : Type} {g : σ → α → σ} {t : σ} {l : List α} (h : ∀ a ∈ l, g t a = t) : l.foldl g t = t := by
  induction l with
  | nil => rfl
  | cons a r ih =>
    rw [List.foldl_cons, h a List.mem_cons_self]
    exact ih fun b hb => h b (List.mem_cons_of_mem a hb)

/-- A function without instances has none to kill. -/
theorem State.killFunc_idle (h : ∀ p ∈ s.dies, p.2.insts = []) : s.killFunc f = s := by
  unfold State.killFunc
  exact foldl_unchanged fun p hp => by rw [h p hp]; rfl

/-- Where every entry of the key table is EMPTY no function has a loaded key (R373). -/
theorem State.keysOf_empty (h : ∀ p ∈ s.pkg.keys, p.2.word.toNat % 4 = 0) : s.keysOf f = [] := by
  have none : (s.pkg.keys.filter fun p => bits p.2.word 1 0 != 0 && bits p.2.word 6 2 = f.toNat) = [] := by
    rw [List.filter_eq_nil_iff]
    intro p hp
    simp [bits_eq_div_mod, h p hp]
  rw [State.keysOf, none, List.map_nil]

/-- An interface with nothing bound and no key loaded is stopped at once: its queues are disabled, and it is unlocked (R374, R392). -/
theorem exec_stopInterface_idle (hi : ∀ p ∈ s.dies, p.2.insts = []) (hk : ∀ p ∈ s.pkg.keys, p.2.word.toNat % 4 = 0) :
    exec (.stopInterface f) s = .next ((s.modFunc f fun x => { x with pqs := x.pqs.mapV fun r => { r with en := false } }).modFunc f
      fun x => { x with tdisp := .unlocked }) := by
  show execStopInterface f s = _
  have bound : (s.dies.any fun p => p.2.insts.any fun q => q.2.func == f && !q.2.seats.isEmpty) = false := by
    rw [List.any_eq_false]
    intro p hp
    simp [hi p hp]
  have kill := State.killFunc_idle (s := s.modFunc f fun x => { x with pqs := x.pqs.mapV fun r => { r with en := false } }) (f := f) hi
  have keys := State.keysOf_empty (s := s.modFunc f fun x => { x with pqs := x.pqs.mapV fun r => { r with en := false } }) (f := f) hk
  simp [execStopInterface, kill, keys, bound]

/-! ### DOE (R393) -/

theorem exec_spdmRequest_unserved {req : Bytes} (h : s.pkg.safe = true) (hf : f ≠ 0) : exec (.spdmRequest f req) s = .next s := by
  show execSpdmRequest f req s = _
  have : (s.pkg.safe && f != 0) = true := by rw [h, Bool.true_and]; exact bne_iff_ne.2 hf
  rw [execSpdmRequest, this]; rfl

theorem exec_spdmRequest_served {req : Bytes} (h : s.pkg.safe = false ∨ f = 0) :
    ∃ a, exec (.spdmRequest f req) s = .next ((s.modFunc f fun x => { x with
      doe := if field req 1 1 = 0xE5 then x.doe || Config.freeBool 80 s.free else if field req 1 1 = 0xEC then false else x.doe }).send
        (.doe f a)) := by
  show ∃ a, execSpdmRequest f req s = _
  have : (s.pkg.safe && f != 0) = false := by rcases h with h | h <;> simp [h]
  rw [execSpdmRequest, this]
  exact ⟨_, rfl⟩

end Interfaces

/-! ### Bring-up and supply loss (R280, R348, R395 to R397) -/

theorem bootOk_iff (m : Nat) (b : BootIn) : bootOk m b = true ↔
    b.code.toNat ≤ 7 ∧ b.stage.toNat = (if b.code = 0 then 6 else min 5 b.code.toNat) ∧ (m ≤ b.cfgver.toNat ∨ b.code = 1) := by
  have stage : stageOf b.code.toNat = if b.code = 0 then 6 else min 5 b.code.toNat := by
    unfold stageOf
    congr 1
    exact propext ⟨fun h => BitVec.eq_of_toNat_eq h, fun h => by rw [h]; rfl⟩
  simp [bootOk, stage, and_assoc]

/-- The low four bits of the status word hold the stage (R396). -/
theorem statusWord_stage {b : BootIn} (h : b.stage.toNat < 16) : (statusWord b).toNat % 16 = b.stage.toNat := by
  unfold statusWord
  rw [BitVec.toNat_ofNat, Nat.mod_mod_of_dvd _ (by decide : 16 ∣ 2 ^ 64)]
  omega

/-- The state after power-on keeps host memory and nothing of the device's own (R395, R397). -/
theorem bootMem_val (m : Tab Byte) (a : Nat) : Tab.val (m.filter fun p => 2 ^ 51 ≤ p.1) 0 a = if 2 ^ 51 ≤ a then m.val 0 a else 0 :=
  (Tab.val_filter m (fun i => decide (2 ^ 51 ≤ i)) 0 a).trans (by simp only [decide_eq_true_eq])

/-- Vtrim of a column as boot sets it (R348). -/
theorem bootTrim_val (w : Word) {j : Nat} (h : j < 8) : (bootTrim w).val 0 j = bits w (8 * j + 7) (8 * j) := by
  rw [bootTrim, Tab.val_map, if_pos (by simpa using h)]

/-- A core that boot excludes (R254, R396). -/
def CoreSt.excluded : CoreSt := { CoreSt.reset with mstate := .out }

/-- A core after boot: as after reset, and OUT where boot excludes it (R254, R396). -/
theorem bootCores_val (b : BootIn) (e : CoreId) :
    (bootCores b).val .reset e.toNat = if ([b.c0, b.c1, b.c2, b.c3].getD (coreDie e).toNat 0).getLsbD (8 * coreY e + coreX e)
      then .reset else .excluded := by
  have he := e.isLt
  have place : e.toNat % 64 = 8 * coreY e + coreX e := by rw [coreX_eq, coreY_eq]; omega
  rw [coreDie_toNat, ← place]
  refine (Tab.val_map _ (fun _ => CoreSt.excluded) .reset e.toNat).trans ?_
  simp only [List.mem_filter, List.mem_range, he, true_and, Bool.not_eq_true']
  cases ([b.c0, b.c1, b.c2, b.c3].getD (e.toNat / 64) 0).getLsbD (e.toNat % 64) <;> simp

/-- What boot cannot have found is no boot (R395). -/
theorem exec_powerOnReset_other {s : State} {b : BootIn} (h : ¬ bootOk s.pkg.minver b = true) : exec (.powerOnReset b) s = .next s := by
  show execPowerOnReset b s = _
  simp [execPowerOnReset, h]

/-- A boot that ends as `b` says: its mailbox, its cores, its columns and its memory (R280, R348, R393 to R397). -/
theorem exec_powerOnReset_boots {s : State} {b : BootIn} (h : bootOk s.pkg.minver b = true) :
    ∃ t, exec (.powerOnReset b) s = .next t ∧ t.mem = s.mem.filter (fun p => 2 ^ 51 ≤ p.1) ∧ t.cyc = 0 ∧ t.funcs = []
      ∧ t.pkg.safe = (b.code != 0) ∧ t.pkg.devnum = b.devnum ∧ t.pkg.minver = s.pkg.minver ∧ t.pkg.mbox = statusMailbox s.l2.lost b
      ∧ (∀ e : DieId, (t.die e).vtrim = bootTrim ([b.v0, b.v1, b.v2, b.v3].getD e.toNat 0)) ∧ t.cores = bootCores b := by
  show ∃ t, execPowerOnReset b s = .next t ∧ _
  rw [execPowerOnReset, h]
  refine ⟨_, rfl, rfl, rfl, rfl, rfl, rfl, rfl, rfl, fun e => ?_, rfl⟩
  rw [State.die]
  dsimp only [Bool.not_true, Bool.false_eq_true, if_false]
  rw [if_neg (by decide), Tab.val_map, if_pos (by simpa using e.isLt)]

theorem exec_supplyLossWarning_stopped {s : State} (h : s.pkg.supply = true) : exec .supplyLossWarning s = .next s := by
  show execSupplyLossWarning s = _
  rw [execSupplyLossWarning, if_pos h]

/-- Supply loss is logged and marked, and stops the device; the lines of the L2 are written back (R397). -/
theorem exec_supplyLossWarning_stops {s : State} (h : s.pkg.supply = false) :
    ∃ t n ok, exec .supplyLossWarning s = .next t ∧ t.mem = s.mem ∧ t.cores = s.cores
      ∧ t.out = s.out ++ [.marker (BitVec.ofNat 64 s.cyc) (BitVec.ofNat 64 (s.ptimeAt s.cyc)) n ok]
      ∧ t.pkg = { s.pkg with
          hslog := s.pkg.hslog ++ [(fSupply, BitVec.ofNat 64 s.cyc)], supply := true
          mbox := s.pkg.mbox.put 0 (s.pkg.mbox.val 0 0 ||| 0x40) } := by
  show ∃ t n ok, execSupplyLossWarning s = .next t ∧ _
  rw [execSupplyLossWarning, h]
  exact ⟨_, _, _, rfl, rfl, rfl, rfl, rfl⟩

end Sys2Proof.Machine
end

section
namespace Sys2Proof.Machine

/-- Settles O47: each clause is what the event's meaning answers under its conditions, read at the parts that the clause names. -/
theorem hostEvents : Obligations.HostEvents := by
  intro s f off c k next same x
  refine ⟨fun v n val hv hl hm => ?coalesce, fun n hn val => ?coalesceNone, fun len => ⟨fun hin => ⟨fun l z b far ht hs hr => ?read,
    fun l z e far ht hs hr => ?readFails, fun e far ht hs => ?readBad, fun far ht => ?readError⟩, fun far hout => ?readOutside⟩,
    fun data => ⟨fun l hd hin ht hs => ?write, fun h => ?writeDropped⟩,
    fun op sz a b l => ?atomic,
    fun ix v e hv he hlds hpush hpop hw => ?hcpl, fun ix h => ?hcplNone,
    ⟨fun h => ?lock, fun h => ?lockOther, fun h => ?start, fun h => ?startOther⟩, fun hi hk => ?stop,
    fun req => ⟨fun h => ?doe, fun h hf => ?doeUnserved⟩, fun b => ?boot,
    fun h => ?supply, fun h => ?supplyAgain⟩
  case coalesce =>
    refine ⟨_, rfl, ?_, ?_⟩
    · rw [State.setVec_masked hv hl (by simpa using hm)]; rfl
    · exact State.find_setVec_masked hv hl (by simpa using hm)
  case coalesceNone => exact congrArg Host.Outcome.next (State.setVec_none hn)
  case read =>
    refine ⟨_, exec_hostBar2Read_read hin ht hs hr, ?_, ?_, fun hnear => ?_⟩
    · have hz := State.farRead_fst s far off.toNat false l
      rw [hr] at hz
      rw [State.send_mem, show z = _ from hz, State.askSegs_eq]
    · simp
    · rw [State.farRead_near s far off.toNat false hnear] at hr
      exact (Except.ok.inj (congrArg Prod.snd hr)).symm
  case readFails => exact ⟨_, exec_hostBar2Read_failed hin ht hs hr, by simp⟩
  case readBad => exact ⟨_, exec_hostBar2Read_untranslated hin ht hs, by simp⟩
  case readError => exact ⟨_, exec_hostBar2Read_error hin ht, rfl⟩
  case readOutside => exact exec_hostBar2Read_outside hout
  case write => exact ⟨_, exec_hostBar2Write_stored hd hin ht hs, rfl, s.putSegs_cores l data⟩
  case writeDropped => exact exec_hostBar2Write_dropped h
  case atomic =>
    intro n refused hin
    refine ⟨fun ht hf ha hs => ⟨fun hp hh => ⟨_, exec_hostAtomic_legal hin ht hf ha hs, ?_⟩,
      fun hp => ⟨_, exec_hostAtomic_legal hin ht hf ha hs, ?_⟩⟩, fun hi => ⟨_, exec_hostAtomic_illegal hin hi, rfl⟩⟩
    · rw [if_neg (by simpa [hp] using hh)]
      exact ⟨by rw [State.send_mem, State.putSegs_mem]; rfl, by simp⟩
    · rw [if_pos (by simp [hp])]; rfl
  case hcpl =>
    obtain rfl := Vres.answerErr_hcpl hpush he
    obtain ⟨hc, hd, -⟩ := State.failRes_keeps (e := (fHcpl, BitVec.ofNat 64 (v.addr.toNat + 2 ^ 60))) ix.toNat
      ⟨[], [], some (.hcpl true 0), 0, false⟩ hpush hpop hw
    refine ⟨_, exec_pcieCompletionTimeout_fails hv he, hc.mem, congrArg Prod.fst hd, ?_⟩
    rw [show (State.seat _ c k).pend = _ from congrArg Prod.snd hd, if_neg]
    · exact exists_withBad _ _
    · by_cases hk : v.kind = .lds
      · simpa [hk, hlds hk] using (by decide : fHcpl ≠ fBus)
      · simp [hk]
  case hcplNone => exact exec_pcieCompletionTimeout_none h
  case lock => exact ⟨_, exec_lockInterface_unlocked h, by simp, rfl⟩
  case lockOther => exact exec_lockInterface_other h
  case start => exact ⟨_, exec_startInterface_locked h, by simp, rfl⟩
  case startOther => exact exec_startInterface_other h
  case stop =>
    refine ⟨_, exec_stopInterface_idle hi hk, by simp, fun n r hr => ?_, rfl⟩
    simp only [State.func_modFunc, Tab.find_mapV, Option.map_eq_some_iff] at hr
    obtain ⟨q, -, rfl⟩ := hr
    rfl
  case doe =>
    obtain ⟨a, ha⟩ := exec_spdmRequest_served (req := req) h
    refine ⟨_, ha, rfl, rfl, ⟨a, by simp⟩, fun h2 => ?_, fun h1 h2 => ?_⟩
    · simp [h2]
    · simp [h1, h2]; rfl
  case doeUnserved => exact exec_spdmRequest_unserved h hf
  case boot =>
    refine ⟨fun h => exec_powerOnReset_other (mt (bootOk_iff _ b).1 h), fun h => ?_⟩
    obtain ⟨t, ht, hmem, hcyc, hfuncs, hsafe, hdev, hmin, hbox, htrim, hcores⟩ := exec_powerOnReset_boots ((bootOk_iff _ b).2 h)
    refine ⟨t, ht, fun a ha => ?_, fun _ a ha => ?_, hcyc, hfuncs, ?_, hdev, hmin, ?_, ?_, ?_, fun e j hj => ?_, fun e => ?_⟩
    · rw [hmem, bootMem_val, if_neg (by omega)]
    · rw [hmem, bootMem_val, if_pos ha]
    · rw [hsafe]; simp [bne, Bool.beq_eq_decide_eq]
    · rw [hbox]
      exact statusWord_stage (by have := h.2.1; split at this <;> omega)
    · rw [hbox]; rfl
    · rw [hbox]; rfl
    · rw [htrim, bootTrim_val _ hj]
    · rw [State.core, hcores, bootCores_val]
      split
      · exact ⟨rfl, by simp_all [CoreSt.reset]⟩
      · exact ⟨rfl, by simp_all [CoreSt.excluded]⟩
  case supply =>
    obtain ⟨t, n, ok, ht, hmem, hcores, hout, hpkg⟩ := exec_supplyLossWarning_stops h
    refine ⟨t, ht, hmem, hcores, by rw [hpkg], by rw [hpkg], ?_, n, ok, by simp [hout]⟩
    rw [hpkg]; simp
  case supplyAgain => exact exec_supplyLossWarning_stopped h

end Sys2Proof.Machine
end

section
namespace Sys2Proof.Machine

/-! ### What the units of the device change (R238 to R241, R267, R371) -/

/-- What units change when they push a record or a message: memory, what is sent outward, the dies with their queues, the clusters, and
the log of a target. -/
def State.withUnits (s t : State) : State :=
  { s with
    mem := t.mem, keyed := t.keyed, pois := t.pois, fog := t.fog, l2 := t.l2, out := t.out, dies := t.dies, clusters := t.clusters
    pkg := { s.pkg with tlog := t.pkg.tlog } }

/-- Units have pushed something, and nothing else has changed. -/
def State.unitOnly (s t : State) : Prop := t = s.withUnits t

theorem State.unitOnly_refl (s : State) : s.unitOnly s := rfl

theorem State.unitOnly_trans {s t u : State} (h : s.unitOnly t) (k : t.unitOnly u) : s.unitOnly u := by
  unfold State.unitOnly at *
  rw [k, h]; rfl

theorem State.unitOnly_memOnly {s t : State} (h : s.memOnly t) : s.unitOnly t := by
  unfold State.memOnly at h
  rw [h]; rfl

theorem State.unitOnly.cores {s t : State} (h : s.unitOnly t) : t.cores = s.cores := by rw [h]; rfl

theorem State.unitOnly.seat {s t : State} (h : s.unitOnly t) (c : CoreId) (k : SeatId) : t.seat c k = s.seat c k := by
  rw [State.seat, State.core, h.cores]; rfl

theorem State.unitOnly.links {s t : State} (h : s.unitOnly t) : t.pkg.links = s.pkg.links := by rw [h]; rfl

theorem State.unitOnly.colls {s t : State} (h : s.unitOnly t) : t.pkg.colls = s.pkg.colls := by rw [h]; rfl

theorem State.unitOnly_ite {s t u : State} {p : Prop} [Decidable p] (h : s.unitOnly t) (k : s.unitOnly u) :
    s.unitOnly (if p then t else u) := by
  split
  · exact h
  · exact k

theorem State.unitOnly_l2Segs (s : State) (wr : Bool) (l : List Seg) : s.unitOnly (s.l2Segs wr l) := by
  rw [State.l2Segs_eq]; rfl

theorem State.unitOnly_setQueue (s : State) (d : DieId) (n : Nat) (q : QueueSt) : s.unitOnly (s.setQueue d n q) := rfl

theorem State.unitOnly_modCluster (s : State) (d : DieId) (n : Nat) (f : ClusterSt → ClusterSt) : s.unitOnly (s.modCluster d n f) := rfl

theorem State.unitOnly_putPages (s : State) (w : Who) (l : List (Nat × Nat)) (o : Nat) (b : List (Byte × Bool)) :
    s.unitOnly (s.putPages w l o b).1 := by
  induction l generalizing s o b with
  | nil => exact s.unitOnly_refl
  | cons p r ih =>
    unfold State.putPages
    split
    · exact State.unitOnly_trans (State.unitOnly_trans (s.unitOnly_l2Segs true _)
        (State.unitOnly_memOnly (State.memOnly_storeMarked _ _ _).1)) (ih _ _ _)
    · exact ih _ _ _

theorem State.unitOnly_ringWrite (s : State) (q : QueueSt) (l : Cls) (n : Nat) (b : List (Byte × Bool)) :
    s.unitOnly (s.ringWrite q l n b).1 := s.unitOnly_putPages ..

theorem State.unitOnly_moveQueue (s : State) (d : DieId) (n : Nat) (q : QueueSt) : s.unitOnly (s.moveQueue d n q) := by
  unfold State.moveQueue State.mirror
  split
  · exact s.unitOnly_setQueue d n q
  · exact State.unitOnly_trans (s.unitOnly_setQueue d n q) (State.unitOnly_memOnly (State.memOnly_wrVa ..).1)

theorem State.unitOnly_retireAt (s : State) (d : DieId) (n : Nat) (q : QueueSt) : s.unitOnly (s.retireAt d n q) :=
  State.unitOnly_ite (s.unitOnly_setQueue d n q) (s.unitOnly_moveQueue d n _)

theorem State.unitOnly_reserve (s : State) (d : DieId) (n : Nat) (q : QueueSt) (o : Nat) (b : List Byte) (p : List Bool) (y : PushBy) :
    s.unitOnly (s.reserve d n q o b p y).1 :=
  State.unitOnly_trans (State.unitOnly_trans (State.unitOnly_ite s.unitOnly_refl (s.unitOnly_ringWrite ..))
    (State.unitOnly_ringWrite ..)) (State.unitOnly_moveQueue ..)

theorem State.unitOnly_publish (s : State) (d : DieId) (n : Nat) : s.unitOnly (s.publish d n) := by
  unfold State.publish
  split
  · exact s.unitOnly_refl
  · exact s.unitOnly_retireAt ..

theorem State.unitOnly_pushRec (s : State) (d : DieId) (n : Nat) (b : List Byte) : s.unitOnly (s.pushRec d n b).1 := by
  unfold State.pushRec
  split
  · exact s.unitOnly_refl
  · split
    · exact State.unitOnly_trans (s.unitOnly_reserve ..) (State.unitOnly_publish ..)
    · exact s.unitOnly_setQueue ..

theorem State.unitOnly_outbox {s t : State} {d : DieId} {k : Nat} {m : List Byte} (h : s.outbox d k m = some t) : s.unitOnly t := by
  have put (u : QueueSt) (m : List Byte) : s.unitOnly (((s.reserve d (0xFF8 + k) u 0 m [] .unit).1).publish d (0xFF8 + k)) :=
    State.unitOnly_trans (s.unitOnly_reserve ..) (State.unitOnly_publish ..)
  unfold State.outbox at h
  dsimp only at h
  split at h
  · cases h
  · split at h <;> split at h <;> cases h
    · exact State.unitOnly_trans (put _ _) (State.unitOnly_modCluster ..)
    · exact put _ _

theorem State.unitOnly_drain (s : State) (d : DieId) (k : Nat) : s.unitOnly (s.drain d k) := by
  have msgs (l : List (List Byte)) : ∀ s : State, s.unitOnly (s.drainMsgs d k l).1 := by
    induction l with
    | nil => exact State.unitOnly_refl
    | cons m r ih =>
      intro s
      unfold State.drainMsgs
      split
      · exact State.unitOnly_trans (State.unitOnly_outbox ‹_›) (ih _)
      · exact s.unitOnly_refl
  unfold State.drain
  exact State.unitOnly_trans (msgs (s.cluster d k).omsg s) (State.unitOnly_modCluster ..)

theorem State.unitOnly_stewPush (s : State) (d : DieId) (k : Nat) (m : List Byte) : s.unitOnly (s.stewPush d k m) := by
  unfold State.stewPush
  dsimp only
  split
  · rename_i t h
    split at h
    · exact State.unitOnly_trans (s.unitOnly_drain d k) (State.unitOnly_outbox h)
    · cases h
  · exact State.unitOnly_ite (State.unitOnly_trans (s.unitOnly_drain d k) (State.unitOnly_modCluster ..))
      (State.unitOnly_trans (s.unitOnly_drain d k) (State.unitOnly_modCluster ..))

/-- The record of a failed translation or a refused request is a unit's push (R371, R375). -/
theorem State.unitOnly_recordFault (s : State) (w : Who) (c : CoreId) (k : SeatId) (u n : Nat) (f : XFault) :
    s.unitOnly (s.recordFault w c k u n f) := by
  have log (t : State) : t.unitOnly (t.refuseLog w c u n f.pa f.kind) := by
    unfold State.refuseLog State.faultEvent
    refine State.unitOnly_trans ?_ (State.unitOnly_stewPush ..)
    rfl
  exact State.unitOnly_ite (State.unitOnly_trans (s.unitOnly_pushRec ..) (log _)) (s.unitOnly_pushRec ..)

/-- The end of a pop moves the head of its queue, and what its steward still has to push is pushed (R239, R241, R267). -/
theorem State.unitOnly_popDone (s : State) (i : QId) : s.unitOnly (s.popDone i) := by
  have head (u : QueueSt) : s.unitOnly (s.popHead i.die i.num u) := by
    unfold State.popHead
    dsimp only
    split
    · exact s.unitOnly_refl
    · exact State.unitOnly_trans (s.unitOnly_moveQueue ..) (State.unitOnly_retireAt ..)
  have mirror (t : State) : t.unitOnly (t.mirrorFault i.die i.num) := by
    unfold State.mirrorFault
    split
    · exact t.unitOnly_recordFault ..
    · exact t.unitOnly_refl
  unfold State.popDone
  split
  · exact s.unitOnly_refl
  · exact State.unitOnly_ite (State.unitOnly_trans (State.unitOnly_trans (head _) (mirror _)) (State.unitOnly_drain ..))
      (State.unitOnly_trans (head _) (mirror _))

/-! ### A failure at one seat -/

/-- No result of a seat waits for another to be performed. -/
def SeatSt.unordered (q : SeatSt) : Prop := ∀ w ∈ q.vres, w.after = []

theorem SeatSt.unordered_congr {p q : SeatSt} (h : p.dues = q.dues) : p.unordered ↔ q.unordered := by
  rw [SeatSt.unordered, SeatSt.unordered, show p.vres = q.vres from congrArg Prod.fst h]

/-- Results of one seat have failed: links and every other seat's results and causes are as they were, its causes stay, and none of its
results has come to wait for another. -/
structure State.failsAt (c : CoreId) (k : SeatId) (s t : State) : Prop where
  links : t.pkg.links = s.pkg.links
  others : ∀ d j, (d, j) ≠ (c, k) → (t.seat d j).dues = (s.seat d j).dues
  pend : (s.seat c k).pend ⊆ (t.seat c k).pend
  unordered : (s.seat c k).unordered → (t.seat c k).unordered

section FailsAt
variable {c : CoreId} {k : SeatId}

theorem State.failsAt_refl (s : State) : State.failsAt c k s s := ⟨rfl, fun _ _ _ => rfl, fun _ h => h, id⟩

theorem State.failsAt_trans {s t u : State} (h : State.failsAt c k s t) (g : State.failsAt c k t u) : State.failsAt c k s u :=
  ⟨g.links.trans h.links, fun d j hd => (g.others d j hd).trans (h.others d j hd), fun _ ha => g.pend (h.pend ha),
    fun hq => g.unordered (h.unordered hq)⟩

theorem State.failsAt_unitOnly {s t : State} (h : s.unitOnly t) : State.failsAt c k s t :=
  ⟨h.links, fun d j _ => by rw [h.seat], by rw [h.seat]; exact fun _ h => h, by rw [h.seat]; exact id⟩

theorem State.failsAt_pendCause (s : State) (a : Cause) : State.failsAt c k s (s.pendCause c k a) := by
  refine ⟨rfl, fun d j h => by rw [State.pendCause, State.seat_modSeat_ne s _ h], ?_, ?_⟩
  · rw [State.seat_pendCause]
    exact fun b hb => Cause.mem_insert.2 (.inr hb)
  · rw [State.seat_pendCause]
    exact id

/-- A result put in the place of one, or taken out, where it waits for none. -/
theorem State.failsAt_putRes (s : State) (id : Nat) {v : Vres} (hv : v.after = []) :
    State.failsAt c k s (s.modSeat c k fun q => q.putRes id (some v)) := by
  refine ⟨rfl, fun d j h => by rw [State.seat_modSeat_ne s _ h], ?_, ?_⟩
  · rw [State.seat_modSeat]
    exact fun _ h => h
  · rw [State.seat_modSeat]
    intro hq w hw
    obtain ⟨x, hx, hxw⟩ := List.mem_filterMap.1 hw
    split at hxw
    · cases hxw; exact hv
    · cases hxw; exact hq _ hx

/-- A result lands for which no other waits. -/
theorem State.failsAt_landRes {s : State} (hq : (s.seat c k).unordered) (i : Nat) (v : Vres) : State.failsAt c k s (s.landRes c k i v) := by
  obtain ⟨hc, hd, ho⟩ := State.landRes_keeps (v := v) i fun w hw => by rw [hq w hw]; exact List.not_mem_nil
  refine ⟨congrArg PkgSt.links hc.pkg, ho, ?_, ?_⟩
  · rw [show (State.seat _ c k).pend = _ from congrArg Prod.snd hd]
    unfold withBad
    split
    · exact fun _ h => h
    · exact fun _ h => Cause.mem_insert.2 (.inr h)
  · intro _ w hw
    rw [show (State.seat _ c k).vres = _ from congrArg Prod.fst hd] at hw
    exact hq w (List.mem_of_mem_eraseIdx hw)

theorem State.failsAt_pushWritten (s : State) (r : PushReq) (b : List (Byte × Bool)) : State.failsAt c k s (s.pushWritten c k r b) := by
  unfold State.pushWritten
  dsimp only
  split
  · exact State.failsAt_unitOnly (State.unitOnly_ite s.unitOnly_refl rfl)
  · split
    · exact State.failsAt_refl s
    · have ring (u q : QueueSt) (o : Cls) (d : DieId) (m n : Nat) (b : List (Byte × Bool)) :
          s.unitOnly ((s.ringWrite u o n b).1.setQueue d m q) :=
        State.unitOnly_trans (s.unitOnly_ringWrite u o n b) (State.unitOnly_setQueue ..)
      split
      · exact State.failsAt_unitOnly (ring ..)
      · exact State.failsAt_trans (State.failsAt_unitOnly (State.unitOnly_trans (ring ..) (State.unitOnly_recordFault ..)))
          (State.failsAt_pendCause _ _)

theorem State.failsAt_copyOut (s : State) (a : Word) (b : List (Byte × Bool)) : State.failsAt c k s (s.copyOut c k a b).1 := by
  unfold State.copyOut
  dsimp only
  split
  · exact State.failsAt_unitOnly (s.unitOnly_putPages ..)
  · exact State.failsAt_trans (State.failsAt_unitOnly (State.unitOnly_trans (s.unitOnly_putPages ..) (State.unitOnly_recordFault ..)))
      (State.failsAt_pendCause _ _)

/-- A push goes on without the bytes that its payload should have brought (R240, R419). -/
theorem State.failsAt_pushCome (s : State) {v : Vres} (hv : v.after = []) (r : PushReq) (a : FarAns) (e : Bits16 × Word) :
    State.failsAt c k s (s.pushCome c k v r a (some e)) := by
  unfold State.pushCome
  exact State.failsAt_trans (State.failsAt_trans (s.failsAt_pushWritten r _) (State.failsAt_putRes _ v.id
    (v := { v with todo := none, remote := r.away, ready := !(r.away && r.ack) }) hv)) (State.failsAt_pendCause _ ⟨e.1, 4, 0, e.2, 0⟩)

/-- A pop goes on without the bytes that it should have read, or without its copy (R241, R419). -/
theorem State.failsAt_popCome (s : State) {v : Vres} (hv : v.after = []) (r : PopReq) (a : FarAns) (e : Bits16 × Word) :
    State.failsAt c k s (s.popCome c k v r a (some e)) := by
  have done (t : State) {w : Vres} (hw : w.after = []) :
      State.failsAt c k t ((t.popDone (qidOf (BitVec.ofNat 64 r.raw))).modSeat c k fun q => q.putRes v.id (some w)) :=
    State.failsAt_trans (State.failsAt_unitOnly (t.unitOnly_popDone _)) (State.failsAt_putRes _ _ hw)
  have copied (b : List (Byte × Bool)) {w x : Vres} (hw : w.after = []) (hx : x.after = []) :
      State.failsAt c k s (if (s.copyOut c k r.buf b).2 then (s.copyOut c k r.buf b).1.modSeat c k fun q => q.putRes v.id (some w)
        else ((s.copyOut c k r.buf b).1.popDone (qidOf (BitVec.ofNat 64 r.raw))).modSeat c k fun q => q.putRes v.id (some x)) := by
    split
    · exact State.failsAt_trans (s.failsAt_copyOut _ _) (State.failsAt_putRes _ _ hw)
    · exact State.failsAt_trans (s.failsAt_copyOut _ _) (done _ hx)
  have fin : ({ v with todo := none, remote := false, ready := true } : Vres).after = [] := hv
  unfold State.popCome
  cases r.read with
  | some l => exact copied _ (w := { v with todo := some (.pop { r with read := none }) }) hv fin
  | none => exact State.failsAt_trans (done s fin) (State.failsAt_pendCause _ ⟨e.1, 4, 0, e.2, 0⟩)

/-- An outstanding transaction that fails changes its own seat alone (R419, R420, R422). -/
theorem State.failsAt_failTrans {s : State} (hq : (s.seat c k).unordered) (i : Nat) {v : Vres} (hv : v.after = []) :
    State.failsAt c k s (s.failTrans c k i v) := by
  unfold State.failTrans
  split
  · exact State.failsAt_landRes hq i _
  · split
    · by_cases hpush : ∃ p, v.todo = some (.push p)
      · obtain ⟨p, hp⟩ := hpush
        unfold State.failRes
        rw [hp]
        exact s.failsAt_pushCome hv p _ _
      · by_cases hpop : ∃ p, v.todo = some (.pop p)
        · obtain ⟨p, hp⟩ := hpop
          unfold State.failRes
          rw [hp]
          exact s.failsAt_popCome hv p _ _
        · obtain ⟨w, hw, -⟩ := State.failRes_eq (not_exists.1 hpush) (not_exists.1 hpop) s c k i
            { FarAns.none with err := some .link } (fLink, BitVec.ofNat 64 (v.errAddr FarAns.none))
          rw [hw]
          exact State.failsAt_landRes hq i w
    · exact State.failsAt_refl s

end FailsAt

end Sys2Proof.Machine
end

section
namespace Sys2Proof.Machine

/-- A number found in a table is listed. -/
theorem Tab.mem_of_find {α : Type} {t : Tab α} {k : Nat} {x : α} (h : t.find k = some x) : (k, x) ∈ t := by
  induction t with
  | nil => cases h
  | cons p r ih =>
    obtain ⟨i, y⟩ := p
    unfold Tab.find at h
    split at h
    · rename_i hi
      cases h; subst hi
      exact List.mem_cons_self
    · exact List.mem_cons_of_mem _ (ih h)

/-! ### What engine entries leave of the seats (R180, R201, R220) -/

@[simp] theorem CoreSt.modTile_seat (x : CoreSt) (n : Nat) (f : Tile → Tile) : (x.modTile n f).seat = x.seat := rfl

@[simp] theorem CoreSt.setQueue_seat (x : CoreSt) (n : Nat) (t : Tab Entry) : (x.setQueue n t).seat = x.seat := by
  unfold CoreSt.setQueue; split <;> rfl

@[simp] theorem CoreSt.abandon_seat (x : CoreSt) (n : Nat) : (x.abandon n).seat = x.seat := rfl

@[simp] theorem CoreSt.promote_seat (x : CoreSt) (now : Nat) : (x.promote now).seat = x.seat := rfl

@[simp] theorem CoreSt.leaveUnit_seat (x : CoreSt) (n : Nat) (e : Entry) (now : Nat) : (x.leaveUnit n e now).seat = x.seat := by
  unfold CoreSt.leaveUnit; split <;> rfl

/-- Changes of slots, one after the other, leave the seats. -/
theorem CoreSt.modTiles_seat (g : Tile → Tile) (l : List Nat) (x : CoreSt) :
    (l.foldl (fun (x : CoreSt) n => x.modTile n g) x).seat = x.seat := by
  induction l generalizing x with
  | nil => rfl
  | cons n r ih => rw [List.foldl_cons, ih, CoreSt.modTile_seat]

@[simp] theorem CoreSt.pinAll_seat (x : CoreSt) (u : Nat) (b : Bool) (l : List Nat) : (x.pinAll u b l).seat = x.seat :=
  CoreSt.modTiles_seat _ l x

@[simp] theorem CoreSt.modEnt_seat (x : CoreSt) (n ix : Nat) (f : Entry → Entry) : (x.modEnt n ix f).seat = x.seat := by
  unfold CoreSt.modEnt
  dsimp only
  split
  · rfl
  · split
    · simp
    · split <;> simp

@[simp] theorem CoreSt.delEnt_seat (x : CoreSt) (n ix : Nat) : (x.delEnt n ix).seat = x.seat := by
  unfold CoreSt.delEnt
  dsimp only
  split
  · rfl
  · split <;> simp

@[simp] theorem CoreSt.count_seat (x : CoreSt) (n : Nat) (e : Entry) (f : HalfCnt → HalfCnt) : (x.count n e f).seat = x.seat := by
  unfold CoreSt.count
  dsimp only
  split <;> split <;> rfl

/-- Links and every seat's results are as they were, and its causes stay. -/
structure State.grows (s t : State) : Prop where
  links : t.pkg.links = s.pkg.links
  vres : ∀ d j, (t.seat d j).vres = (s.seat d j).vres
  pend : ∀ d j, (s.seat d j).pend ⊆ (t.seat d j).pend

theorem State.grows_refl (s : State) : s.grows s := ⟨rfl, fun _ _ => rfl, fun _ _ _ h => h⟩

theorem State.grows_trans {s t u : State} (h : s.grows t) (g : t.grows u) : s.grows u :=
  ⟨g.links.trans h.links, fun d j => (g.vres d j).trans (h.vres d j), fun d j _ ha => g.pend d j (h.pend d j ha)⟩

theorem State.grows_of_dues {s t : State} (hl : t.pkg.links = s.pkg.links) (h : ∀ d j, (t.seat d j).dues = (s.seat d j).dues) : s.grows t :=
  ⟨hl, fun d j => congrArg Prod.fst (h d j), fun d j a ha => by rwa [show (t.seat d j).pend = _ from congrArg Prod.snd (h d j)]⟩

theorem State.grows_ite {s t u : State} {p : Prop} [Decidable p] (h : s.grows t) (k : s.grows u) : s.grows (if p then t else u) := by
  split
  · exact h
  · exact k

/-- A change of a core that leaves its seats. -/
theorem State.grows_modCore (s : State) (c : CoreId) {f : CoreSt → CoreSt} (h : ∀ x, (f x).seat = x.seat) : s.grows (s.modCore c f) :=
  State.grows_of_dues rfl (State.seat_modCore_keeps SeatSt.dues s c fun x j => by rw [CoreSt.seatAt, h]; rfl)

theorem State.grows_modSeat (s : State) (c : CoreId) (k : SeatId) {f : SeatSt → SeatSt} (h : ∀ q, (f q).dues = q.dues) :
    s.grows (s.modSeat c k f) := State.grows_of_dues rfl (State.seat_modSeat_keeps SeatSt.dues s c k h)

theorem State.grows_pendCause (s : State) (c : CoreId) (k : SeatId) (a : Cause) : s.grows (s.pendCause c k a) := by
  have own := s.seat_pendCause c k a
  refine ⟨rfl, State.seat_modSeat_keeps SeatSt.vres s c k ?_, fun d j => ?_⟩
  · exact fun _ => rfl
  by_cases h : (d, j) = (c, k)
  · cases h
    rw [own]
    exact fun b hb => Cause.mem_insert.2 (.inr hb)
  · rw [State.pendCause, State.seat_modSeat_ne s _ h]
    exact fun _ hb => hb

theorem State.grows_engFault (s : State) (c : CoreId) (n ix : Nat) (code : Bits16) (val : Word) : s.grows (s.engFault c n ix code val) := by
  unfold State.engFault
  split
  · exact s.grows_refl
  · dsimp only
    refine State.grows_trans ?_ (State.grows_pendCause _ _ _ _)
    split
    · exact State.grows_trans (s.grows_modCore c fun x => by simp) (State.grows_modSeat _ _ _ fun _ => rfl)
    · exact s.grows_modCore c fun x => by simp

theorem State.grows_rewind (s : State) (c : CoreId) (n ix : Nat) (w : Nat × Bits16 × Word) : s.grows (s.rewind c n ix w) :=
  State.grows_trans (s.grows_modCore c fun x => by simp) (State.grows_engFault ..)

theorem State.grows_foldl {α : Type} {g : State → α → State} (hg : ∀ (s : State) (a : α), s.grows (g s a)) (l : List α) (s : State) :
    s.grows (l.foldl g s) := by
  induction l generalizing s with
  | nil => exact s.grows_refl
  | cons a r ih => exact State.grows_trans (hg s a) (ih _)

theorem State.grows_discardAt (s : State) (c : CoreId) (n ix now : Nat) : s.grows (s.discardAt c n ix now) := by
  have slots (e : Entry) : s.grows (s.leaveSlots c e) := by
    have one (s : State) (c : CoreId) (g : Tile → Tile) : s.grows (s.modCore c fun x => e.held.foldl (fun x n => x.modTile n g) x) :=
      s.grows_modCore c (CoreSt.modTiles_seat g e.held)
    unfold State.leaveSlots
    dsimp only
    split
    · exact State.grows_foldl (fun s _ => one s _ _) _ s
    · exact one s c _
  unfold State.discardAt
  split
  · exact s.grows_refl
  · refine State.grows_trans (State.grows_trans (slots _) (State.grows_modSeat _ _ _ ?_)) (State.grows_modCore _ _ ?_)
    · exact fun _ => rfl
    · exact fun x => by simp

/-- An engine entry whose transactions fail brings causes and takes none away (R13, R234, R420). -/
theorem State.grows_failEntry (s : State) (l : LinkId) (c : CoreId) (n ix : Nat) (e : Entry) : s.grows (s.failEntry l c n ix e) := by
  have fails (v : Bits16 × Word) : s.grows (s.stepFails c n ix e v) := by
    unfold State.stepFails
    split
    · exact s.grows_discardAt ..
    · split
      · exact s.grows_rewind ..
      · exact s.grows_engFault ..
  unfold State.failEntry
  refine State.grows_ite (fails _) ?_
  cases e.wout with
  | nil => exact s.grows_refl
  | cons k r =>
    refine State.grows_ite s.grows_refl (State.grows_trans (s.grows_modCore c fun x => ?_)
      (State.grows_ite (State.grows_modCore _ _ fun x => ?_) (State.grows_rewind ..))) <;> exact CoreSt.modEnt_seat ..

/-! ### Routes recomputed (R420) -/

/-- A seat of the machine has one result outstanding, for a device that a dead link reached, and no result of the machine waits for
another. -/
structure State.owesAt (l : LinkId) (x : LinkSt) (c : CoreId) (k : SeatId) (v : Vres) (s : State) : Prop where
  link : s.link l = x
  vres : (s.seat c k).vres = [v]
  unordered : ∀ d j, (s.seat d j).unordered

/-- The result of a seat has failed: its cause is pending. -/
structure State.failedAt (c : CoreId) (k : SeatId) (v : Vres) (s : State) : Prop where
  vres : (s.seat c k).vres = []
  cause : ∃ a ∈ (s.seat c k).pend, a.code = fLink ∧ a.tval = v.addr
  unordered : ∀ d j, (s.seat d j).unordered

/-- A fold that turns one condition into another at an element of its list. -/
theorem foldl_turns {σ α : Type} {W F : σ → Prop} {g : σ → α → σ} {l : List α} {a : α} (ha : a ∈ l)
    (hW : ∀ s b, W s → W (g s b) ∨ F (g s b)) (hF : ∀ s b, F s → F (g s b)) (hturn : ∀ s, W s → F (g s a)) {s : σ} (h : W s) :
    F (l.foldl g s) := by
  have stay (l : List α) : ∀ s, F s → F (l.foldl g s) := by
    induction l with
    | nil => exact fun _ h => h
    | cons b r ih => exact fun s h => ih _ (hF s b h)
  induction l generalizing s with
  | nil => cases ha
  | cons b r ih =>
    rcases List.mem_cons.1 ha with rfl | ha
    · exact stay r _ (hturn s h)
    · exact (hW s b h).elim (ih ha) (stay r _)

theorem State.link_congr {s t : State} (h : t.pkg.links = s.pkg.links) (l : LinkId) : t.link l = s.link l := by
  rw [State.link, State.link, h]

section Routes
variable {l : LinkId} {x : LinkSt} {c : CoreId} {k : SeatId} {v : Vres} {s t : State}

theorem State.owesAt_grows (h : s.owesAt l x c k v) (g : s.grows t) : t.owesAt l x c k v :=
  ⟨(State.link_congr g.links l).trans h.link, (g.vres c k).trans h.vres,
    fun d j => by rw [SeatSt.unordered, g.vres]; exact h.unordered d j⟩

theorem State.failedAt_grows (h : s.failedAt c k v) (g : s.grows t) : t.failedAt c k v :=
  ⟨(g.vres c k).trans h.vres, h.cause.imp fun _ ⟨hm, hc⟩ => ⟨g.pend c k hm, hc⟩,
    fun d j => by rw [SeatSt.unordered, g.vres]; exact h.unordered d j⟩

/-- Failures at one seat leave every seat without results that wait for another. -/
theorem State.failsAt_unordered {d : CoreId} {j : SeatId} (h : ∀ d j, (s.seat d j).unordered) (g : State.failsAt d j s t) (e : CoreId)
    (i : SeatId) : (t.seat e i).unordered := by
  by_cases he : (e, i) = (d, j)
  · cases he; exact g.unordered (h _ _)
  · exact (SeatSt.unordered_congr (g.others e i he)).2 (h e i)

/-- The failures of a seat's results are failures at the seat. -/
theorem State.failsAt_failSeat (hq : (s.seat c k).unordered) : State.failsAt c k s (s.failSeat l c k) := by
  have each (is : List Nat) : ∀ t, State.failsAt c k s t → State.failsAt c k s (is.foldl (fun (t : State) i =>
      match (s.seat c k).vres[i]? with
      | none => t
      | some v => if v.owedBy.any (t.onRoute l) then t.failTrans c k i v else t) t) := by
    induction is with
    | nil => exact fun _ h => h
    | cons i r ih =>
      refine fun t h => ih _ ?_
      dsimp only
      split
      · exact h
      · rename_i v hv
        split
        · exact State.failsAt_trans h (State.failsAt_failTrans (h.unordered hq) i (hq v (List.mem_of_getElem? hv)))
        · exact h
  exact each _ s (State.failsAt_refl s)

theorem State.owesAt_failSeat {d : CoreId} {j : SeatId} (h : s.owesAt l x c k v) (hd : (c, k) ≠ (d, j)) :
    (s.failSeat l d j).owesAt l x c k v := by
  have g := State.failsAt_failSeat (l := l) (h.unordered d j)
  exact ⟨(State.link_congr g.links l).trans h.link, (congrArg Prod.fst (g.others c k hd)).trans h.vres, State.failsAt_unordered h.unordered g⟩

theorem State.failedAt_failSeat (h : s.failedAt c k v) (d : CoreId) (j : SeatId) : (s.failSeat l d j).failedAt c k v := by
  by_cases hd : (c, k) = (d, j)
  · cases hd
    have same : s.failSeat l c k = s := by rw [State.failSeat, h.vres]; rfl
    rwa [same]
  · have g := State.failsAt_failSeat (l := l) (h.unordered d j)
    have hk := g.others c k hd
    refine ⟨(congrArg Prod.fst hk).trans h.vres, ?_, State.failsAt_unordered h.unordered g⟩
    rw [show (State.seat _ c k).pend = _ from congrArg Prod.snd hk]
    exact h.cause

/-- An access to memory that is not a speculative row load, and no push or pop. -/
structure Vres.plain (v : Vres) : Prop where
  mem : v.kind.isMem = true
  row : ¬ (v.kind = .lds ∧ v.key = 8)
  push : ∀ p, v.todo ≠ some (.push p)
  pop : ∀ p, v.todo ≠ some (.pop p)

/-- An access that is outstanding without an answer fails with F_LINK at its address (R419, R420). -/
theorem State.failTrans_plain (hp : v.plain) (s : State) (c : CoreId) (k : SeatId) (i : Nat) :
    s.failTrans c k i v = s.failRes c k i v { FarAns.none with err := some .link } (fLink, v.addr) := by
  have qpush : (v.kind == .qpush) = false := by
    have := hp.mem
    cases hk : v.kind <;> simp_all [VKind.isMem, VKind.isLoad, VKind.isStore]
  have addr : BitVec.ofNat 64 (v.errAddr FarAns.none) = v.addr := by
    unfold Vres.errAddr
    split
    · exact absurd ‹_› (hp.push _)
    · simp [FarAns.none]
  rw [State.failTrans, qpush, hp.mem, addr]
  rfl

/-- What the failure of such an access leaves, where no other waits for it (R102, R284, R419). -/
theorem State.failTrans_keeps (hp : v.plain) (i : Nat) (h : ∀ w ∈ (s.seat c k).vres, v.id ∉ w.after) :
    s.coresL2 (s.failTrans c k i v) ∧ ((s.failTrans c k i v).seat c k).vres = (s.seat c k).vres.eraseIdx i
      ∧ ∃ a ∈ ((s.failTrans c k i v).seat c k).pend, a.code = fLink ∧ a.tval = v.addr ∧ a.src = 4 := by
  rw [State.failTrans_plain hp]
  obtain ⟨hc, hd, -⟩ := State.failRes_keeps (e := (fLink, v.addr)) i { FarAns.none with err := some .link } hp.push hp.pop h
  refine ⟨hc, congrArg Prod.fst hd, ?_⟩
  rw [show (State.seat _ c k).pend = _ from congrArg Prod.snd hd, if_neg]
  · exact exists_withBad _ _
  · have bus : (fLink == fBus) = false := by decide
    simpa [bus] using fun hk hkey => hp.row ⟨hk, hkey⟩

/-- The seat that owes the device of a dead port fails. -/
theorem State.owesAt_failSeat_self (h : s.owesAt l x c k v) (hp : v.plain) (hl : l.port.toNat < 64) (hv : x.partner.toNat ∈ v.owedBy) :
    (s.failSeat l c k).failedAt c k v := by
  have after : v.after = [] := h.unordered c k v (by rw [h.vres]; exact List.mem_singleton_self v)
  have unwaited : ∀ w ∈ (s.seat c k).vres, v.id ∉ w.after := fun w hw => by rw [h.unordered c k w hw]; exact List.not_mem_nil
  have route : v.owedBy.any (s.onRoute l) = true := List.any_eq_true.2 ⟨_, hv, by simp [State.onRoute, hl, h.link]⟩
  have seat : s.failSeat l c k = s.failTrans c k 0 v := by
    rw [State.failSeat, h.vres]
    show (if v.owedBy.any (s.onRoute l) then s.failTrans c k 0 v else s) = _
    rw [if_pos route]
  rw [seat]
  obtain ⟨-, hvres, a, ha, hcode, hval, -⟩ := State.failTrans_keeps hp 0 unwaited
  exact ⟨by rw [hvres, h.vres]; rfl, ⟨a, ha, hcode, hval⟩,
    State.failsAt_unordered h.unordered (State.failsAt_failTrans (h.unordered c k) 0 after)⟩

end Routes

/-- The results of a core's strands on a dead route fail. -/
def State.failSeats (s : State) (l : LinkId) (d : CoreId) : State := seatIds.foldl (fun (s : State) j => s.failSeat l d j) s

/-- The entries of a core's engines on a dead route fail. -/
def State.failEntries (s : State) (l : LinkId) (d : CoreId) : State :=
  [0, 1, 2].foldl (fun (s : State) n => ((s.core d).queue n).foldl (fun (s : State) p => s.failEntry l d n p.1 p.2) s) s

theorem State.failCore_eq (s : State) (l : LinkId) (d : CoreId) : s.failCore l d = (s.failSeats l d).failEntries l d := rfl

theorem State.grows_failEntries (s : State) (l : LinkId) (d : CoreId) : s.grows (s.failEntries l d) :=
  State.grows_foldl (fun s n => State.grows_foldl (fun s (p : Nat × Entry) => s.grows_failEntry l d n p.1 p.2) _ s) _ s

section Cores
variable {l : LinkId} {x : LinkSt} {c : CoreId} {k : SeatId} {v : Vres} {s : State}

theorem State.owesAt_failCore {d : CoreId} (h : s.owesAt l x c k v) (hd : c ≠ d) : (s.failCore l d).owesAt l x c k v := by
  have seats (js : List SeatId) : ∀ s : State, s.owesAt l x c k v → (js.foldl (fun (s : State) j => s.failSeat l d j) s).owesAt l x c k v := by
    induction js with
    | nil => exact fun _ h => h
    | cons j r ih => exact fun s h => ih _ (State.owesAt_failSeat h fun e => hd (congrArg Prod.fst e))
  rw [State.failCore_eq]
  exact State.owesAt_grows (seats seatIds s h) (State.grows_failEntries _ l d)

theorem State.failedAt_failCore (h : s.failedAt c k v) (d : CoreId) : (s.failCore l d).failedAt c k v := by
  have seats (js : List SeatId) : ∀ s : State, s.failedAt c k v → (js.foldl (fun (s : State) j => s.failSeat l d j) s).failedAt c k v := by
    induction js with
    | nil => exact fun _ h => h
    | cons j r ih => exact fun s h => ih _ (State.failedAt_failSeat h d j)
  rw [State.failCore_eq]
  exact State.failedAt_grows (seats seatIds s h) (State.grows_failEntries _ l d)

theorem State.owesAt_failCore_self (h : s.owesAt l x c k v) (hp : v.plain) (hl : l.port.toNat < 64) (hv : x.partner.toNat ∈ v.owedBy) :
    (s.failCore l c).failedAt c k v := by
  have mem : ∀ k : SeatId, k ∈ seatIds := by decide
  rw [State.failCore_eq]
  refine State.failedAt_grows ?_ (State.grows_failEntries _ l c)
  refine foldl_turns (W := State.owesAt l x c k v) (F := State.failedAt c k v) (mem k) (fun s j hs => ?_)
    (fun s j hs => State.failedAt_failSeat hs c j) (fun s hs => State.owesAt_failSeat_self hs hp hl hv) h
  by_cases hj : k = j
  · subst hj; exact .inr (State.owesAt_failSeat_self hs hp hl hv)
  · exact .inl (State.owesAt_failSeat hs fun e => hj (congrArg Prod.snd e))

/-- With all cores' transactions on the dead route failed, so has the seat's. -/
theorem State.owesAt_failCores (h : s.owesAt l x c k v) (hp : v.plain) (hl : l.port.toNat < 64) (hv : x.partner.toNat ∈ v.owedBy) :
    (s.cores.foldl (fun (s : State) (p : Nat × CoreSt) => s.failCore l (BitVec.ofNat 8 p.1)) s).failedAt c k v := by
  have listed : ∃ y, s.cores.find c.toNat = some y := by
    have owes := h.vres
    rw [State.seat, State.core, Tab.val_eq_find] at owes
    cases hc : s.cores.find c.toNat with
    | none => rw [hc] at owes; cases owes
    | some y => exact ⟨y, rfl⟩
  obtain ⟨y, hy⟩ := listed
  refine foldl_turns (W := State.owesAt l x c k v) (F := State.failedAt c k v) (Tab.mem_of_find hy) (fun s p hs => ?_)
    (fun s p hs => State.failedAt_failCore hs _) (fun s hs => ?_) h
  · by_cases hc : c = BitVec.ofNat 8 p.1
    · rw [← hc]; exact .inr (State.owesAt_failCore_self hs hp hl hv)
    · exact .inl (State.owesAt_failCore hs hc)
  · rw [show BitVec.ofNat 8 c.toNat = c by simp]
    exact State.owesAt_failCore_self hs hp hl hv

end Cores

/-! ### Collectives that fail (R420, R424, R426) -/

/-- A collective changed is a change of the package alone. -/
theorem State.modColl_seat (s : State) (f : FuncId) (key : Word) (m : Nat) (g : CollSt → CollSt) (c : CoreId) (k : SeatId) :
    (s.modColl f key m g).seat c k = s.seat c k := rfl

/-- Destinations that have no known values any more are written, and nothing else is (R426). -/
theorem State.memOnly_fogDsts (l : List Joiner) (s : State) : s.memOnly (l.foldl State.fogDst s) := by
  induction l generalizing s with
  | nil => exact s.memOnly_refl
  | cons j r ih =>
    refine State.memOnly_trans ?_ (ih _)
    unfold State.fogDst
    split
    · exact s.memOnly_refl
    · exact (State.memOnly_wrSegs s _ _).1

/-- What fails a collective's participants leaves a seat without results as it was. -/
theorem State.failColl_idle {s : State} {c : CoreId} {k : SeatId} (h : (s.seat c k).vres = []) (x : CollSt) (r : Nat) :
    ((s.failColl x r).seat c k).dues = (s.seat c k).dues := by
  have told (l : List Joiner) : ∀ t : State, (t.seat c k).dues = (s.seat c k).dues →
      ((l.foldl (fun (s : State) j => s.tellJoin j (some r)) t).seat c k).dues = (s.seat c k).dues := by
    induction l with
    | nil => exact fun _ h => h
    | cons j q ih =>
      refine fun t ht => ih _ ?_
      have ht0 : (t.seat c k).vres = [] := (congrArg Prod.fst ht).trans h
      unfold State.tellJoin State.answer
      by_cases hj : (c, k) = (j.core, j.seat)
      · cases hj
        rw [State.seat_modSeat, ← ht, SeatSt.dues, ht0, SeatSt.dues, ht0]; rfl
      · rw [State.seat_modSeat_ne _ _ hj, ht]
  unfold State.failColl
  rw [State.modColl_seat]
  refine told x.joined _ ?_
  split
  · rw [(State.unitOnly_memOnly (State.memOnly_fogDsts x.joined s)).seat]
  · rfl

/-- A seat whose result has failed stays so when collectives fail. -/
theorem State.failedAt_failAway {s : State} {c : CoreId} {k : SeatId} {v : Vres} (h : s.failedAt c k v) (p : CollSt → Bool) :
    ((s.failAway p).seat c k).dues = (s.seat c k).dues := by
  have each (l : List CollSt) : ∀ t : State, (t.seat c k).dues = (s.seat c k).dues →
      ((l.foldl (fun (s : State) x => s.failColl x 3) t).seat c k).dues = (s.seat c k).dues := by
    induction l with
    | nil => exact fun _ h => h
    | cons x r ih => exact fun t ht => ih _ ((State.failColl_idle ((congrArg Prod.fst ht).trans h.vres) x 3).trans ht)
  exact each _ s rfl

theorem exec_routeRecompute_up {s : State} {l : LinkId} (h : (s.link l).up = true) : exec (.routeRecompute l) s = .next s := by
  show execRouteRecompute l s = _
  rw [execRouteRecompute, if_pos h]

/-- An access that waits for the device of a dead port fails when the routes are recomputed (R420). -/
theorem exec_routeRecompute_fails {s : State} {l : LinkId} {c : CoreId} {k : SeatId} {v : Vres} (h : s.owesAt l (s.link l) c k v)
    (hup : (s.link l).up = false) (hp : v.plain) (hl : l.port.toNat < 64) (hv : (s.link l).partner.toNat ∈ v.owedBy) :
    ∃ t, exec (.routeRecompute l) s = .next t ∧ (t.seat c k).vres = [] ∧ ∃ a ∈ (t.seat c k).pend, a.code = fLink ∧ a.tval = v.addr := by
  have failed := State.owesAt_failCores h hp hl hv
  show ∃ t, execRouteRecompute l s = .next t ∧ _
  rw [execRouteRecompute, if_neg (by simp [hup])]
  generalize s.cores.foldl (fun (s : State) (p : Nat × CoreSt) => s.failCore l (BitVec.ofNat 8 p.1)) s = u at failed ⊢
  refine ⟨_, rfl, ?_⟩
  have same := State.failedAt_failAway failed fun y => y.joined.any fun j => (List.range 512).any fun d =>
    (cdMask j.desc).testBit d && d != u.pkg.devnum.toNat && u.onRoute l d
  simp only [SeatSt.dues, Prod.mk.injEq] at same
  exact ⟨same.1.trans failed.vres, by rw [same.2]; exact failed.cause⟩

end Sys2Proof.Machine
end

section
namespace Sys2Proof.Machine

/-! ### Transactions that nothing answers (R419, R422) -/

section Timeouts
variable {s : State} {c : CoreId} {k : SeatId} {ix : Bits8} {v : Vres} (h : (s.seat c k).vres[ix.toNat]? = some v)
include h

theorem exec_transactionTimeout_early (ht : s.cyc < v.ck + 800 * s.pkg.etmo) : exec (.transactionTimeout c k ix) s = .next s := by
  show execTransactionTimeout c k ix s = _
  simp [execTransactionTimeout, h, usCyc, ht]

theorem exec_transactionTimeout_late (ht : v.ck + 800 * s.pkg.etmo ≤ s.cyc) (hk : v.kind ≠ .coll) :
    exec (.transactionTimeout c k ix) s = .next (if v.owed then s.failTrans c k ix.toNat v else s) := by
  show execTransactionTimeout c k ix s = _
  simp [execTransactionTimeout, h, usCyc, Nat.not_lt.2 ht, hk]

end Timeouts

/-- The result of a push whose acknowledgement has not come: reason 5 (R422). -/
def Vres.unacked (v : Vres) : Vres := { v with data := BitVec.ofNat 8192 (2 ^ 63 + 5), ready := true }

theorem Vres.unacked_id (v : Vres) : v.unacked.id = v.id := by rw [Vres.unacked]

theorem Vres.unacked_dest (v : Vres) : v.unacked.dest = v.dest := by rw [Vres.unacked]

theorem Vres.unacked_data (v : Vres) : v.unacked.data.setWidth 64 = BitVec.ofNat 64 (2 ^ 63 + 5) :=
  BitVec.setWidth_ofNat_of_le (by omega) _

/-- A push whose acknowledgement does not come ends with its reason (R422). -/
theorem State.failTrans_qpush (s : State) (c : CoreId) (k : SeatId) (i : Nat) {v : Vres} (hk : v.kind = .qpush) (ht : v.todo = none) :
    s.failTrans c k i v = s.landRes c k i v.unacked := by
  simp [State.failTrans, Vres.unacked, hk, ht]

/-! ### Requests of other devices (R408, R410, R411, R423) -/

/-- A number put in its place joins those of a list. -/
theorem mem_insertNat {l : List Nat} {a b : Nat} : a ∈ insertNat l b ↔ a = b ∨ a ∈ l := by
  induction l with
  | nil => simp [insertNat]
  | cons i r ih =>
    unfold insertNat
    split
    · simp
    · split
      · simp_all
      · simp [ih, or_left_comm]

/-- Every granule made poisoned reads as poisoned (R161). -/
theorem State.mem_pois_poison (s : State) {gs : List Nat} {g : Nat} (h : g ∈ gs) : g ∈ (s.poison gs).pois := by
  have keep (gs : List Nat) : ∀ l : List Nat, g ∈ l → g ∈ gs.foldl insertNat l := by
    induction gs with
    | nil => exact fun _ h => h
    | cons i r ih => exact fun l hl => ih _ (mem_insertNat.2 (.inr hl))
  have join (gs : List Nat) : ∀ l : List Nat, g ∈ gs → g ∈ gs.foldl insertNat l := by
    induction gs with
    | nil => exact fun _ h => absurd h List.not_mem_nil
    | cons i r ih =>
      intro l hg
      rcases List.mem_cons.1 hg with rfl | hg
      · exact keep r _ (mem_insertNat.2 (.inl rfl))
      · exact ih _ hg
  exact join gs s.pois h

/-- Bytes written send nothing outward. -/
theorem State.wrBytes_out (s : State) (kid pa : Nat) (b : List Byte) : (s.wrBytes kid pa b).out = s.out := by
  have rekey (s : State) (g : Nat) : (s.rekey kid g).out = s.out := by unfold State.rekey; split <;> rfl
  induction b generalizing s pa with
  | nil => rfl
  | cons x r ih => rw [State.wrBytes, ih]; exact rekey s _

/-- The refusal of a request, which the target logs last of the 16 that it keeps (R375, R408). -/
theorem State.refuseFab_log (s : State) (src : FarDev) (pa : Nat) (a : AccKind) :
    ((s.refuseFab src pa a).pkg.tlog.val [] (if isHbm pa then pa / 2 ^ 37 % 4 else 8)).getLast? =
      some ⟨BitVec.ofNat 64 pa, BitVec.ofNat 64 (2 ^ 32 + src.1.toNat), a, s.cyc⟩ := by
  have last (l : List LogEnt) (e : LogEnt) : ((l ++ [e]).drop ((l ++ [e]).length - 16)).getLast? = some e := by
    rw [List.length_append, List.length_singleton, List.drop_append_of_le_length (by omega)]
    exact List.getLast?_concat
  unfold State.refuseFab
  dsimp only
  rw [State.send_pkg, State.modPkg_pkg, Tab.val_put_same]
  exact last _ _

section Accesses
variable {s : State} {src : FarDev} {addr : Word} {op : FabOp} {data : Bytes} {po : GranNos} {f : FuncId}

/-- Look-ups in the L2 leave some L2, and the rest as it was. -/
theorem State.exists_l2Segs (s : State) (wr : Bool) (l : List Seg) : ∃ x, s.l2Segs wr l = { s with l2 := x } := ⟨_, State.l2Segs_eq ..⟩

theorem exec_fabricAccess_refused (h : s.imported src.1 (bits addr 51 0) (fabLen op data) = none) :
    ∃ a, exec (.fabricAccess src addr op data po) s = .next (s.refuseFab src (bits addr 51 0) a) := by
  rw [show exec (.fabricAccess src addr op data po) s = execFabricAccess src addr op data po s from rfl]
  unfold execFabricAccess
  dsimp only
  generalize bits addr 51 0 = pa at h ⊢
  rw [h]
  exact ⟨_, rfl⟩

/-- A read answers what memory holds, with the poison of each granule, and changes nothing but the L2 (R408, R410). -/
theorem exec_fabricAccess_read {m : Bits16} {pa n : Nat} (hpa : bits addr 51 0 = pa) (hn : fabLen (.read m) data = n)
    (h : s.imported src.1 pa n = some f) :
    ∃ x, exec (.fabricAccess src addr (.read m) data po) s = .next (({ s with l2 := x } : State).send (.fabricData src.1
      (s.rdBytes (s.rangeKid f pa) pa n) true
      (poisGrans ((s.rdBytes (s.rangeKid f pa) pa n).zip (s.poisBytes [fabSeg (s.rangeKid f pa) pa n]))) src.2.toNat)) := by
  rw [show exec (.fabricAccess src addr (.read m) data po) s = execFabricAccess src addr (.read m) data po s from rfl]
  unfold execFabricAccess
  dsimp only
  rw [hpa, hn, h]
  dsimp only
  obtain ⟨x, hx⟩ := s.exists_l2Segs false [fabSeg (s.rangeKid f pa) pa n]
  rw [hx]
  exact ⟨x, rfl⟩

/-- A write is performed, and poisons the granules that it names (R161, R408). -/
theorem exec_fabricAccess_write {pa : Nat} (hpa : bits addr 51 0 = pa) (h : s.imported src.1 pa (fabLen .write data) = some f) :
    ∃ x, exec (.fabricAccess src addr .write data po) s = .next ((((({ s with l2 := x } : State).wrBytes (s.rangeKid f pa) pa data).clean pa
      (fabLen .write data)).poison (po.map fun g => granOf (pa + 64 * g))).send (.fabricData src.1 [] true [] src.2.toNat)) := by
  rw [show exec (.fabricAccess src addr .write data po) s = execFabricAccess src addr .write data po s from rfl]
  unfold execFabricAccess
  dsimp only
  rw [hpa, h]
  dsimp only
  obtain ⟨x, hx⟩ := s.exists_l2Segs true [fabSeg (s.rangeKid f pa) pa (fabLen .write data)]
  rw [hx]
  exact ⟨x, rfl⟩

/-- An atomic answers the old value and its poison (R108, R408). -/
theorem exec_fabricAccess_atomic {pa : Nat} (hpa : bits addr 51 0 = pa) (hr : ∀ m, op ≠ .read m) (hw : op ≠ .write)
    (h : s.imported src.1 pa (fabLen op data) = some f) :
    ∃ x, exec (.fabricAccess src addr op data po) s = .next
      (let r := ({ s with l2 := x } : State).atomic (s.rangeKid f pa) pa op
      r.2.2.send (.fabricData src.1 (leBytes (opWidth op) r.1) true (if r.2.1 then [0] else []) src.2.toNat)) := by
  rw [show exec (.fabricAccess src addr op data po) s = execFabricAccess src addr op data po s from rfl]
  unfold execFabricAccess
  dsimp only
  rw [hpa, h]
  dsimp only
  obtain ⟨x, hx⟩ := s.exists_l2Segs true [fabSeg (s.rangeKid f pa) pa (fabLen op data)]
  cases op with
  | read m => exact absurd rfl (hr m)
  | write => exact absurd rfl hw
  | atomic | cas => dsimp only; rw [hx]; exact ⟨x, rfl⟩

end Accesses

/-- What an atomic leaves in memory: its new value, where it has one and the old one is not poisoned (R108, R295). -/
theorem State.atomic_eq (s : State) (x : L2St) (kid pa : Nat) (o : FabOp) :
    let bad := (granules pa (opWidth o)).any s.isPois
    let old := leNat (s.rdBytes kid pa (opWidth o))
    let r := ({ s with l2 := x } : State).atomic kid pa o
    r.1 = old ∧ r.2.1 = bad ∧ r.2.2.out = s.out
      ∧ (∀ w, bad = false → opNew o old = some w → r.2.2.mem = (s.wrBytes kid pa (leBytes (opWidth o) w)).mem)
      ∧ (bad = true ∨ opNew o old = none → r.2.2.mem = s.mem) := by
  intro bad old r
  have hr : r.2.2 = if bad then { s with l2 := x } else match opNew o old with
      | none => { s with l2 := x }
      | some v => ({ s with l2 := x } : State).wrBytes kid pa (leBytes (opWidth o) v) := rfl
  refine ⟨rfl, rfl, ?_, fun w hb hw => ?_, fun h => ?_⟩
  · rw [hr]
    split
    · rfl
    · split
      · rfl
      · rw [State.wrBytes_out]
  · rw [hr, hb, hw]
    show (({ s with l2 := x } : State).wrBytes kid pa _).mem = _
    rw [State.wrBytes_l2]
  · rw [hr]
    rcases h with h | h
    · rw [h]; rfl
    · rw [h]; split <;> rfl

/-! ### Payloads pushed by other devices (R421, R422) -/

/-- What goes back to the source of a push: its credit, and an acknowledgement where it asked for one (R411, R422). -/
theorem State.ackRemote_eq (s : State) (dev : Bits9) (cls : Nat) (ack : Bool) (o : Bits16) (v : Nat) :
    s.ackRemote dev cls ack o v = { s with
      out := s.out ++ .creditReturn dev :: if ack then [.queueAck dev o (BitVec.ofNat 64 v) cls] else [] } := by
  unfold State.ackRemote
  cases ack
  · rfl
  · simp [State.send]

theorem State.ackRemote_out (s : State) (dev : Bits9) (cls : Nat) (ack : Bool) (o : Bits16) (v : Nat) :
    (s.ackRemote dev cls ack o v).out = s.out ++ .creditReturn dev :: if ack then [.queueAck dev o (BitVec.ofNat 64 v) cls] else [] := by
  rw [State.ackRemote_eq]

theorem State.ackRemote_die (s : State) (dev : Bits9) (cls : Nat) (ack : Bool) (o : Bits16) (v : Nat) (d : DieId) :
    (s.ackRemote dev cls ack o v).die d = s.die d := by
  rw [State.ackRemote_eq]; rfl

theorem State.queue?_setQueue (s : State) (d : DieId) (n : Nat) (q : QueueSt) : (s.setQueue d n q).queue? d n = some q := by
  simp [State.setQueue, State.queue?]

/-- A payload discarded at its queue: the queue is what was put, and the source has its credit and its acknowledgement (R422). -/
theorem State.discarded_eq (s : State) (d : DieId) (n : Nat) (u : QueueSt) (dev : Bits9) (cls : Nat) (ack : Bool) (o : Bits16) (v : Nat) :
    ((s.setQueue d n u).ackRemote dev cls ack o v).queue? d n = some u
      ∧ ((s.setQueue d n u).ackRemote dev cls ack o v).out = s.out ++ .creditReturn dev ::
        if ack then [.queueAck dev o (BitVec.ofNat 64 v) cls] else [] :=
  ⟨by rw [State.queue?, State.ackRemote_die]; exact State.queue?_setQueue .., State.ackRemote_out ..⟩

section Pushes
variable {s : State} {d : DieId} {src : FarDev} {f : FuncId} {qn : Bits12} {ack : Bool} {o : Bits16} {pay : Bytes} {po : GranNos}
  {u : QueueSt}

theorem exec_remotePushArrival_none (h : s.queue? d qn.toNat = none) :
    exec (.remotePushArrival d src f qn ack o (pay, po)) s =
      .next ((s.modDie d fun x => { x with qdrop := x.qdrop + 1 }).ackRemote src.1 src.2.toNat ack o (2 ^ 63 + 1)) := by
  show execRemotePushArrival d src f qn ack o (pay, po) s = _
  simp only [execRemotePushArrival, h]

theorem exec_remotePushArrival_denied (h : s.queue? d qn.toNat = some u) (hp : (src.1, f) ∉ u.pushDev) :
    exec (.remotePushArrival d src f qn ack o (pay, po)) s =
      .next ((s.setQueue d qn.toNat { u with drops := u.drops + 1 }).ackRemote src.1 src.2.toNat ack o (2 ^ 63 + 2)) := by
  show execRemotePushArrival d src f qn ack o (pay, po) s = _
  simp [execRemotePushArrival, h, hp]

theorem exec_remotePushArrival_long (h : s.queue? d qn.toNat = some u) (hp : (src.1, f) ∈ u.pushDev)
    (hl : 2 ^ u.lrsz < (8 + pay.length + 63) / 64) :
    exec (.remotePushArrival d src f qn ack o (pay, po)) s =
      .next ((s.setQueue d qn.toNat { u with drops := u.drops + 1 }).ackRemote src.1 src.2.toNat ack o (2 ^ 63 + 3)) := by
  show execRemotePushArrival d src f qn ack o (pay, po) s = _
  simp [execRemotePushArrival, h, hp, QueueSt.rsz, recCells, hl]

theorem exec_remotePushArrival_staged (h : s.queue? d qn.toNat = some u) (hp : (src.1, f) ∈ u.pushDev)
    (hl : (8 + pay.length + 63) / 64 ≤ 2 ^ u.lrsz) :
    exec (.remotePushArrival d src f qn ack o (pay, po)) s = .next (s.modDie d fun x => { x with qreq := x.qreq ++
      [{ core := 0, seat := 0, qnum := qn, push := true, cells := recCells pay.length, remote := true, dev := src.1, cls := src.2.toNat,
         ack := ack, origin := o, payload := pay, pois := po }] }) := by
  show execRemotePushArrival d src f qn ack o (pay, po) s = _
  simp [execRemotePushArrival, h, hp, QueueSt.rsz, recCells, Nat.not_lt.2 hl]

end Pushes

/-! ### Collectives (R424 to R428) -/

/-- The result of a kind and key that is the only one of its seat becomes known (R55). -/
theorem State.answer_single {s : State} {c : CoreId} {k : SeatId} {y : Vres} (kind : VKind) (key : Nat) (w : Word)
    (h : (s.seat c k).vres = [y]) (hk : y.kind = kind) (hy : y.key = key) :
    ((s.answer c k kind key w).seat c k).vres = [{ y with ready := true, data := w.setWidth 8192 }] := by
  rw [State.answer, State.seat_modSeat, h]
  simp [hk, hy]

/-- A collective in progress is of its function, key and count, and has not failed. -/
theorem liveColl_spec {l : List CollSt} {f : FuncId} {key : Word} {m : Nat} {x : CollSt}
    (h : (l.find? fun x => x.is f key m && x.dead.isNone) = some x) :
    x ∈ l ∧ x.func = f ∧ x.key = key ∧ x.m = m ∧ x.dead = none := by
  have hx := List.find?_some h
  simp only [CollSt.is, Bool.and_eq_true, beq_iff_eq, Option.isNone_iff_eq_none] at hx
  exact ⟨List.mem_of_find?_eq_some h, hx.1.1.1, hx.1.1.2, hx.1.2, hx.2⟩

/-- Where every collective of a function, key and count has failed none is in progress. -/
theorem liveColl_none {l : List CollSt} {f : FuncId} {key : Word} {m : Nat} (h : ∀ x ∈ l, x.is f key m = true → x.dead ≠ none) :
    (l.find? fun x => x.is f key m && x.dead.isNone) = none := by
  rw [List.find?_eq_none]
  intro x hx
  simpa using h x hx

/-- The collective in progress is the first one that has not been performed, where it has not. -/
theorem liveColl_undone {l : List CollSt} {f : FuncId} {key : Word} {m : Nat} {x : CollSt}
    (h : (l.find? fun x => x.is f key m && x.dead.isNone) = some x) (hd : x.done = false) :
    (l.find? fun x => x.is f key m && x.dead.isNone && !x.done) = some x := by
  obtain ⟨hx, as, bs, rfl, has⟩ := List.find?_eq_some_iff_append.1 h
  refine List.find?_eq_some_iff_append.2 ⟨by rw [hx, hd]; rfl, as, bs, rfl, fun a ha => ?_⟩
  have := has a ha
  simp only [Bool.not_eq_true'] at this ⊢
  rw [this, Bool.false_and]

/-- Every collective of a function, key and count is one that the change has been applied to. -/
theorem State.mem_modColl {s : State} {f : FuncId} {key : Word} {m : Nat} {g : CollSt → CollSt} {y : CollSt}
    (hy : y ∈ (s.modColl f key m g).pkg.colls) (h : y.is f key m = true) : ∃ z, y = g z := by
  obtain ⟨z, -, rfl⟩ := List.mem_map.1 hy
  split at h
  · rename_i hz
    exact ⟨z, if_pos hz⟩
  · exact absurd h ‹_›

/-- The collective in progress after a change that leaves which it is and that it has not failed. -/
theorem State.find_modColl {s : State} {f : FuncId} {key : Word} {m : Nat} {g : CollSt → CollSt} {x : CollSt}
    (h : (s.pkg.colls.find? fun x => x.is f key m && x.dead.isNone) = some x)
    (hg : ∀ y, (g y).is f key m = y.is f key m ∧ (g y).dead = y.dead) :
    ((s.modColl f key m g).pkg.colls.find? fun x => x.is f key m && x.dead.isNone) = some (g x) := by
  obtain ⟨hx, hf, hk, hm, -⟩ := liveColl_spec h
  have is : x.is f key m = true := by simp [CollSt.is, hf, hk, hm]
  have listed : (s.pkg.colls.any fun x => x.is f key m) = true := List.any_eq_true.2 ⟨x, hx, is⟩
  have change (y : CollSt) : ((if y.is f key m then g y else y).is f key m && (if y.is f key m then g y else y).dead.isNone)
      = (y.is f key m && y.dead.isNone) := by
    split
    · rw [(hg y).1, (hg y).2]
    · rfl
  unfold State.modColl
  dsimp only
  rw [if_pos listed, State.modPkg_pkg, List.find?_map]
  simp only [Function.comp_def, change, h, Option.map_some, is, if_true]

/-- What a collective that fails leaves: none of its function, key and count is in progress, and a participant that had joined alone has
the reason (R424, R426). -/
theorem State.failColl_spec (s : State) {x : CollSt} (r : Nat) :
    (∀ y ∈ (s.failColl x r).pkg.colls, y.is x.func x.key x.m = true → y.dead = some r)
      ∧ ∀ j y, x.joined = [j] → (s.seat j.core j.seat).vres = [y] → y.kind = .coll → y.key = j.res →
        ((s.failColl x r).seat j.core j.seat).vres =
          [{ y with ready := true, data := (BitVec.ofNat 64 (2 ^ 63 + r)).setWidth 8192 }] := by
  constructor
  · intro y hy h
    obtain ⟨z, rfl⟩ := State.mem_modColl hy h
    rfl
  · intro j y hj hv hk hkey
    unfold State.failColl
    rw [State.modColl_seat, hj]
    refine State.answer_single .coll j.res _ ?_ hk hkey
    split
    · rw [(State.unitOnly_memOnly (State.memOnly_fogDsts [j] s)).seat, hv]
    · exact hv

end Sys2Proof.Machine
end

section
namespace Sys2Proof.Machine

/-! ### How a collective ends (R424, R426, R427) -/

/-- The collective in progress of a function, key and count (R424). -/
def State.liveColl (s : State) (f : FuncId) (key : Word) (m : Nat) : Option CollSt :=
  s.pkg.colls.find? fun x => x.is f key m && x.dead.isNone

/-- The end of a participant leaves memory as it is. -/
theorem State.endJoin_mem (s : State) (x : CollSt) (n : Nat) : (s.endJoin x n).mem = s.mem := by
  unfold State.endJoin
  split
  · rfl
  · dsimp only
    split <;> rfl

/-- What COLL_COMPLETE does once it has performed a collective or taken its acknowledgements: with none outstanding, the participant of
the rank ends. -/
def State.endColl (t : State) (f : FuncId) (key : Word) (m rank : Nat) : State :=
  match t.liveColl f key m with
  | none => t
  | some y => if y.done && y.acks.isEmpty then t.endJoin y rank else t

theorem State.endColl_none {t : State} {f : FuncId} {key : Word} {m : Nat} (h : t.liveColl f key m = none) (n : Nat) :
    t.endColl f key m n = t := by
  rw [State.endColl, h]

theorem State.endColl_some {t : State} {f : FuncId} {key : Word} {m : Nat} {y : CollSt} (h : t.liveColl f key m = some y) (n : Nat) :
    t.endColl f key m n = if y.done ∧ y.acks = [] then t.endJoin y n else t := by
  rw [State.endColl, h]
  simp

theorem State.endColl_mem (t : State) (f : FuncId) (key : Word) (m n : Nat) : (t.endColl f key m n).mem = t.mem := by
  unfold State.endColl
  split
  · rfl
  · split
    · exact t.endJoin_mem _ n
    · rfl

section Collectives
variable {s : State} {f : FuncId} {key : Word} {m : Imm32} {rank : Bits16} {far : FarBufs} {x : CollSt}

theorem exec_collComplete_none (h : s.liveColl f key m.toNat = none) : exec (.collComplete f key m rank far) s = .next s := by
  show execCollComplete f key m rank far s = _
  unfold State.liveColl at h
  simp only [execCollComplete, h]

theorem exec_collTimeout_none (h : ∀ x ∈ s.pkg.colls, x.is f key m.toNat = true → x.dead ≠ none) :
    exec (.collTimeout f key m) s = .next s := by
  have none : (s.pkg.colls.find? fun x => x.is f key m.toNat && x.dead.isNone && !x.done) = none := by
    rw [List.find?_eq_none]
    intro x hx
    have := h x hx
    simp_all
  show execCollTimeout f key m s = _
  simp only [execCollTimeout, none]

section Running
variable (h : s.liveColl f key m.toNat = some x)
include h

theorem exec_collComplete_refused {r : BitVec 3} (hw : (far.findSome? fun b => b.why) = some r) :
    exec (.collComplete f key m rank far) s = .next (if 1 ≤ r.toNat ∧ r.toNat ≤ 4 then s.failColl x r.toNat else s) := by
  show execCollComplete f key m rank far s = _
  unfold State.liveColl at h
  simp only [execCollComplete, h, hw, Bool.and_eq_true, decide_eq_true_eq]

theorem exec_collComplete_eq (hw : (far.findSome? fun b => b.why) = none) : exec (.collComplete f key m rank far) s =
    .next ((if x.done then s.takeAcks x far else s.runColl x far).endColl f key m.toNat rank.toNat) := by
  show execCollComplete f key m rank far s = _
  unfold State.liveColl at h
  simp only [execCollComplete, h, hw]
  rfl

theorem exec_collTimeout_eq (hd : x.done = false) {j : Joiner} {r : List Joiner} (hj : x.joined = j :: r) :
    exec (.collTimeout f key m) s = .next (if cdTmo j.desc ≠ 0 ∧ j.at0 + 800 * cdTmo j.desc ≤ s.cyc
      ∧ x.joined.length < cdParts j.desc j.lw j.lh then s.failColl x 3 else s) := by
  show execCollTimeout f key m s = _
  rw [execCollTimeout, liveColl_undone h hd]
  dsimp only
  rw [hj]
  dsimp only
  simp only [Bool.or_eq_true, decide_eq_true_eq]
  unfold usCyc
  by_cases late : cdTmo j.desc ≠ 0 ∧ j.at0 + 800 * cdTmo j.desc ≤ s.cyc ∧ (j :: r).length < cdParts j.desc j.lw j.lh
  · rw [if_pos late, if_neg]
    omega
  · rw [if_neg late, if_pos]
    omega

/-- The acknowledgements that other devices bring are outstanding no more (R301). -/
theorem State.liveColl_takeAcks :
    (s.takeAcks x far).liveColl f key m.toNat = some { x with acks := x.acks.filter fun r => (farRank far r).isNone } := by
  obtain ⟨-, hf, hk, hm, -⟩ := liveColl_spec h
  conv => lhs; rw [State.takeAcks, hf, hk, hm]
  exact State.find_modColl (g := fun y => { y with acks := y.acks.filter fun r => (farRank far r).isNone }) h fun y => ⟨rfl, rfl⟩

end Running

/-- The participant of a rank, whose seat has nothing else outstanding, learns that the collective has ended (R424). -/
theorem State.endJoin_tells {n : Nat} {j : Joiner} {y : Vres} (hj : (x.joined.find? fun j => j.rank = n) = some j)
    (hv : (s.seat j.core j.seat).vres = [y]) (hy : y.kind = .coll) (hk : y.key = j.res) :
    ((s.endJoin x n).seat j.core j.seat).vres = [{ y with ready := true, data := (0 : Word).setWidth 8192 }] := by
  have told := State.answer_single .coll j.res 0 hv hy hk
  unfold State.endJoin
  rw [hj]
  dsimp only
  split <;> exact told

/-- A collective performed: every destination is written, and those of other devices are to be acknowledged (R301, R427). -/
theorem State.runColl_performs {j : Joiner} {rest : List Joiner} {ty : Ty} {src : List (List (Byte × Bool))} {u : State}
    (hj : x.joined = j :: rest) (hb : s.bufFault (cdParts j.desc j.lw j.lh) x.joined = none) (ht : cdTy j.desc = some ty)
    (hs : s.sources (cdParts j.desc j.lw j.lh) x.joined far (cdParts j.desc j.lw j.lh) = some src)
    (hu : (s.askSources (cdParts j.desc j.lw j.lh) x.joined).putAll (cdParts j.desc j.lw j.lh) (ty.width / 8)
      (collOut j.desc (fcrOf (rank0Fcr x.joined far)) ty src) x.joined = some u) :
    s.runColl x far =
      u.modColl x.func x.key x.m fun y => { y with done := true, acks := s.farDst (cdParts j.desc j.lw j.lh) x.joined } := by
  unfold State.runColl
  split
  · rename_i hn
    exact absurd (hn.symm.trans hj) (List.cons_ne_nil j rest).symm
  · rename_i k q hk
    obtain ⟨rfl, rfl⟩ := List.cons.inj (hk.symm.trans hj)
    dsimp only
    rw [hb, ht, hs]
    dsimp only
    rw [hu]

/-- A buffer that a participant cannot reach fails the collective (R426). -/
theorem State.runColl_faults {j : Joiner} {rest : List Joiner} {p : Joiner × XFault} (hj : x.joined = j :: rest)
    (hb : s.bufFault (cdParts j.desc j.lw j.lh) x.joined = some p) : s.runColl x far = s.failBuf x p := by
  unfold State.runColl
  split
  · rename_i hn
    exact absurd (hn.symm.trans hj) (List.cons_ne_nil j rest).symm
  · rename_i k q hk
    obtain ⟨rfl, rfl⟩ := List.cons.inj (hk.symm.trans hj)
    dsimp only
    rw [hb]

/-- A collective fails in a state whose seats are those of `s`: all of its function, key and count have failed, and a participant that
had joined alone has the reason, if its seat has one result outstanding still (R424, R426). -/
theorem State.failColl_tells {t : State} {j : Joiner} (hm : x.m = m.toNat) (r : Nat) (ht : ∀ c k, t.seat c k = s.seat c k)
    (hj : x.joined = [j]) : (∀ y ∈ (t.failColl x r).pkg.colls, y.is x.func x.key m.toNat = true → y.dead = some r)
      ∧ ∀ y z, (s.seat j.core j.seat).vres = [y] → y.kind = .coll → y.key = j.res →
        ((t.failColl x r).seat j.core j.seat).vres = [z] →
        z = { y with ready := true, data := (BitVec.ofNat 64 (2 ^ 63 + r)).setWidth 8192 } := by
  obtain ⟨dead, tells⟩ := t.failColl_spec (x := x) r
  rw [hm] at dead
  refine ⟨dead, fun y z hv hy hk hz => ?_⟩
  rw [tells j y hj ((ht _ _).symm ▸ hv) hy hk] at hz
  exact (List.singleton_inj.1 hz).symm

/-- No collective of a function, key and count that has failed is in progress. -/
theorem State.liveColl_failed {t : State} {r : Nat} (h : ∀ y ∈ t.pkg.colls, y.is f key m.toNat = true → y.dead = some r) :
    t.liveColl f key m.toNat = none :=
  liveColl_none fun y hy hi hn => by rw [h y hy hi] at hn; cases hn

end Collectives

/-! ### Register writes (R6) -/

/-- A number deleted is in no row. -/
theorem Tab.find_del_same {α : Type} (t : Tab α) (k : Nat) : (t.del k).find k = none := by
  induction t with
  | nil => rfl
  | cons p r ih =>
    unfold Tab.del
    split
    · exact ih
    · rwa [Tab.find, if_neg ‹_›]

theorem leBytes_length (n v : Nat) : (leBytes n v).length = n := by
  induction n generalizing v with
  | zero => rfl
  | succ n ih => rw [leBytes, List.length_cons, ih]

/-- A number is the low bytes of it read together, where they hold it (R5). -/
theorem leNat_leBytes {n v : Nat} (h : v < 256 ^ n) : leNat (leBytes n v) = v := by
  induction n generalizing v with
  | zero => simp only [Nat.pow_zero, Nat.lt_one_iff] at h; subst h; rfl
  | succ n ih =>
    rw [Nat.pow_succ] at h
    rw [leBytes, leNat, ih (Nat.div_lt_of_lt_mul (by omega)), BitVec.toNat_ofNat]
    exact Nat.mod_add_div v (2 ^ 8)

/-- Bytes put in a list are read at their offset. -/
theorem field_setBytes {b v : List Byte} {lo : Nat} (h : lo ≤ b.length) : field (setBytes b lo v) lo v.length = leNat v := by
  have length : (b.take lo).length = lo := List.length_take_of_le h
  rw [field, setBytes, List.append_assoc, List.drop_left' length, List.take_left]

theorem exec_registerWrite_wgrant (s : State) (c : CoreId) (k : SeatId) (w : Word) : exec (.registerWrite (.wgrant c k) w) s =
    .next (s.modCore c fun x => { x with wgrant := x.wgrant.put k.toNat (w &&& grantMask &&& ~~~ s.resident c) }) := rfl

/-- A number put in a list as bytes is read at its offset (R5). -/
theorem field_setBytes_leBytes {b : List Byte} {lo : Nat} (h : lo ≤ b.length) (w : Word) :
    field (setBytes b lo (leBytes 8 w.toNat)) lo 8 = w.toNat := by
  have read := field_setBytes (v := leBytes 8 w.toNat) h
  rw [leBytes_length] at read
  rw [read, leNat_leBytes (by omega)]

theorem exec_registerWrite_mailReq {s : State} {f : FuncId} (h : (s.func f).mreq.length = 64) (i : Bits3) (w : Word) :
    exec (.registerWrite (.mailReq f i) w) s =
      .next (s.modFunc f fun x => { x with mreq := setBytes (s.func f).mreq (8 * i.toNat) (leBytes 8 w.toNat) }) := by
  have kept : ((s.func f).mreq ++ List.replicate 64 0).take 64 = (s.func f).mreq := List.take_left' h
  show Host.Outcome.next (s.modFunc f _) = _
  simp only [State.modFunc, kept]

section Registers
variable {s : State} {f : FuncId} {q : Bits8} {r : PorterQ} {w : Word}

theorem State.pq_setPq (s : State) (f : FuncId) (q : Bits8) (r : PorterQ) : (s.setPq f q r).pq f q = some r := by
  simp [State.setPq, State.pq]

/-- The base of a queue that is not enabled (R382). -/
theorem State.writeQueue_base (h : s.pq f q = some r) (hl : s.locked f = false) (he : r.en = false) (ha : w.toNat % 64 = 0)
    (hp : paOk w.toNat = true) : s.writeQueue f q false w = s.setPq f q { r with base := w } := by
  simp [State.writeQueue, h, hl, he, ha, hp]

theorem State.writeQueue_base_enabled (h : s.pq f q = some r) (hl : s.locked f = false) (he : r.en = true) :
    s.writeQueue f q false w = s := by
  simp [State.writeQueue, h, hl, he]

/-- The size and EN of a queue that is not enabled (R382). -/
theorem State.writeQueue_size (h : s.pq f q = some r) (hl : s.locked f = false) (he : r.en = false) (h4 : 4 ≤ bits w 4 0)
    (h16 : bits w 4 0 ≤ 16) : s.writeQueue f q true w = s.setPq f q (if w.getLsbD 8
      then { r with lsz := bits w 4 0, en := true, err := false, head := r.tail } else { r with lsz := bits w 4 0, en := false }) := by
  simp only [State.writeQueue, h, hl, he, Nat.not_lt.2 h4, Nat.not_lt.2 h16]
  cases w.getLsbD 8 <;> simp

/-- EN written to an enabled queue starts it again (R382). -/
theorem State.writeQueue_restart (h : s.pq f q = some r) (hl : s.locked f = false) (he : r.en = true) (hw : w.getLsbD 8 = true) :
    s.writeQueue f q true w = s.setPq f q { r with err := false, head := r.tail } := by
  have en : { r with en := true, err := false, head := r.tail } = { r with err := false, head := r.tail } := by rw [← he]
  simp [State.writeQueue, h, hl, he, hw, en]

end Registers

end Sys2Proof.Machine
end

section
namespace Sys2Proof.Machine

/-- Settles O51: each clause is what the event's meaning answers under its conditions, read at the parts that the clause names. -/
theorem fabricEvents : Obligations.FabricEvents := by
  intro s c k d next same plain
  refine ⟨fun ix v hv => ⟨fun ht => ?early, fun ht hk ho => ?answered, fun ht ho hp hw => ?access, fun ht ho hk hn hw => ?push⟩,
    fun l => ⟨fun h => exec_routeRecompute_up h, fun v hup hl hv hb hp hu => ?route⟩, fun src addr op data po => ?request,
    fun src f qn ack org pay po => ?payload, fun f key m rank far => ?collective, fun f w => ?register⟩
  case early => exact exec_transactionTimeout_early hv ht
  case answered => exact (exec_transactionTimeout_late hv ht hk).trans (by rw [if_neg (by simp [ho])])
  case access =>
    obtain ⟨mem, row, hpush, hpop⟩ := hp
    obtain ⟨hc, hvres, hpend⟩ := State.failTrans_keeps ⟨mem, row, hpush, hpop⟩ ix.toNat hw
    have hk : v.kind ≠ .coll := fun hk => by rw [hk] at mem; cases mem
    exact ⟨_, (exec_transactionTimeout_late hv ht hk).trans (by rw [if_pos ho]), hc.mem, hvres, hpend⟩
  case push =>
    have hcoll : v.kind ≠ .coll := fun h => by rw [hk] at h; cases h
    rw [← v.unacked_id] at hw
    obtain ⟨hc, hd, -⟩ := State.landRes_keeps ix.toNat hw
    refine ⟨_, (exec_transactionTimeout_late hv ht hcoll).trans (by rw [if_pos ho]), ?_⟩
    rw [State.failTrans_qpush s c k ix.toNat hk hn]
    refine ⟨hc.mem, congrArg Prod.fst hd, fun n hdest hn => ?_⟩
    rw [← v.unacked_dest] at hdest
    exact (State.landRes_sr ix.toNat hw hdest hn).trans v.unacked_data
  case route =>
    obtain ⟨mem, row, hpush, hpop⟩ := hp
    exact exec_routeRecompute_fails ⟨rfl, hv, hu⟩ hup ⟨mem, row, hpush, hpop⟩ hl hb
  case request =>
    intro pa n answer
    refine ⟨fun h => ?refused, fun f h => ?imported⟩
    case refused =>
      obtain ⟨a, ha⟩ := exec_fabricAccess_refused (po := po) h
      exact ⟨_, ha, rfl, rfl, a, s.refuseFab_log src pa a⟩
    intro kid
    refine ⟨fun m hop => ?read, fun hop => ?write, fun hr hw => ?atomic⟩
    case read =>
      subst hop
      obtain ⟨x, hx⟩ := exec_fabricAccess_read (po := po) rfl rfl h
      exact ⟨_, hx, rfl, rfl⟩
    case write =>
      subst hop
      obtain ⟨x, hx⟩ := exec_fabricAccess_write (po := po) rfl h
      refine ⟨_, hx, ?_, ?_, fun g hg => ?_⟩
      · show (({ s with l2 := x } : State).wrBytes kid pa data).mem = _
        rw [State.wrBytes_l2]
      · show (({ s with l2 := x } : State).wrBytes kid pa data).out ++ _ = _
        rw [State.wrBytes_out]
      · exact State.mem_pois_poison _ (List.mem_map_of_mem hg)
    case atomic =>
      obtain ⟨x, hx⟩ := exec_fabricAccess_atomic (po := po) rfl hr hw h
      obtain ⟨hold, hbad, hout, hnew, hkeep⟩ := s.atomic_eq x kid pa op
      refine ⟨_, hx, ?_, hnew, hkeep⟩
      show _ ++ _ = _
      rw [hout, hold, hbad]
  case payload =>
    intro i acked
    refine ⟨fun h => ?noQueue, fun u h => ⟨fun hp => ⟨_, exec_remotePushArrival_denied h hp, State.discarded_eq ..⟩,
      fun hp hl => ⟨_, exec_remotePushArrival_long h hp hl, State.discarded_eq ..⟩, fun hp hl => ?staged⟩⟩
    case noQueue =>
      exact ⟨_, exec_remotePushArrival_none h, by rw [State.ackRemote_die, State.die_modDie], State.ackRemote_out ..⟩
    case staged =>
      exact ⟨_, exec_remotePushArrival_staged h hp hl, rfl, rfl, _, by rw [State.die_modDie], rfl, rfl, rfl, rfl, rfl, rfl, rfl, rfl⟩
  case collective =>
    intro told failed why
    refine ⟨fun h => ⟨fun _ => exec_collComplete_none (liveColl_none h), exec_collTimeout_none h⟩, fun x j h => ?live⟩
    intro parts away
    obtain ⟨-, rfl, rfl, hm, -⟩ := liveColl_spec h
    refine ⟨fun r hw => ⟨fun hr hj => ?fails, fun hr => ?noReason⟩, fun hw hd ha hj => ?ends, fun hw hd ha => ?waits,
      fun rest ty src u hw hj hd ht hb hs hu => ?runs, fun p hw hj hd hb => ?faults, fun rest hj hd => ?times⟩
    case fails =>
      exact ⟨_, (exec_collComplete_refused h hw).trans (by rw [if_pos hr]), State.failColl_tells hm r.toNat (fun _ _ => rfl) hj⟩
    case noReason => exact (exec_collComplete_refused h hw).trans (by rw [if_neg (by omega)])
    case ends =>
      refine ⟨_, exec_collComplete_eq h hw, State.endColl_mem .. |>.trans (by rw [if_pos hd]; rfl), fun y z hv hy hk hz => ?_⟩
      rw [if_pos hd, State.endColl_some (State.liveColl_takeAcks h), if_pos ⟨hd, ha⟩] at hz
      exact (List.singleton_inj.1 ((State.endJoin_tells (s := s.takeAcks x far) hj hv hy hk).symm.trans hz)).symm
    case waits =>
      refine ⟨s.takeAcks x far, (exec_collComplete_eq h hw).trans ?_, rfl, rfl⟩
      rw [if_pos hd, State.endColl_some (State.liveColl_takeAcks h), if_neg fun e => ha e.2]
    case runs =>
      refine ⟨_, exec_collComplete_eq h hw, State.endColl_mem .. |>.trans ?_⟩
      rw [if_neg (by simp [hd]), State.runColl_performs hj hb ht hs hu]
      rfl
    case faults =>
      obtain ⟨dead, tells⟩ := State.failColl_tells hm 4 (State.unitOnly_recordFault s (s.whoJoin p.1) p.1.core p.1.seat 0
        (bInst (s.seat p.1.core p.1.seat).billet) p.2).seat hj
      refine ⟨_, (exec_collComplete_eq h hw).trans ?_, dead, tells⟩
      rw [if_neg (by simp [hd]), State.runColl_faults hj hb, State.failBuf, State.endColl_none (State.liveColl_failed dead)]
    case times =>
      intro late
      have run := exec_collTimeout_eq h hd hj
      refine ⟨fun hl hr => ⟨_, run.trans (by rw [if_pos hl]), State.failColl_tells hm 3 (fun _ _ => rfl) (hr ▸ hj)⟩,
        fun hl => run.trans (by rw [if_neg hl])⟩
  case register =>
    refine ⟨fun h => ?mwin, fun h => ?mwinKept, fun h => ?mral, ?wgrant, fun h => ?withdraw, fun h hd => ?withdrawn,
      fun h10 h => ?etmo, fun h => ?etmoKept, fun n => ?window, fun n => ?importRow, ⟨_, rfl, by simp⟩, fun q r hq hl => ?queue,
      fun n v hn hl hw => ?vecMask, fun n v hn hl hm => ?vecEntry, ?hmdb, fun i hr => ?mailReq, fun a b => rfl⟩
    case mwin => exact ⟨_, congrArg Host.Outcome.next (if_pos h), State.core_modCore ..⟩
    case mwinKept => exact congrArg Host.Outcome.next (if_neg (by simp [h]))
    case mral => exact ⟨_, congrArg Host.Outcome.next (if_neg (Nat.not_lt.2 h)), State.core_modCore ..⟩
    case wgrant =>
      refine ⟨_, exec_registerWrite_wgrant s c k w, ?_⟩
      dsimp only
      rw [State.core_modCore]
      exact Tab.val_put_same ..
    case withdraw => exact ⟨_, congrArg Host.Outcome.next (if_pos (by rw [h]; rfl)), State.core_modCore ..⟩
    case withdrawn => exact congrArg Host.Outcome.next ((if_neg (by simp [h])).trans (if_pos hd))
    case etmo => exact ⟨_, congrArg Host.Outcome.next (if_pos (by simp [h10, h])), rfl⟩
    case etmoKept => exact congrArg Host.Outcome.next (if_neg (by simp; omega))
    case window =>
      intro old
      exact ⟨fun h => ⟨_, congrArg Host.Outcome.next (if_neg (by simpa using h)), Tab.find_put_same ..⟩,
        fun h => congrArg Host.Outcome.next (if_pos (by simpa using h)), _, rfl, Tab.find_put_same ..⟩
    case importRow =>
      refine ⟨_, rfl, ?_⟩
      show Tab.find (if w.getLsbD 63 then _ else _) n.toNat = _
      split
      · exact Tab.find_put_same ..
      · exact Tab.find_del_same ..
    case queue =>
      refine ⟨fun he ha hp => ?base, fun he => ?enabled, fun he h4 h16 => ?size, fun he hw _ => ?restart⟩
      case base => exact ⟨_, congrArg Host.Outcome.next (State.writeQueue_base hq hl he ha hp), State.pq_setPq ..⟩
      case enabled => exact congrArg Host.Outcome.next (State.writeQueue_base_enabled hq hl he)
      case size =>
        refine ⟨_, congrArg Host.Outcome.next (State.writeQueue_size hq hl he h4 h16), _, State.pq_setPq .., ?_⟩
        cases w.getLsbD 8 <;> simp
      case restart => exact ⟨_, congrArg Host.Outcome.next (State.writeQueue_restart hq hl he hw), State.pq_setPq ..⟩
    case vecMask => exact ⟨_, rfl, (State.find_setVec_masked hn hl hw).trans (by rw [hw])⟩
    case vecEntry => exact ⟨⟨_, rfl, State.find_setVec_masked hn hl hm⟩, _, rfl, State.find_setVec_masked hn hl hm⟩
    case hmdb =>
      cases hw : w.getLsbD 0
      case false => exact ⟨_, congrArg Host.Outcome.next (if_neg (by rw [hw]; exact Bool.false_ne_true)), by simp⟩
      case true => exact ⟨_, congrArg Host.Outcome.next (if_pos hw), by simp⟩
    case mailReq =>
      refine ⟨_, exec_registerWrite_mailReq hr i w, ?_⟩
      dsimp only
      rw [State.func_modFunc]
      exact field_setBytes_leBytes (by omega) w

end Sys2Proof.Machine
end

section
namespace Sys2Proof.Machine

/-! ### What landing results change (R54, R55) -/

/-- One bit of a word replaced: that bit is the new one, every other stands. -/
theorem getLsbD_setBits_bit {n : Nat} (w : BitVec n) {i : Nat} (h : i < n) (b : Bool) (j : Nat) :
    (setBits w i i b.toNat).getLsbD j = if j = i then b else w.getLsbD j := by
  have value : b.toNat % 2 ^ (i + 1 - i) * 2 ^ i = if b then 2 ^ i else 0 := by cases b <;> simp
  have one : (2 ^ (i + 1 - i) - 1) * 2 ^ i = 2 ^ i := by simp
  simp only [setBits, Nat.shiftLeft_eq, value, one, BitVec.getLsbD_or, BitVec.getLsbD_and, BitVec.getLsbD_not, BitVec.getLsbD_ofNat]
  by_cases hj : j = i
  · cases b <;> simp [hj, h]
  · cases b <;> simpa [hj, Ne.symm hj] using BitVec.lt_of_getLsbD

/-- Overflow events that enter a core's queue change no more of their seat than its lost-event bit (R214). -/
theorem CoreSt.pushEvents_seatAt (x : CoreSt) (k : SeatId) (l : List Word) :
    ∃ b, (l.foldl (fun x e => x.pushEvent k e) x).seatAt k = { x.seatAt k with olost := b } := by
  induction l generalizing x with
  | nil => exact ⟨_, rfl⟩
  | cons e r ih =>
    obtain ⟨b, hb⟩ := ih (x.pushEvent k e)
    refine ⟨b, hb.trans ?_⟩
    unfold CoreSt.pushEvent
    split
    · rfl
    · rw [CoreSt.seatAt_setSeat]

/-- Overflow events leave every row as it is. -/
theorem CoreSt.pushEvents_row (x : CoreSt) (k : SeatId) (l : List Word) (i : Nat) :
    (l.foldl (fun x e => x.pushEvent k e) x).row i = x.row i := by
  induction l generalizing x with
  | nil => rfl
  | cons e r ih => rw [List.foldl_cons, ih, CoreSt.row, CoreSt.pushEvent_vrf, CoreSt.row]

/-- A landing is that of its write, then of its events. -/
theorem CoreSt.land_events (x : CoreSt) (k : SeatId) (f : Fly) :
    x.land k f = f.ev.foldl (fun x e => x.pushEvent k e) (x.land k { f with ev := [] }) := rfl

/-- A seat with the registers of another into which results land, and its lost-event bit. -/
def SeatSt.withRegs (q p : SeatSt) : SeatSt :=
  { q with sr := p.sr, sTag := p.sTag, ar := p.ar, aTag := p.aTag, mr := p.mr, pr := p.pr, pq := p.pq, olost := p.olost }

/-- A landing changes no more of its seat than registers and the lost-event bit. -/
theorem CoreSt.land_seatAt (x : CoreSt) (k : SeatId) (f : Fly) :
    (x.land k f).seatAt k = (x.seatAt k).withRegs ((x.land k f).seatAt k) := by
  have write : (x.land k { f with ev := [] }).seatAt k = (x.seatAt k).withRegs ((x.land k { f with ev := [] }).seatAt k) := by
    unfold CoreSt.land
    cases f.w with
    | s n v t =>
      dsimp only [List.foldl_nil]
      split
      · rfl
      · rw [CoreSt.seatAt_setSeat]; rfl
    | p n v =>
      dsimp only [List.foldl_nil]
      split
      · rfl
      · rw [CoreSt.seatAt_setSeat]; rfl
    | a | m | pq => dsimp only [List.foldl_nil]; rw [CoreSt.seatAt_setSeat]; rfl
    | row => rfl
  obtain ⟨b, hb⟩ := CoreSt.pushEvents_seatAt (x.land k { f with ev := [] }) k f.ev
  rw [CoreSt.land_events, hb, write]
  rfl

/-- Landings change no more of their seat than registers and the lost-event bit. -/
theorem CoreSt.lands_seatAt (x : CoreSt) (k : SeatId) (l : List Fly) :
    (l.foldl (fun x f => x.land k f) x).seatAt k
      = (x.seatAt k).withRegs ((l.foldl (fun x f => x.land k f) x).seatAt k) := by
  induction l generalizing x with
  | nil => rfl
  | cons f r ih =>
    rw [List.foldl_cons, ih, CoreSt.land_seatAt]
    rfl

/-- The landing of every result in flight changes no more of its seat than registers, the lost-event bit and what is in flight. -/
theorem CoreSt.landAll_seatAt (x : CoreSt) (k : SeatId) :
    (x.landAll k).seatAt k = { x.seatAt k with fly := [] }.withRegs ((x.landAll k).seatAt k) := by
  refine (CoreSt.lands_seatAt _ k (x.seatAt k).fly).trans ?_
  rw [CoreSt.seatAt_setSeat]
  rfl

/-- The s registers of a seat with their tags. -/
def SeatSt.sRegs (q : SeatSt) : Tab Word × BitVec 32 := (q.sr, q.sTag)

/-- What the landing of a write makes of the s registers and their tags: s0 is never written (R17). -/
def Write.intoS (w : Write) (r : Tab Word × BitVec 32) : Tab Word × BitVec 32 :=
  match w with
  | .s n v t => if n = 0 then r else (r.1.put n.toNat v, setBits r.2 n.toNat n.toNat t.toNat)
  | _ => r

/-- A landing writes the s registers as its write says. -/
theorem CoreSt.land_sRegs (x : CoreSt) (k : SeatId) (f : Fly) : ((x.land k f).seatAt k).sRegs = f.w.intoS (x.seatAt k).sRegs := by
  have write : ((x.land k { f with ev := [] }).seatAt k).sRegs = f.w.intoS (x.seatAt k).sRegs := by
    unfold CoreSt.land
    cases f.w with
    | s n v t =>
      dsimp only [List.foldl_nil, Write.intoS]
      split
      · rfl
      · rw [CoreSt.seatAt_setSeat]; rfl
    | p n v =>
      dsimp only [List.foldl_nil, Write.intoS]
      split
      · rfl
      · rw [CoreSt.seatAt_setSeat]; rfl
    | a | m | pq => dsimp only [List.foldl_nil, Write.intoS]; rw [CoreSt.seatAt_setSeat]; rfl
    | row => rfl
  obtain ⟨b, hb⟩ := CoreSt.pushEvents_seatAt (x.land k { f with ev := [] }) k f.ev
  rw [CoreSt.land_events, hb]
  exact write

/-- Landings write the s registers in their order. -/
theorem CoreSt.lands_sRegs (x : CoreSt) (k : SeatId) (l : List Fly) :
    ((l.foldl (fun x f => x.land k f) x).seatAt k).sRegs = l.foldl (fun r f => f.w.intoS r) (x.seatAt k).sRegs := by
  induction l generalizing x with
  | nil => rfl
  | cons f r ih => rw [List.foldl_cons, ih, CoreSt.land_sRegs, List.foldl_cons]

/-- A write of another register keeps an s register with its tag. -/
theorem Write.intoS_keeps {w : Write} {n : SReg} {v : Word} {t : Bool} (h : w.same (.s n v t) = false) (r : Tab Word × BitVec 32) :
    (w.intoS r).1.val 0 n.toNat = r.1.val 0 n.toNat ∧ (w.intoS r).2.getLsbD n.toNat = r.2.getLsbD n.toNat := by
  cases w with
  | s m u b =>
    have hm : n.toNat ≠ m.toNat := fun e => by simp [Write.same, BitVec.eq_of_toNat_eq e] at h
    unfold Write.intoS
    dsimp only
    split
    · exact ⟨rfl, rfl⟩
    · exact ⟨Tab.val_put_ne _ _ _ hm, by rw [getLsbD_setBits_bit _ m.isLt, if_neg hm]⟩
  | a | m | p | row | pq => exact ⟨rfl, rfl⟩

/-- Writes of other registers keep an s register with its tag. -/
theorem intoS_foldl_keeps {l : List Fly} {n : SReg} {v : Word} {t : Bool} (h : ∀ f ∈ l, f.w.same (.s n v t) = false)
    (r : Tab Word × BitVec 32) :
    (l.foldl (fun r f => f.w.intoS r) r).1.val 0 n.toNat = r.1.val 0 n.toNat
      ∧ (l.foldl (fun r f => f.w.intoS r) r).2.getLsbD n.toNat = r.2.getLsbD n.toNat := by
  induction l generalizing r with
  | nil => exact ⟨rfl, rfl⟩
  | cons f l ih =>
    obtain ⟨hv, ht⟩ := ih (fun g hg => h g (List.mem_cons_of_mem _ hg)) (f.w.intoS r)
    obtain ⟨fv, ft⟩ := Write.intoS_keeps (h f (List.mem_cons_self ..)) r
    exact ⟨hv.trans fv, ht.trans ft⟩

/-- The landing of a write of another register keeps a row. -/
theorem CoreSt.land_row_keeps {f : Fly} {i : Nat} {m d : RowBits} {fl g : BitVec 32} (h : f.w.same (.row i m d fl g) = false)
    (x : CoreSt) (k : SeatId) : (x.land k f).row i = x.row i := by
  rw [CoreSt.land_events, CoreSt.pushEvents_row]
  unfold CoreSt.land
  cases hw : f.w with
  | row j m' d' fl' g' =>
    rw [hw] at h
    exact Tab.val_put_ne _ _ _ fun e => by simp [Write.same, e] at h
  | s n v t => dsimp only [List.foldl_nil]; split <;> rfl
  | p n v => dsimp only [List.foldl_nil]; split <;> rfl
  | a | m | pq => rfl

/-- Landings of writes of other registers keep a row. -/
theorem CoreSt.lands_row_keeps {l : List Fly} {i : Nat} {m d : RowBits} {fl g : BitVec 32}
    (h : ∀ f ∈ l, f.w.same (.row i m d fl g) = false) (x : CoreSt) (k : SeatId) :
    (l.foldl (fun x f => x.land k f) x).row i = x.row i := by
  induction l generalizing x with
  | nil => rfl
  | cons f r ih =>
    rw [List.foldl_cons, ih fun g hg => h g (List.mem_cons_of_mem _ hg),
      CoreSt.land_row_keeps (h f (List.mem_cons_self ..))]

/-! ### A result put in flight, and the issue cycles at which it may be read (R31, R54) -/

/-- A write to s0 or p0, which is discarded (R17). -/
def Write.dropped : Write → Bool
  | .s n _ _ => n == 0
  | .p n _ => n == 0
  | _ => false

/-- A result that is not discarded, with no other for its register in flight, is put behind those that are. -/
theorem SeatSt.fly1_new {q : SeatSt} {w : Write} (hw : w.dropped = false)
    (h : ∀ f ∈ q.fly, f.w.same w = false) (free ic lat : Nat) :
    q.fly1 free ic lat w = { q with fly := q.fly ++ [⟨ic, ic + lat, w, []⟩] } := by
  unfold SeatSt.fly1
  split
  · simp [Write.dropped] at hw
  · simp [Write.dropped] at hw
  · rw [flyAdd_new h]

/-- The s registers after what is due has landed. -/
theorem CoreSt.landDue_sRegs (x : CoreSt) (k : SeatId) (now : Nat) :
    ((x.landDue k now).seatAt k).sRegs
      = ((x.seatAt k).fly.filter fun f => f.due ≤ now).foldl (fun r f => f.w.intoS r) (x.seatAt k).sRegs := by
  unfold CoreSt.landDue
  dsimp only
  rw [CoreSt.lands_sRegs, CoreSt.seatAt_setSeat]
  rfl

/-- Landing what is due keeps an s register, with its tag, that no result in flight writes. -/
theorem CoreSt.landDue_s_keeps {x : CoreSt} {k : SeatId} {n : SReg} {v : Word} {t : Bool}
    (h : ∀ f ∈ (x.seatAt k).fly, f.w.same (.s n v t) = false) (now : Nat) :
    ((x.landDue k now).seatAt k).sRegs.1.val 0 n.toNat = (x.seatAt k).sr.val 0 n.toNat
      ∧ ((x.landDue k now).seatAt k).sRegs.2.getLsbD n.toNat = (x.seatAt k).sTag.getLsbD n.toNat := by
  rw [CoreSt.landDue_sRegs]
  exact intoS_foldl_keeps (fun f hf => h f (List.mem_filter.1 hf).1) _

/-- Landing what is due keeps a row that no result in flight writes. -/
theorem CoreSt.landDue_row_keeps {x : CoreSt} {k : SeatId} {i : Nat} {m d : RowBits} {fl g : BitVec 32}
    (h : ∀ f ∈ (x.seatAt k).fly, f.w.same (.row i m d fl g) = false) (now : Nat) : (x.landDue k now).row i = x.row i :=
  CoreSt.lands_row_keeps (fun f hf => h f (List.mem_filter.1 hf).1) _ k

section Landing

variable {x : CoreSt} {k : SeatId} {w : Write} (hw : w.dropped = false)
  (h : ∀ f ∈ (x.seatAt k).fly, f.w.same w = false) (free : Nat) {lat now : Nat}
include hw h

/-- From its bound on, a new result lands after everything else that is due. -/
theorem CoreSt.landDue_fly1_due (hd : x.ic + lat ≤ now) :
    (x.setSeat k ((x.seatAt k).fly1 free x.ic lat w)).landDue k now = (x.landDue k now).land k ⟨x.ic, x.ic + lat, w, []⟩ := by
  unfold CoreSt.landDue
  dsimp only
  simp only [SeatSt.fly1_new hw h, CoreSt.seatAt_setSeat, CoreSt.setSeat_setSeat, List.filter_append, List.filter_cons, List.filter_nil,
    decide_eq_true hd, decide_eq_false (Nat.not_lt.2 hd), List.append_nil, List.foldl_append, List.foldl_cons,
    List.foldl_nil, if_true, Bool.false_eq_true, if_false]

/-- Before its bound, a new result leaves the s registers to the others. -/
theorem CoreSt.landDue_fly1_early (hd : now < x.ic + lat) :
    (((x.setSeat k ((x.seatAt k).fly1 free x.ic lat w)).landDue k now).seatAt k).sRegs = ((x.landDue k now).seatAt k).sRegs := by
  rw [CoreSt.landDue_sRegs, CoreSt.landDue_sRegs, CoreSt.seatAt_setSeat, SeatSt.fly1_new hw h]
  simp [decide_eq_false (Nat.not_le.2 hd), SeatSt.sRegs]

end Landing

/-- What lands in an a register with its tag. -/
theorem CoreSt.land_a (x : CoreSt) (k : SeatId) (b d : Nat) (n : AReg) (v : Word) (t : Bool) :
    ((x.land k ⟨b, d, .a n v t, []⟩).seatAt k).ar.val 0 n.toNat = v
      ∧ ((x.land k ⟨b, d, .a n v t, []⟩).seatAt k).aTag.getLsbD n.toNat = t := by
  simp [CoreSt.land, getLsbD_setBits_bit _ n.isLt]

/-- The tag that lands with an s register. -/
theorem CoreSt.land_sTag (x : CoreSt) (k : SeatId) (b d : Nat) {n : SReg} (v : Word) (t : Bool) (h : n ≠ 0) :
    ((x.land k ⟨b, d, .s n v t, []⟩).seatAt k).sTag.getLsbD n.toNat = t := by
  simp only [CoreSt.land, if_neg h, List.foldl_nil, CoreSt.seatAt_setSeat, getLsbD_setBits_bit _ n.isLt, if_true]

/-- A landing in an s register keeps every other one. -/
theorem CoreSt.land_s_ne (x : CoreSt) (k : SeatId) (b d : Nat) {n j : SReg} (v : Word) (t : Bool) (h : j ≠ n) :
    ((x.land k ⟨b, d, .s n v t, []⟩).seatAt k).sr.val 0 j.toNat = (x.seatAt k).sr.val 0 j.toNat := by
  have other : Write.same (.s n v t) (.s j v t) = false := by simpa [Write.same] using Ne.symm h
  exact (congrArg (fun r => r.1.val 0 j.toNat) (x.land_sRegs k ⟨b, d, .s n v t, []⟩)).trans (Write.intoS_keeps other _).1

/-- Settles O55: from its bound on a new result is the last to land, and before it the results that land are those of other
registers. -/
theorem resultsLand : Obligations.ResultsLand := by
  intro x k w lat now free q z y h
  refine ⟨?_, ?_, ?_, ?_, ?_, ?_, ?_⟩
  · rintro n v t rfl hn
    have hw : (Write.s n v t).dropped = false := by simpa [Write.dropped] using hn
    have due (hd : x.ic + lat ≤ now) : z = y.land k ⟨x.ic, x.ic + lat, .s n v t, []⟩ :=
      CoreSt.landDue_fly1_due hw h free hd
    have early (hd : now < x.ic + lat) : (z.seatAt k).sRegs = (y.seatAt k).sRegs :=
      CoreSt.landDue_fly1_early hw h free hd
    refine ⟨fun hd => ?_, fun hd => ?_, fun j hj => ?_⟩
    · rw [due hd]
      exact ⟨CoreSt.land_s y k _ _ v t hn, CoreSt.land_sTag y k _ _ v t hn⟩
    · have kept := CoreSt.landDue_s_keeps h now
      rw [← show (z.seatAt k).sRegs = _ from early hd] at kept
      exact kept
    · rcases Nat.lt_or_ge now (x.ic + lat) with hd | hd
      · exact congrArg (fun r => r.1.val 0 j.toNat) (early hd)
      · rw [due hd]
        exact CoreSt.land_s_ne y k _ _ v t hj
  · rintro n v t rfl hd
    rw [show z = _ from CoreSt.landDue_fly1_due rfl h free hd]
    exact CoreSt.land_a y k _ _ n v t
  · rintro n v rfl hd
    rw [show z = _ from CoreSt.landDue_fly1_due rfl h free hd]
    simp [CoreSt.land]
  · rintro n v rfl hn hd
    rw [show z = _ from CoreSt.landDue_fly1_due (by simpa [Write.dropped] using hn) h free hd]
    simp only [CoreSt.land, if_neg hn, List.foldl_nil, CoreSt.seatAt_setSeat, Tab.val_put_same]
  · rintro n r rfl hd
    rw [show z = _ from CoreSt.landDue_fly1_due rfl h free hd]
    simp [CoreSt.land]
  · rintro n m d fl g rfl hd
    rw [show z = _ from CoreSt.landDue_fly1_due rfl h free hd, CoreSt.land_row, CoreSt.landDue_row_keeps h]
    exact ⟨rfl, rfl⟩
  · rintro (⟨v, t, rfl⟩ | ⟨v, rfl⟩) <;> rfl

end Sys2Proof.Machine
end

section
namespace Sys2Proof.Machine

/-! ### Attempts with a cause before their operands' (R158, R159) -/

/-- The first of a list of causes is taken where every other one has a later rank. -/
theorem firstCause_head {p : PCause} {l : List PCause} (h : ∀ m ∈ l, p.rank < m.rank) : firstCause (p :: l) = some p := by
  unfold firstCause
  cases hm : firstCause l with
  | none => rfl
  | some m =>
    have later := h m (firstCause_mem hm)
    refine if_neg ?_
    simp only [Bool.or_eq_true, Bool.and_eq_true, decide_eq_true_eq]
    omega

/-- A poisoned s register is a cause of rank 6. -/
theorem At.poisS_rank {e : At} {syl : Nat} {n : SReg} {m : PCause} (h : m ∈ e.poisS syl n) : m.rank = 60 := by
  unfold At.poisS at h
  split at h
  · rw [List.mem_singleton.1 h]
  · cases h

/-- A supervisor-only instruction is an attempt whose own causes are poisoned sources; it names no v register and no group (R92, R158). -/
theorem supOnly_attempt {i : Instr} (h : supOnly i = true) :
    ∃ f : At → Plan, (∀ s, exec i s = attempt s i f) ∧ (∀ e, ∀ m ∈ (f e).causes, m.rank = 60) ∧ vregsOf i = []
      ∧ ∀ q : SeatSt, q.shapeOk i = true := by
  cases i
  case eret => exact ⟨_, fun s => show execEret s = _ from rfl, fun _ _ h => absurd h List.not_mem_nil, rfl, fun _ => rfl⟩
  case eqflushD q =>
    exact ⟨_, fun s => show execEqflushD q s = _ from rfl, fun _ _ h => absurd h List.not_mem_nil, rfl, fun _ => rfl⟩
  case eqflushR q sb =>
    exact ⟨_, fun s => show execEqflushR q sb s = _ from rfl, fun _ _ => At.poisS_rank, rfl, fun _ => rfl⟩
  case minj unit sa n gap =>
    exact ⟨_, fun s => show execMinj unit sa n gap s = _ from rfl, fun _ _ => At.poisS_rank, rfl, fun _ => rfl⟩
  case minjOff =>
    exact ⟨_, fun s => show execMinjOff s = _ from rfl, fun _ _ h => absurd h List.not_mem_nil, rfl, fun _ => rfl⟩
  case crwReg cr sa =>
    exact ⟨_, fun s => show execCrwReg cr sa s = _ from rfl, fun _ _ => At.poisS_rank, rfl, fun _ => rfl⟩
  case crwImm cr imm =>
    exact ⟨_, fun s => show execCrwImm cr imm s = _ from rfl, fun _ _ h => absurd h List.not_mem_nil, rfl, fun _ => rfl⟩
  all_goals exact absurd h Bool.false_ne_true

/-- A legal supervisor-only instruction at user level raises F_PRIV (R92, R158). -/
theorem supOnly_raises {e : At} {i : Instr} (hc : e.s.cur = some (e.c, e.k)) (hs : e.s.sure = false) (hl : e.q.plv = false)
    (wf : i.wf = true) (sup : supOnly i = true) : Raises i e ⟨20, sylOf i, fPriv, 0, none⟩ := by
  obtain ⟨f, run, causes, regs, shape⟩ := supOnly_attempt sup
  have tier1 : (e.s.seat e.c e.k).tier1 i = [⟨20, sylOf i, fPriv, 0, none⟩] := by
    have hl : (e.s.seat e.c e.k).plv = false := hl
    simp [SeatSt.tier1, wf, shape, sup, hl, regs]
  refine (run e.s).trans (attempt_trap hc hs ?_)
  rw [tier1]
  exact firstCause_head fun m hm => Nat.lt_of_lt_of_eq (show 20 < 60 by decide) (causes _ m hm).symm

/-- A legal attempt that is never held and meets no cause takes its effect. -/
theorem plan_effects {e : At} {i : Instr} {causes : At → List PCause} {eff : At → State} (hc : e.s.cur = some (e.c, e.k))
    (run : exec i e.s = attempt e.s i fun e => e.plan (causes e) (eff e)) (tier1 : e.q.tier1 i = []) (free : causes e = []) :
    Effects i e.s (eff e) :=
  run.trans (attempt_effect hc (.inr ⟨tier1, free, rfl⟩))

/-! ### The entry of a trap (R154, R155) -/

/-- A precise cause that is no double trap and records no failed translation starts the handler: what is in flight lands, and the trap
registers are written (R154). -/
theorem State.takePrecise_entry {s : State} {c : CoreId} {k : SeatId} {p : PCause} (h : (s.seat c k).act = false) (hx : p.xf = none) :
    (s.takePrecise c k p).seat c k = (((s.core c).landAll k).seatAt k).trapRegs (s.seat c k).pc
      (mkCause p.code 0 false p.syl (s.seat c k).plv 0) p.tval := by
  unfold State.takePrecise
  simp only [h, hx, Bool.false_eq_true, if_false]
  rw [State.seat, State.core_modCore]
  exact CoreSt.seatAt_setSeat ..

/-- A handler starts at tvec at supervisor level, whatever lands at the entry. -/
theorem CoreSt.landAll_tvec (x : CoreSt) (k : SeatId) : ((x.landAll k).seatAt k).tvec = (x.seatAt k).tvec := by
  rw [CoreSt.landAll_seatAt]
  rfl

/-! ### Writes of control registers (R26, R29) -/

/-- From 0x020 on every control register but mlim is read-only (R26, R249). -/
theorem SeatSt.crWrite_readOnly (q : SeatSt) {n : Nat} (h : 0x020 ≤ n) (hm : n ≠ 0x084) (x : Word) : q.crWrite n x = q := by
  unfold SeatSt.crWrite
  split
  case h_17 => rfl
  all_goals omega

/-- CRR reads its register as it stands at the attempt (R92). -/
theorem exec_crr (sd : SReg) (cr : Bits12) (s : State) :
    exec (.crr sd cr) s = attempt s (.crr sd cr) fun e => e.plan [] (e.fly 2 (.s sd (e.s.crRead e.c e.k cr.toNat) false)) := rfl

/-- CRW writes its register from sA, which may not be poisoned (R92, R112). -/
theorem exec_crwReg (cr : Bits12) (sa : SReg) (s : State) :
    exec (.crwReg cr sa) s = attempt s (.crwReg cr sa) fun e =>
      e.plan (e.poisS 0 sa) (e.s.modSeat e.c e.k fun q => q.crWrite cr.toNat (e.sGet sa).1) := rfl

/-- CRW writes its register from an immediate (R92). -/
theorem exec_crwImm (cr : Bits12) (imm : Bits26) (s : State) :
    exec (.crwImm cr imm) s = attempt s (.crwImm cr imm) fun e =>
      e.plan [] (e.s.modSeat e.c e.k fun q => q.crWrite cr.toNat (imm.zeroExtend 64)) := rfl

/-- tcause of an F_PRIV taken at user level (R155). -/
theorem mkCause_priv (syl : Nat) : mkCause fPriv 0 false syl false 0 = BitVec.ofNat 64 (0x0102 + syl * 2 ^ 20 + 2 ^ 25) := by
  have code : fPriv.toNat = 0x0102 := rfl
  have none : false.toNat = 0 := rfl
  have sum : fPriv.toNat + 0 * 2 ^ 16 + false.toNat * 2 ^ 19 + syl * 2 ^ 20 + false.toNat * 2 ^ 24 + 2 ^ 25 + 0 * 2 ^ 32
      = 0x0102 + syl * 2 ^ 20 + 2 ^ 25 := by omega
  exact congrArg (BitVec.ofNat 64) sum

/-- Settles O7: each instruction is a plain attempt, and at user level F_PRIV comes before the causes of its operands. -/
theorem controlRegisterEffects : Obligations.ControlRegisterEffects := by
  refine ⟨fun e sd sa cr imm x hc assigned nonzero value level => ?_, fun e i hc hs hl ha wf sup => ?_⟩
  · refine ⟨?_, ?_, ?_, ?_, ?_, ?_, fun h hm => SeatSt.crWrite_readOnly _ h hm x⟩
    · exact plan_effects hc (exec_crr ..) (SeatSt.tier1_nil assigned rfl nofun nofun) rfl
    · have legal : (Instr.crwReg cr sa).wf = true := by simpa [Instr.wf, assigned] using nonzero
      have := plan_effects hc (exec_crwReg cr sa e.s) (SeatSt.tier1_nil legal rfl level nofun) (by simp [At.poisS, value])
      rwa [value] at this
    · exact plan_effects hc (exec_crwImm ..) (SeatSt.tier1_nil assigned rfl level nofun) rfl
    all_goals
      rintro rfl
      rw [State.seat_modSeat]
      rfl
  · refine ⟨_, supOnly_raises hc hs hl wf sup, State.takePrecise_mem _ _ _ _ ha rfl, ?_⟩
    rw [State.takePrecise_entry ha rfl]
    refine ⟨rfl, CoreSt.landAll_tvec .., rfl, rfl, ?_⟩
    show mkCause fPriv 0 false (sylOf i) e.q.plv 0 = _
    rw [hl, mkCause_priv]

end Sys2Proof.Machine
end

section
namespace Sys2Proof.Machine

/-! ### Predicates from their lanes (R16) -/

/-- Bit k of a number made of bits, lowest first, is the k-th of them. -/
theorem testBit_foldr_bits (f : Nat → Bool) (l : List Nat) (k : Nat) :
    (l.foldr (fun j r => r * 2 + (f j).toNat) 0).testBit k = (l[k]?.map f).getD false := by
  induction l generalizing k with
  | nil => simp
  | cons j r ih =>
    rw [List.foldr_cons]
    cases k with
    | zero => cases h : f j <;> simp [Nat.testBit_zero, h]
    | succ k =>
      have half (m : Nat) : (m * 2 + (f j).toNat) / 2 = m := by have := Bool.toNat_lt (f j); omega
      rw [Nat.testBit_succ, half, ih, List.getElem?_cons_succ]

/-- A row has at most 1,024 lanes (R15). -/
theorem lanes_le (t : Ty) : t.lanes ≤ 1024 := by cases t <;> decide

/-- A predicate holds the bit of each lane, and its bits from the lane count on are clear (R16). -/
theorem predOf_getLsbD (t : Ty) (f : Nat → Bool) (k : Nat) : (predOf t f).getLsbD k = (decide (k < t.lanes) && f k) := by
  have := lanes_le t
  rw [predOf, BitVec.getLsbD_ofNat, testBit_foldr_bits]
  by_cases h : k < t.lanes
  · simp [h, show k < 1024 by omega]
  · simp [h]

/-! ### Operands without poison in the lanes read (R112) -/

/-- A row no sector of which is poisoned under the lanes given has no poisoned sector among them. -/
theorem Opnd.sects_clean {o : Opnd} {w : Nat} {l : List Nat} (h : ∀ k ∈ l, o.row.t.getLsbD (k * w / 256) = false) :
    o.sects w l = 0 := by
  induction l with
  | nil => rfl
  | cons k r ih =>
    rw [Opnd.sects, List.foldl_cons, h k (List.mem_cons_self ..), if_neg Bool.false_ne_true]
    exact ih fun j hj => h j (List.mem_cons_of_mem _ hj)

/-- An operand no lane of which reads a poisoned element is not poisoned in them. -/
theorem Opnd.pois_clean {o : Opnd} {w : Nat} {l : List Nat} (h : ∀ k ∈ l, o.tg w k = false) : o.pois w l = none := by
  unfold Opnd.pois
  split
  · rename_i v hv
    cases l with
    | nil => simp
    | cons k r =>
      have := h k (List.mem_cons_self ..)
      rw [Opnd.tg, hv] at this
      simp [this]
  · rename_i hv
    refine if_pos (Opnd.sects_clean fun k hk => ?_)
    have := h k hk
    rwa [Opnd.tg, hv] at this

/-! ### Compares (R119) -/

/-- A compare without a poisoned element in an active lane takes its effect: each active lane's bit is the condition, an inactive one's
is kept, or cleared under Z, and the bits from the lane count on are clear. -/
theorem compareLanes_effect {e : At} (hc : e.s.cur = some (e.c, e.k)) {i : Instr} (ht : e.q.tier1 i = []) (pd : PReg) {a b : VSrc}
    (z : Bool) {g : Guard} {ty : Ty} (f : Fcr → Nat → Nat → Bool)
    (clean : ∀ k, k < ty.lanes → e.active g k = true → (e.opnd a).tg ty.width k = false ∧ (e.opnd b).tg ty.width k = false) :
    ∃ v : PredBits, (∀ k, k < ty.lanes → v.getLsbD k =
        if e.active g k then f e.fcr ((e.opnd a).el ty.width k) ((e.opnd b).el ty.width k) else !z && (e.pGet pd).getLsbD k)
      ∧ (∀ k, ty.lanes ≤ k → v.getLsbD k = false)
      ∧ compareLanes e.s i pd a b z g ty f = .next { e.pset (4 + raise [a, b]) pd v with last := .issued } := by
  have on {k : Nat} (hk : k ∈ (List.range ty.lanes).filter (e.active g)) : k < ty.lanes ∧ e.active g k = true := by
    simpa using hk
  refine ⟨predOf ty fun k => if e.active g k then f e.fcr ((e.opnd a).el ty.width k) ((e.opnd b).el ty.width k)
    else !z && (e.pGet pd).getLsbD k, fun k hk => ?_, fun k hk => ?_, ?_⟩
  · rw [predOf_getLsbD, decide_eq_true hk, Bool.true_and]
  · rw [predOf_getLsbD, decide_eq_false (Nat.not_lt.2 hk), Bool.false_and]
  · refine attempt_effect hc (.inr ⟨ht, ?_, rfl⟩)
    dsimp only [At.plan]
    rw [Opnd.pois_clean fun k hk => (clean k (on hk).1 (on hk).2).1, Opnd.pois_clean fun k hk => (clean k (on hk).1 (on hk).2).2]
    rfl

/-- VCMP compares the values of its elements (R119). -/
theorem exec_vcmp (pd : PReg) (a b : VSrc) (cond : Bits3) (z : Bool) (g : Guard) (ty : Ty) (s : State) :
    exec (.vcmp pd a b cond z g ty) s
      = compareLanes s (.vcmp pd a b cond z g ty) pd a b z g ty fun c x y => condF cond.toNat (real c ty x) (real c ty y) := rfl

/-- VICMP compares the integers of its elements (R119). -/
theorem exec_vicmp (pd : PReg) (a b : VSrc) (cond : Bits3) (z : Bool) (g : Guard) (ty : Ty) (s : State) :
    exec (.vicmp pd a b cond z g ty) s
      = compareLanes s (.vicmp pd a b cond z g ty) pd a b z g ty fun _ x y => condI cond.toNat (intOf ty x) (intOf ty y) := rfl

/-- Settles O23: a compare has no cause before its operands, and its conditions are those of its number. -/
theorem compareResults : Obligations.CompareResults := by
  intro e pd a b cond z g ty hc ok w x y act clean out
  have legal {i : Instr} (h : ok i) (shape : e.q.shapeOk i = true) (level : supOnly i = false) : e.q.tier1 i = [] :=
    SeatSt.tier1_nil h.1 shape (by simp [level]) h.2
  have lane {act : Bool} {p q : Prop} {b old : Bool} (h : b = true ↔ p) (hq : (!z && old) = true ↔ q) :
      (if act = true then b else !z && old) = true ↔ if act = true then p else q := by
    split
    · exact h
    · exact hq
  refine ⟨fun h free => ?vcmp, fun h free => ?vicmp⟩
  case vcmp =>
    obtain ⟨v, lanes, above, effect⟩ := compareLanes_effect hc (legal h rfl rfl) pd z
      (fun c p q => condF cond.toNat (real c ty p) (real c ty q)) free
    refine ⟨v, fun k hk => ?_, above, (exec_vcmp ..).trans effect⟩
    rw [lanes k hk]
    refine lane ?_ (by simp)
    have number : cond.toNat = 0 ∨ cond.toNat = 1 ∨ cond.toNat = 2 ∨ cond.toNat = 3 ∨ cond.toNat = 4 ∨ cond.toNat = 5
        ∨ cond.toNat = 6 ∨ cond.toNat = 7 := by
      have := cond.isLt
      omega
    unfold condF
    dsimp only
    generalize (real e.fcr ty _).cmp (real e.fcr ty _) = o
    rcases number with h | h | h | h | h | h | h | h <;> rw [h] <;> rcases o with _ | _ | _ | _ <;> simp
  case vicmp =>
    obtain ⟨v, lanes, above, effect⟩ := compareLanes_effect hc (legal h rfl rfl) pd z
      (fun _ p q => condI cond.toNat (intOf ty p) (intOf ty q)) free
    refine ⟨v, fun k hk => ?_, above, (exec_vicmp ..).trans effect⟩
    rw [lanes k hk]
    refine lane ?_ (by simp)
    have number : cond.toNat = 0 ∨ cond.toNat = 1 ∨ cond.toNat = 2 ∨ cond.toNat = 3 ∨ cond.toNat = 4 ∨ cond.toNat = 5 := by
      have := h.1
      simp only [Instr.wf, Bool.and_eq_true, decide_eq_true_eq] at this
      omega
    unfold condI
    rcases number with h | h | h | h | h | h <;> rw [h] <;> simp [w, x, y]

end Sys2Proof.Machine
end

section
namespace Sys2Proof.Machine

/-! ### The front of a ck (R431) -/

/-- The state in which the front of a core's ck finds it: phase 1 has passed, and no bundle is latched. -/
def State.opened (s : State) (c : CoreId) : State :=
  ({ s with focus := c, latch := none, sure := false, last := .idle } : State).modCore c CoreSt.phase1

/-- A core put back as it stands after phase 1. -/
theorem State.opened_setCore (s : State) (c : CoreId) : (s.opened c).setCore c ((s.opened c).core c) = s.opened c := by
  simp [State.opened, State.modCore]

/-- With nothing in the way, the bundle that is fetched and decoded is latched, once no cause of its front is found and its header wait
is met. -/
theorem State.front_latch {s : State} {c : CoreId} {k : SeatId} {b : BitVec 256} {segs : List Seg} {h : Header} {is ia iv ix : Instr} :
    let p := s.opened c
    let x := p.core c
    let q := x.seatAt k
    let l : Latch := ⟨q.pc, h.ws, h.wk, is, ia, iv, ix⟩
    x.stopped = false → p.pkg.supply = false → x.stall = 0 → x.freeze = false → x.swp = false → x.busy = 0 →
    x.issuing = some k → q.pending p.cyc = false ∨ x.filling k = true → p.fetch c k = .bundle b segs →
    decodeBundle b = .ok h is ia iv ix → q.gap < 4096 → (∀ i ∈ [is, ia, iv, ix], q.tier1 i = []) → q.waitMet l = true →
    s.front c = { p.codeLook c segs with latch := some l } := by
  intro p x q l stopped supply stall freeze swp busy issuing pend fetch dec gap tier1 wait
  have pending : (q.pending p.cyc && !x.filling k) = false := by
    rcases pend with h | h <;> simp [h]
  have causes : firstCause ([] ++ q.tier1 is ++ q.tier1 ia ++ q.tier1 iv ++ q.tier1 ix) = none := by
    simp [tier1, firstCause]
  unfold State.front
  dsimp only
  rw [show ({ s with focus := c, latch := none, sure := false, last := .idle } : State).modCore c CoreSt.phase1 = p from rfl,
    show p.core c = x from rfl]
  simp only [stopped, supply, stall, freeze, swp, show p.setCore c x = p from s.opened_setCore c, busy, Bool.or_self,
    Bool.false_eq_true, if_false, bne_self_eq_false, issuing]
  rw [show x.seatAt k = q from rfl, pending, fetch]
  simp only [dec, if_neg (Nat.not_le.2 gap), causes]
  exact if_pos wait

/-! ### A step without an event (R431, log 1) -/

/-- A step with no event due runs the ck of the focus core, and the bundle that its front has latched. -/
theorem step_ck {s t : State} (idle : ∀ p, s.agenda.head? = some p → s.free < p.1)
    (h : exec (.issueAttempt s.focus .none) { s with free := s.free + 1 } = .next t) :
    (t.latch = none → step s = .next t.tick)
      ∧ ∀ l u, t.latch = some l → runBundle exec l t = .next u → step s = .next u.tick := by
  have none_due : s.agenda.head?.filter (fun p => decide (p.1 ≤ s.free)) = none := by
    rw [Option.filter_eq_none_iff]
    intro p hp
    simpa using idle p hp
  unfold step stepWith
  simp only [none_due, h]
  refine ⟨fun hl => ?_, fun l u hl hu => ?_⟩
  · simp [hl]
  · simp [hl, hu]

/-! ### A bundle of one instruction besides NOPs (R30, R36, R37) -/

/-- What a bundle did not take effect with leaves what its core waits for. -/
theorem State.core_restore (u : State) (c : CoreId) (k : SeatId) (q : SeatSt) :
    ((u.restore c k q).core c).freeze = (u.core c).freeze ∧ ((u.restore c k q).core c).filling k = (u.core c).filling k := by
  unfold State.restore State.modSeat
  rw [State.core_setSeat]
  exact ⟨rfl, rfl⟩

section OneInstruction

variable {s w u : State} {c : CoreId} {k : SeatId} {l : Latch} {i : Instr}
  (clear : ({ s with latch := none, sure := false } : State) = s) (hc : s.cur = some (c, k)) (ho : l.order = [i])
  (hw : s.setSeat c k ((s.seat c k).header l) = w) (hu : exec i w = .next u)
include clear hc ho hw hu

/-- A bundle whose instruction traps ends with the trap, and nothing else of it happens (R36). -/
theorem runBundle_trapped {r j : Nat} (h : u.last = .trapped r j) :
    runBundle exec l s = .next ((u.restore c k (s.seat c k)).noIssue c) := by
  simp [runBundle, clear, hc, ho, hw, hu, firstStop, firstTrap, trapKey, outcomeOf, h]

/-- A bundle whose instruction is held waits, its core not frozen. -/
theorem runBundle_held (h : u.last = .held) (hf : (u.core c).freeze = false) :
    runBundle exec l s = .next ((u.restore c k (s.seat c k)).noIssue c) := by
  simp [runBundle, clear, hc, ho, hw, hu, firstStop, firstTrap, trapKey, lastHeld, outcomeOf, h, u.core_restore, hf]

/-- A bundle whose load has frozen the core waits for it, unless its cycle meets a late verdict (R59, R245). -/
theorem runBundle_frozen (h : u.last = .held) (hf : (u.core c).freeze = true)
    (hv : (u.core c).filling k = false ∨ (s.core c).verdict k = none) :
    runBundle exec l s = .next ((u.restore c k (s.seat c k)).boundary s.out.length) := by
  have verdict : (if (u.core c).filling k then (s.core c).verdict k else none) = none := by
    rcases hv with hv | hv <;> simp [hv]
  simp [runBundle, clear, hc, ho, hw, hu, firstStop, firstTrap, trapKey, lastHeld, outcomeOf, h, u.core_restore, hf, verdict]

/-- A bundle whose cycle meets a late verdict is replayed: nothing of it takes effect (R245). -/
theorem runBundle_replay {inj : Bool} (hv : (s.core c).verdict k = some inj)
    (h : (u.last = .held ∧ (u.core c).freeze = true ∧ (u.core c).filling k = true) ∨ u.last = .issued ∨ u.last = .moved) :
    runBundle exec l s = .next { s.replay c k inj with last := .held } := by
  rcases h with ⟨h, hf, hl⟩ | h
  · simp [runBundle, clear, hc, ho, hw, hu, firstStop, firstTrap, trapKey, lastHeld, outcomeOf, h, u.core_restore, hf, hl, hv]
  · rcases h with h | h <;> simp [runBundle, clear, hc, ho, hw, hu, firstStop, firstTrap, trapKey, lastHeld, outcomeOf, h, hv]

/-- A bundle whose instruction takes its effect issues: what it sends outward stands at the boundary, and it commits (R30, R86). -/
theorem runBundle_issued (h : u.last = .issued ∨ u.last = .moved) (hv : (s.core c).verdict k = none) {v : State}
    (hs : exec i { w with sure := true } = .next v) :
    runBundle exec l s = .next ((({ (v.boundary s.out.length).commit c k l (decide (v.last = .moved)) (s.seat c k).act with
      sure := false, last := .issued } : State).settle c k l).cycle c) := by
  rcases h with h | h <;> simp [runBundle, clear, hc, ho, hw, hu, firstStop, firstTrap, trapKey, lastHeld, outcomeOf, h, hv, hs]

end OneInstruction

/-! ### The next pc (R82, R86) -/

/-- The pc that a control instruction chose comes next. -/
theorem SeatSt.nextPc_chosen {q : SeatSt} {a : Word} (h : q.npc = some a) (pc : Word) (quiet : Bool) :
    q.nextPc pc quiet = (q.lc, a) := by
  simp [SeatSt.nextPc, h]

/-- At the end of a loop's body that still counts, the back-edge is taken, unless the bundle writes lc, ls or le. -/
theorem SeatSt.nextPc_backEdge {q : SeatSt} (h : q.npc = none) (hl : q.lc ≠ 0) :
    q.nextPc q.le true = (q.lc - 1, if q.lc - 1 ≠ 0 then q.ls else q.le + 32) := by
  have counts : q.lc ≠ 0#32 := hl
  have last : q.lc - 1#32 = 0#32 ↔ q.lc = 1#32 := by bv_omega
  simp [SeatSt.nextPc, h, counts, last]

/-- Otherwise the next bundle comes next. -/
theorem SeatSt.nextPc_next {q : SeatSt} {pc : Word} {quiet : Bool} (h : q.npc = none) (hq : quiet = false ∨ q.lc = 0 ∨ pc ≠ q.le) :
    q.nextPc pc quiet = (q.lc, pc + 32) := by
  rcases hq with hq | hq | hq <;> simp [SeatSt.nextPc, h, hq]

/-- Settles O57: a step is the event at the head of the agenda, or the front of a ck and the bundle that it latches. -/
theorem stepRunsTheInstruction : Obligations.StepRunsTheInstruction := by
  intro s c k b h is ia iv ix
  refine ⟨fun n i r ha hn => step_agenda s n i r ha hn, ?front, fun t idle h => step_ck idle h, ?bundle, ?nextPc⟩
  case front =>
    intro p x q l stopped supply stall freeze swp busy segs issuing pend fetch dec gap tier1 wait
    exact congrArg Host.Outcome.next
      (State.front_latch stopped supply stall freeze swp busy issuing pend fetch dec gap tier1 wait)
  case bundle =>
    intro l i u hc ho q w hu
    let s₀ : State := { s with latch := none, sure := false }
    have clear : ({ s₀ with latch := none, sure := false } : State) = s₀ := rfl
    exact ⟨fun r j h => runBundle_trapped (s := s₀) clear hc ho rfl hu h,
      fun h hf => runBundle_held (s := s₀) clear hc ho rfl hu h hf,
      fun h hf hv => runBundle_frozen (s := s₀) clear hc ho rfl hu h hf hv,
      fun inj h hv => runBundle_replay (s := s₀) clear hc ho rfl hu hv h,
      fun h hv v hs => runBundle_issued (s := s₀) clear hc ho rfl hu h hv hs⟩
  case nextPc =>
    intro q pc
    refine ⟨fun a h g => SeatSt.nextPc_chosen h pc g, fun h hl hp => ?_, fun h hq g => SeatSt.nextPc_next h (.inr hq)⟩
    subst hp
    exact ⟨SeatSt.nextPc_backEdge h hl, SeatSt.nextPc_next h (.inl rfl)⟩

end Sys2Proof.Machine
end

section
namespace Sys2Proof.Machine

/-! ### The values of the tables at reset (R27, R155, R166, R249, R276, R309, R413) -/

/-- A billet of an empty seat is not valid. -/
theorem reset_billet : bV SeatSt.reset.billet = false := BitVec.getLsbD_zero

/-- Every semaphore is 0. -/
theorem reset_sem (n : SemR) : SeatSt.reset.sem n = 0 := rfl

/-- The limits of consecutive replays, of bundles and of engine cycles (R249). -/
theorem reset_mlim : bits SeatSt.reset.mlim 2 0 = 3 ∧ bits SeatSt.reset.mlim 6 4 = 3 := by decide

/-- The length of a replay window, its budget, the windows over budget before quarantine, and the level a user may request (R249). -/
theorem reset_mwin : bits CoreSt.reset.mwin 4 0 = 20 ∧ bits CoreSt.reset.mwin 23 8 = 256 ∧ bits CoreSt.reset.mwin 27 24 = 4
    ∧ bits CoreSt.reset.mwin 38 32 = 7 := by decide

/-- The configuration of a dispatcher (R309). -/
theorem reset_dcfg : bits DieSt.reset.dcfg 9 0 = 717 ∧ bits DieSt.reset.dcfg 19 10 = 973 ∧ bits DieSt.reset.dcfg 29 20 = 51
    ∧ bits DieSt.reset.dcfg 34 30 = 20 ∧ bits DieSt.reset.dcfg 39 35 = 16 := by decide

/-- Class 15 has every way of the L2, and no other class has any (R276). -/
theorem reset_cwm : DieSt.reset.cwm.val 0 15 = 0xFFFF ∧ ∀ n, n < 15 → DieSt.reset.cwm.val 0 n = 0 :=
  ⟨rfl, fun _ h => if_neg (Nat.ne_of_gt h)⟩

/-- The suspension register of a link (R413). -/
theorem reset_susp : bits LinkSt.reset.susp 2 0 = 3 ∧ bits LinkSt.reset.susp 6 4 = 4 ∧ bits LinkSt.reset.susp 11 8 = 5 := by decide

/-- Settles O60: no core, seat, die or link is listed after reset, so that each reads as its reset value. -/
theorem resetState : Obligations.ResetState := by
  refine ⟨reset_inv, rfl, fun c k => ?seat, fun d => ?die, rfl, rfl, rfl, rfl, fun l => reset_susp⟩
  case seat =>
    obtain ⟨limit, level⟩ := reset_mlim
    obtain ⟨m0, m1, m2, m3⟩ := reset_mwin
    exact ⟨rfl, reset_billet, rfl, rfl, rfl, rfl, rfl, rfl, reset_sem, rfl, rfl, limit, level, rfl, rfl, rfl, m0, m1, m2, m3,
      rfl, rfl, rfl⟩
  case die =>
    obtain ⟨bu, bn, sbg, swl, kwl⟩ := reset_dcfg
    obtain ⟨all, no⟩ := reset_cwm
    exact ⟨bu, bn, sbg, swl, kwl, all, no⟩

end Sys2Proof.Machine
end

section
namespace Sys2Proof.Machine

/-! ### Every instruction of a bundle is attempted (R36) -/

/-- A meaning is an attempt of an operation: what it does is a plan, made from the seat that issues, of causes, a hold and an effect. -/
def Attempted (i : Instr) (run : State → Result) : Prop := ∃ f : At → Plan, ∀ s, run s = attempt s i f

/-! The shapes that instructions share are attempts; those that write each active lane of a row are so as `lanes` is. -/

theorem alu_attempted {i sd lat v} : Attempted i (alu · i sd lat v) := ⟨_, fun _ => rfl⟩
theorem branch_attempted {i sa sb off cond} : Attempted i (branch · i sa sb off cond) := ⟨_, fun _ => rfl⟩
theorem fence_attempted {i ld st scp} : Attempted i (fence · i ld st scp) := ⟨_, fun _ => rfl⟩
theorem arith_attempted {i ad v} : Attempted i (arith · i ad v) := ⟨_, fun _ => rfl⟩
theorem loadScalar_attempted {i rt mem sz sx wt acq} : Attempted i (loadScalar · i rt mem sz sx wt acq) := ⟨_, fun _ => rfl⟩
theorem storeScalar_attempted {i rt mem sz wt rel} : Attempted i (storeScalar · i rt mem sz wt rel) := ⟨_, fun _ => rfl⟩
theorem compareLanes_attempted {i pd a b z g ty f} : Attempted i (compareLanes · i pd a b z g ty f) := ⟨_, fun _ => rfl⟩
theorem blockCmd_attempted {i opc q a} : Attempted i (blockCmd · i opc q a) := ⟨_, fun _ => rfl⟩
theorem pushOf_attempted {i sd sa ab sc wait sem ack} : Attempted i (pushOf · i sd sa ab sc wait sem ack) := ⟨_, fun _ => rfl⟩
theorem lanes_attempted {i vd lat src g ty f} : Attempted i (lanes · i vd lat src g ty f) := ⟨_, fun _ => rfl⟩
theorem float2_attempted {i vd a b g ty lat f} : Attempted i (float2 · i vd a b g ty lat f) := lanes_attempted
theorem float3_attempted {i vd a b c g ty f} : Attempted i (float3 · i vd a b c g ty f) := lanes_attempted
theorem minmax_attempted {i vd a b g ty greater} : Attempted i (minmax · i vd a b g ty greater) := lanes_attempted
theorem bits1_attempted {i vd a g ty lat f} : Attempted i (bits1 · i vd a g ty lat f) := lanes_attempted
theorem bits2_attempted {i vd a b g ty lat f} : Attempted i (bits2 · i vd a b g ty lat f) := lanes_attempted
theorem special_attempted {i vd a g ty f} : Attempted i (special · i vd a g ty f) := lanes_attempted
theorem int2_attempted {i vd a b sat g ty lat f} : Attempted i (int2 · i vd a b sat g ty lat f) := bits2_attempted

/-- An operation that has a syllable is an attempt, by the shape that its meaning has: one of the shared shapes, or a plan of its own. The
steps of other agents have no syllable (R34, R36). -/
theorem exec_attempted {i : Instr} (h : (encode i).isSome = true) : Attempted i (exec i ·) := by
  cases i
  all_goals dsimp only [exec]
  case add | sub | mul | mulh | mulhn | div | divn | rem | remn | and | or | xor | andn | shl | shr | sha | rot | min | max | minn
      | maxn | clz | ctz | popc | seq | sne | slt | sltn | sel | bfx | bfi | addi | andi | ori | xori | shli | shri | shai | slti
      | li | lih =>
    exact alu_attempted
  case beq | bne | blt | bge | bltn | bgen => exact branch_attempted
  case fence | fenceR | fenceW => exact fence_attempted
  case aadd | aaddi | amov => exact arith_attempted
  case ld | lda => exact loadScalar_attempted
  case st | stl => exact storeScalar_attempted
  case vadd | vsub | vmul | vdiv => exact float2_attempted
  case vfma | vfms | vfnma => exact float3_attempted
  case vmin | vmax => exact minmax_attempted
  case vabs | vneg | vnot | viabs | vmov => exact bits1_attempted
  case vcps | vand | vor | vxor | vshl | vshr | vsha => exact bits2_attempted
  case vsqrt | vimad | vsel | vbcstScalar | vbcstImm | vshuf | vshufTwo | vslideImm | vscan | vrnd => exact lanes_attempted
  case vrcp | vrsq | vex2 | vlg2 | vtnh | vlgs | vsin | vcos => exact special_attempted
  case viadd | visub | vimul | vimulh | vimin | vimax => exact int2_attempted
  case vcmp | vicmp => exact compareLanes_attempted
  case mma | mmad | mepi | wload | txfer | tfill | tdrain | tmcast => exact blockCmd_attempted
  case qpush | qpushA => exact pushOf_attempted
  case nop | br | jal | jalr | loopImm | loopReg | lclose | lcloseX | bpany | bpall | bqs | ends | trap | eret | crr | crwReg |
      crwImm | stepImm | stepReg | trig | chkS | chkA | chkV | agetA | agetM | amods | lds | pref | vld | vlds | vst | vgth | vsct
      | vfetch | vtld | vtst | amo | amocas | pand | por | pxor | pnot | pmov | psetImm | psetReg | pcnt | pfst | vbcstLane |
      vextImm | vextReg | vinsImm | vinsReg | vslideReg | vred | vcmpr | vcvt | vqmx | vdqmx | vdelt | mzero | ovpop | tlook |
      tclaimAuto | tclaimNamed | tfreeNamed | tfreeReg | tstatNamed | tstatReg | sigImm | sigReg | swait | semrSem | semrOvf |
      semrEnt | semrCfg | eqflushD | eqflushR | qpop | qstat | bari | bara | barw | launch | nsend | npost | nstatE | nstatT |
      nstatI | nstatA | coll | mrgn | minj | minjOff =>
    exact ⟨_, fun _ => rfl⟩
  all_goals exact absurd h Bool.false_ne_true

/-- An attempt by the seat that issues traps, is held or takes its effect (R36). -/
theorem attempt_answers {s t : State} {c : CoreId} {k : SeatId} {i : Instr} {f : At → Plan} (hc : s.cur = some (c, k))
    (h : attempt s i f = .next t) :
    (∃ m : PCause, t = s.takePrecise c k m) ∨ t.last = .held ∨ t.last = .issued ∨ t.last = .moved := by
  obtain ⟨idle, _⟩ | ⟨c', k', hc', trap | held | effect⟩ := attempt_cases s i f
  case inl => exact absurd (hc.symm.trans idle) nofun
  all_goals cases hc.symm.trans hc'
  · obtain ⟨_, m, _, run⟩ := trap
    cases h.symm.trans run
    exact .inl ⟨m, rfl⟩
  · obtain ⟨_, _, _, run⟩ := held
    cases h.symm.trans run
    exact .inr (.inl rfl)
  · obtain ⟨_, run⟩ := effect
    cases h.symm.trans run
    by_cases moved : (f ⟨s, c, k⟩).moved = true
    · exact .inr (.inr (.inr (if_pos moved)))
    · exact .inr (.inr (.inl (if_neg moved)))

/-! ### What a precise trap writes (R154, R155) -/

/-- tcause of a precise cause as a number: CODE, SYL, PPLV and ACT side by side, SRC and QENT 0 (R155). -/
theorem mkCause_precise_toNat (code : Bits16) {syl : Nat} (h : syl < 8) (l : Bool) :
    (mkCause code 0 false syl l 0).toNat = code.toNat + syl * 2 ^ 20 + l.toNat * 2 ^ 24 + 2 ^ 25 := by
  have none : false.toNat = 0 := rfl
  have level := l.toNat_lt
  have word := code.isLt
  unfold mkCause
  rw [BitVec.toNat_ofNat, none]
  omega

section
variable (code : Bits16) {syl : Nat} (h : syl < 8) (l : Bool)
include h

/-- A field of tcause is that part of the number. -/
theorem mkCause_precise_field (lo n : Nat) : ((mkCause code 0 false syl l 0).extractLsb' lo n).toNat =
    (code.toNat + syl * 2 ^ 20 + l.toNat * 2 ^ 24 + 2 ^ 25) / 2 ^ lo % 2 ^ n := by
  rw [BitVec.extractLsb'_toNat, mkCause_precise_toNat code h, Nat.shiftRight_eq_div_pow]

/-- CODE of a precise cause (R155). -/
theorem mkCause_precise_code : (mkCause code 0 false syl l 0).extractLsb' 0 16 = code := by
  refine BitVec.eq_of_toNat_eq ((mkCause_precise_field code h l 0 16).trans ?_)
  have := code.isLt
  omega

/-- SRC of a precise cause is 0, and so is IMP (R155). -/
theorem mkCause_precise_src : (mkCause code 0 false syl l 0).extractLsb' 16 4 = 0 := by
  refine BitVec.eq_of_toNat_eq ((mkCause_precise_field code h l 16 4).trans ?_)
  have := code.isLt
  show _ = 0
  omega

/-- SYL of a precise cause is the syllable that has it (R155). -/
theorem mkCause_precise_syl : (mkCause code 0 false syl l 0).extractLsb' 20 4 = BitVec.ofNat 4 syl := by
  refine BitVec.eq_of_toNat_eq ((mkCause_precise_field code h l 20 4).trans ?_)
  have := code.isLt
  rw [BitVec.toNat_ofNat]
  omega

/-- PPLV of a precise cause is the level that the trap interrupts (R155). -/
theorem mkCause_precise_pplv : (mkCause code 0 false syl l 0).getLsbD 24 = l := by
  have word := code.isLt
  rw [BitVec.getLsbD, mkCause_precise_toNat code h, Nat.testBit_eq_decide_div_mod_eq]
  cases l <;> simp <;> omega

/-- ACT is set (R155). -/
theorem mkCause_precise_act : (mkCause code 0 false syl l 0).getLsbD 25 = true := by
  have word := code.isLt
  have level := l.toNat_lt
  rw [BitVec.getLsbD, mkCause_precise_toNat code h, Nat.testBit_eq_decide_div_mod_eq, decide_eq_true_eq]
  omega

end

/-- trot holds vrb in its bits 5:0 and prb in its bits 10:8 (R154). -/
theorem SeatSt.trapRegs_trot (q : SeatSt) (epc cause tval : Word) :
    (q.trapRegs epc cause tval).trot.extractLsb' 0 6 = q.vrb ∧ (q.trapRegs epc cause tval).trot.extractLsb' 8 3 = q.prb := by
  have v := q.vrb.isLt
  have p := q.prb.isLt
  have word : (q.trapRegs epc cause tval).trot.toNat = q.vrb.toNat + q.prb.toNat * 256 :=
    (BitVec.toNat_ofNat ..).trans (Nat.mod_eq_of_lt (by omega))
  constructor <;> refine BitVec.eq_of_toNat_eq ?_ <;> rw [BitVec.extractLsb'_toNat, word, Nat.shiftRight_eq_div_pow] <;> omega

/-- tpsn as bits: those of the s tags from 1 on, and above them the a tags (R154). -/
theorem SeatSt.trapRegs_tpsn (q : SeatSt) (epc cause tval : Word) :
    (∀ n, 1 ≤ n → n < 32 → (q.trapRegs epc cause tval).tpsn.getLsbD n = q.sTag.getLsbD n)
      ∧ ∀ n, n < 16 → (q.trapRegs epc cause tval).tpsn.getLsbD (32 + n) = q.aTag.getLsbD n := by
  have low : q.sTag.toNat / 2 * 2 < 2 ^ 32 := Nat.lt_of_le_of_lt (Nat.div_mul_le_self ..) q.sTag.isLt
  have word (n : Nat) (h : n < 64) : (q.trapRegs epc cause tval).tpsn.getLsbD n =
      if n < 32 then (q.sTag.toNat / 2 * 2).testBit n else q.aTag.toNat.testBit (n - 32) := by
    refine (BitVec.getLsbD_ofNat ..).trans ?_
    rw [decide_eq_true h, Bool.true_and, Nat.add_comm, Nat.mul_comm, Nat.testBit_two_pow_mul_add _ low]
  refine ⟨fun n pos lt => ?_, fun n lt => ?_⟩
  · obtain ⟨m, rfl⟩ := Nat.exists_eq_add_of_le' pos
    rw [word _ (by omega), if_pos lt, Nat.testBit_succ, Nat.mul_div_cancel _ Nat.two_pos, ← Nat.testBit_succ]
    rfl
  · rw [word _ (by omega), if_neg (by omega), Nat.add_sub_cancel_left]
    rfl

/-- A precise cause that is no double trap enters the trap in its own core (R154). -/
theorem State.takePrecise_core (s : State) (c : CoreId) (k : SeatId) (p : PCause) (h : (s.seat c k).act = false) :
    (s.takePrecise c k p).core c =
      (s.core c).trapEntry k (s.seat c k).pc (mkCause p.code 0 false p.syl (s.seat c k).plv 0) p.tval 5 := by
  unfold State.takePrecise
  simp only [h, Bool.false_eq_true, if_false]
  rw [State.core_modCore]
  cases p.xf with
  | none => rfl
  | some f =>
    simp only [State.core]
    rw [(State.coresKept_recordFault ..).cores]

/-- A precise cause that is no double trap leaves the rows of the register file as they were, with nothing in flight (R154). -/
theorem State.takePrecise_vrf (s : State) (c : CoreId) (k : SeatId) (p : PCause) (h : (s.seat c k).act = false)
    (hf : (s.seat c k).fly = []) : ((s.takePrecise c k p).core c).vrf = (s.core c).vrf := by
  obtain ⟨-, rows, -, -⟩ := CoreSt.trapEntry_seat (s.core c) k (s.seat c k).pc (mkCause p.code 0 false p.syl (s.seat c k).plv 0)
    p.tval 5 hf
  rw [State.takePrecise_core s c k p h, rows]

/-- Settles O56: an instruction of a bundle is an attempt, and trap entry writes the trap registers and no other (R36, R151, R154). -/
theorem trapsArePrecise : Obligations.TrapsArePrecise := by
  refine fun e hc => ⟨fun i t legal _ run => ?answers, fun m syl act fly => ?entry⟩
  case answers =>
    obtain ⟨f, attempted⟩ := exec_attempted legal
    exact attempt_answers hc ((attempted e.s).symm.trans run)
  case entry =>
    intro t z
    have rows : (t.core e.c).vrf = e.x.vrf := State.takePrecise_vrf e.s e.c e.k m act fly
    have others : ∀ c, c ≠ e.c → t.core c = e.s.core c := fun _ => State.takePrecise_core_ne e.s e.c e.k m act
    have memory : m.xf = none → t.mem = e.s.mem := State.takePrecise_mem e.s e.c e.k m act
    have entered : z = e.q.trapRegs e.q.pc (mkCause m.code 0 false m.syl e.q.plv 0) m.tval :=
      State.takePrecise_seat e.s e.c e.k m act fly
    clear_value z
    subst entered
    obtain ⟨vrb, prb⟩ := e.q.trapRegs_trot e.q.pc (mkCause m.code 0 false m.syl e.q.plv 0) m.tval
    obtain ⟨sTags, aTags⟩ := e.q.trapRegs_tpsn e.q.pc (mkCause m.code 0 false m.syl e.q.plv 0) m.tval
    exact ⟨rfl, rfl, rfl, rfl, mkCause_precise_act m.code syl e.q.plv, mkCause_precise_pplv m.code syl e.q.plv,
      mkCause_precise_code m.code syl e.q.plv, mkCause_precise_src m.code syl e.q.plv, mkCause_precise_syl m.code syl e.q.plv,
      rfl, rfl, rfl, rfl, vrb, prb, sTags, aTags, rfl, rfl, rfl, rfl, rfl, rfl, rfl, rfl, rfl, rfl, rfl, rfl, rfl, rfl, rfl,
      rows, others, memory⟩

end Sys2Proof.Machine
end
